-- ==== Sys2Proof/Word.lean ====
section
/-! DEFINITION. The words the part moves: bytes of host memory and 32-bit registers. -/

namespace Sys2Proof

/-- One byte of host memory (spec/11, 11.1). -/
abbrev Byte := BitVec 8

/-- One register of the register window (spec/11, 11.6). -/
abbrev Word32 := BitVec 32

end Sys2Proof
end

