-- ==== Sys2Proof/Syntax.lean ====
section
/-! DEFINITION. The commands of the SVA-2408: one constructor of `Instr` for each row of the opcode table. -/

namespace Sys2Proof

/-- What reading a code word, or a separately coded unit, of the store finds (R132). -/
inductive Ecc where
  | clean
  | corrected
  | uncorrectable
  deriving DecidableEq, Repr

/-- A separately coded unit of the record store (R132, R137). -/
inductive StoreUnit where
  | cardRow (i : Nat)
  | tillRow (i : Nat)
  | holdContent (i : Nat)
  | linkCopyOne (i : Nat)
  | linkCopyTwo (i : Nat)
  | headerCopyOne
  | headerCopyTwo
  | trailEntry (k : Nat)
  deriving DecidableEq, Repr

/-- One bit of a unit's code words that changed its value: the code word in the unit, and the bit in the word, its 64 data bits first and
its 8 check bits after them (R132). -/
structure BitFlip where
  unit : StoreUnit
  word : Nat
  bit : Nat
  deriving DecidableEq, Repr

/-- The part's PCIe MSI capability as the host programs it (R179): enabled or not, the message address and the message data (log 10). -/
structure MsiCapability where
  enabled : Bool := false
  address : BitVec 64 := 0
  data : Word32 := 0
  deriving DecidableEq, Repr

/-- What the outside world did between the command before and this one (log 2): the bytes the host wrote into its
memory, the host address ranges (base, length) whose reads and whose writes now fail on the link, what the host
programmed into the MSI capability, and the bits of the store that changed. A part left `none` is as it was. -/
structure Outside where
  writes : List Host.Cell := []
  readsFail : Option (List (Nat × Nat)) := none
  writesFail : Option (List (Nat × Nat)) := none
  msi : Option MsiCapability := none
  flips : List BitFlip := []
  deriving DecidableEq, Repr

/-- An outside world that did nothing. -/
def Outside.quiet : Outside :=
  { writes := [], readsFail := none, writesFail := none, msi := none, flips := [] }

/-- The commands. `w` is the worker that makes the step, `lane` the lane whose timer or answer it is, and `e` what
the outside world did before it. -/
inductive Instr where
  -- resets and engine control
  | powerOnReset (e : Outside)
  | scrubEnd (e : Outside)
  | linkReset (e : Outside)
  | reset (e : Outside)
  | resetEnd (e : Outside)
  | start (e : Outside)
  | drain (e : Outside)
  | controlUnknownCommand (value : Word32) (e : Outside)
  -- registers
  | registerWrite (offset : Nat) (data : List Byte) (e : Outside)
  | nudge (value : Word32) (e : Outside)
  | nudge255 (e : Outside)
  | noticeRead (bytes : BitVec 4) (e : Outside)
  -- engine events
  | startingComplete (e : Outside)
  | drainComplete (e : Outside)
  | minuteEvent (e : Outside)
  | sweepMove (e : Outside)
  | lookTimerExpiry (lane : Nat) (e : Outside)
  | noticeHoldExpiry (lane : Nat) (e : Outside)
  -- work on the Authorisation Units
  | workerDispatch (w : Nat) (e : Outside)
  | resumeAfterTillLock (w : Nat) (e : Outside)
  | resumeAfterCardLock (w : Nat) (e : Outside)
  | balanceRoomGranted (w : Nat) (e : Outside)
  | trailPlaceFreed (w : Nat) (e : Outside)
  | expiryJob (w : Nat) (e : Outside)
  -- till requests
  | balance (w : Nat) (e : Outside)
  | activate (w : Nat) (e : Outside)
  | load (w : Nat) (e : Outside)
  | redeem (w : Nat) (e : Outside)
  | holdOpen (w : Nat) (e : Outside)
  | holdRenew (w : Nat) (e : Outside)
  | holdClose (w : Nat) (e : Outside)
  | holdCancel (w : Nat) (e : Outside)
  | reverse (w : Nat) (e : Outside)
  -- office card requests
  | cardStatusSuspend (w : Nat) (e : Outside)
  | cardStatusResume (w : Nat) (e : Outside)
  | cardStatusUnlock (w : Nat) (e : Outside)
  | cardStatusClose (w : Nat) (e : Outside)
  | bonusGrant (w : Nat) (e : Outside)
  | rowRead (w : Nat) (e : Outside)
  | rowWrite (w : Nat) (e : Outside)
  -- office requests without a card number
  | tillWriteRegister (w : Nat) (e : Outside)
  | tillWriteRemove (w : Nat) (e : Outside)
  | tillRelease (w : Nat) (e : Outside)
  | ruleWrite (w : Nat) (e : Outside)
  | programmeWrite (w : Nat) (e : Outside)
  | laneModeOpen (w : Nat) (e : Outside)
  | laneModePaused (w : Nat) (e : Outside)
  | clockSet (w : Nat) (e : Outside)
  | trailRead (w : Nat) (e : Outside)
  | quarantineRead (w : Nat) (e : Outside)
  | unknownKindRequest (w : Nat) (e : Outside)
  -- what goes out to the host
  | answerWrite (lane : Nat) (e : Outside)
  | journalAppend (e : Outside)
  | journalWriteRetry (e : Outside)
  deriving DecidableEq, Repr

end Sys2Proof
end

