-- ==== Sys2Proof/Decode.lean ====
section
/-! DEFINITION. The commands a word spells: none. No row of spec/opcode_table.json gives any bits. -/

namespace Sys2Proof

/-- The table's rows give no bits ("fields": [] on every row), so no word spells a command. -/
def decodeTableWord (_nbits _w : Nat) : Option Instr := none

end Sys2Proof
end

