-- ==== Sys2Proof/Config.lean ====
section
/-! DEFINITION. The fixed figures of the SVA-2408 and the value its manual leaves open. -/

namespace Sys2Proof.Config

/-- Largest amount field, in minor units (00_scope, Amounts; R7). -/
def maxAmount : Nat := 99999999
/-- Lots on one card row (R7). -/
def lotCapacity : Nat := 6
/-- Hold references on one card row (R15). -/
def refCapacity : Nat := 4
/-- The last minute index of the clock: day 65,535, minute 1439 (R175). -/
def lastMinuteIndex : Nat := 94371839
/-- The last day number (R175). -/
def lastDay : Nat := 65535
/-- Service minutes of a day. -/
def minutesPerDay : Nat := 1440
/-- Buckets of the deadline wheel (R77). -/
def buckets : Nat := 4096
/-- Workers (R113). -/
def workers : Nat := 8
/-- Entries of one bank of the lock table (R116). -/
def bankSize : Nat := 8
/-- Places of the wait pool (R120). -/
def poolPlaces : Nat := 32
/-- Entries of the quarantine list (R135). -/
def quarantineCapacity : Nat := 64
/-- Entries of the commit trail (R141). -/
def trailEntries : Nat := 32
/-- Entries of a till's recent list (R106). -/
def recentCapacity : Nat := 8
/-- Till rows (R94). -/
def tills : Nat := 32768
/-- Lanes the part can serve (R146). -/
def lanes : Nat := 64
/-- The greatest movement number (R168). -/
def maxMovement : Nat := 2 ^ 48 - 1
/-- One past the last host address. -/
def hostAddresses : Nat := 2 ^ 64
/-- Silence that lets a BARRED till recover in QUIET mode, in minutes (R103). -/
def recoveryMinutes : Nat := 128
/-- Rows of the value region for partition p (R129). -/
def cardRows (p : Nat) : Nat := (p + 1) * 1048576
/-- Hold rows of the value region for partition p (R129). -/
def holdRows (p : Nat) : Nat := (31 - p) * 2097152

/-- FREE VALUE (log 17): byte `i` of the SERVICE_STAMP place in the trail copy of the answer of commit `serial`.
The stamp is taken at the answer write (R174), after the trail entry was written (R142), and the manual
does not say what that place of the copy holds. -/
opaque trailStampByte : Nat → Nat → Byte

end Sys2Proof.Config
end

