-- ==== Sys2Proof/Machine/State.lean ====
section
/-! DEFINITION. The state of the SVA-2408, block by block (00_scope, Blocks), as plain data. A sparse table is a list of
(number, content) pairs in rising number order; a number it does not list holds the content of a reset. -/

namespace Sys2Proof.Machine

/-! ### Names the manual gives -/

/-- Engine states (R182). -/
inductive EngineState where
  | scrubbing | idle | starting | running | draining | faulted
  deriving DecidableEq, Repr

/-- Fault codes (R183, R138). -/
inductive FaultCode where
  | none | badRevision | readFailed | partitionMismatch | clockUnset | clockRange | laneCount | laneAlign | laneSize
  | laneOverlap | embedTooMany | journalSize | valueRange | linkLost
  deriving DecidableEq, Repr

/-- Notice causes (R178). -/
inductive Cause where
  | answers | journal | till | store | engine
  deriving DecidableEq, Repr

/-- A set of notice causes (R178). -/
structure CauseSet where
  answers : Bool := false
  journal : Bool := false
  till : Bool := false
  store : Bool := false
  engine : Bool := false
  deriving DecidableEq, Repr

/-- The 21 request kinds (R39, spec/11 code table). -/
inductive RequestKind where
  | balance | activate | load | redeem | holdOpen | holdRenew | holdClose | holdCancel | reverse
  | rowWrite | rowRead | cardStatus | bonusGrant | tillWrite | tillRelease | ruleWrite | programmeWrite | laneMode
  | clockSet | trailRead | quarantineRead
  deriving DecidableEq, Repr

/-- Results (R42). `partly` is PARTIAL. -/
inductive Result where
  | approved | partly | declined | withdrawn
  deriving DecidableEq, Repr

/-- Reasons (spec/11 code table). -/
inductive Reason where
  | none | malformed | notPermitted | tillUnknown | tillRestricted | tillBarred | sequenceClash | alreadyReversed
  | noOriginal | checkDigit | noProgramme | kindNotAllowed | unknownCard | cardUnreadable | notActive | suspended | locked
  | codeMissing | wrongCode | belowMinimum | velocity | insufficient | overLimit | cardFull | holdLimit | holdTableFull
  | noHold | holdGone | overTolerance | renewLimit | clockStep | outOfRange | transferFailed
  deriving DecidableEq, Repr

/-- Answer flags (R43). -/
structure AnswerFlags where
  isRepeat : Bool := false
  bonusWithheld : Bool := false
  bonusClamped : Bool := false
  cardLockedNow : Bool := false
  tillWatched : Bool := false
  withdrawLate : Bool := false
  deriving DecidableEq, Repr

/-- Card states (R1). -/
inductive CardState where
  | empty | issued | active | suspended | locked | closed
  deriving DecidableEq, Repr

/-- Till standings (R98). -/
inductive Standing where
  | good | watched | restricted | barred
  deriving DecidableEq, Repr

/-- Journal entry kinds (R167). -/
inductive JournalKind where
  | lapse | status | activate | load | bonus | redeem | holdOpen | holdRenew | capture | holdCancel | reversal | close
  | grant | holdExpire
  deriving DecidableEq, Repr

/-- Kinds of row the quarantine list names (R135). -/
inductive RowKind where
  | card | till | hold
  deriving DecidableEq, Repr

/-- Trail statuses (R142). `done` is APPENDED or WRITTEN. -/
inductive TrailStatus where
  | none | pending | done | abandoned
  deriving DecidableEq, Repr

/-! ### The service clock (R174) -/

/-- One reading of the clock: day number, minute of day and second, taken together (R174). -/
structure Reading where
  day : Nat := 0
  minute : Nat := 0
  second : Nat := 0
  deriving DecidableEq, Repr

/-- The divider chain and the set flag (R174). -/
structure Clock where
  phase : Nat := 0
  tick : Nat := 0
  second : Nat := 0
  minute : Nat := 0
  day : Nat := 0
  set : Bool := false
  deriving DecidableEq, Repr

/-! ### Rows of the record store -/

/-- A lot (R7): BONUS when it carries an expiry day, PAID when it carries none. Draw parts have the same form (R12). -/
structure Lot where
  expiry : Option Nat
  amount : Nat
  deriving DecidableEq, Repr

/-- A hold reference as a till names it: hold index and generation (R75). -/
structure HoldRef where
  index : Nat
  gen : Nat
  deriving DecidableEq, Repr

/-- A hold reference of a card row, with the amount held (R15). -/
structure CardRef where
  index : Nat
  gen : Nat
  amount : Nat
  deriving DecidableEq, Repr

/-- A card row (R1). The defaults are the contents after the power-on scrub (R22). -/
structure CardRow where
  state : CardState := .empty
  programme : Nat := 0
  code : Option Nat := none
  tries : Nat := 0
  lots : List Lot := []
  refs : List CardRef := []
  held : Nat := 0
  windowIndex : Nat := 0
  windowCount : Nat := 0
  lastMovement : Nat := 0
  activationDay : Option Nat := none
  lastUseDay : Option Nat := none
  deriving DecidableEq, Repr

/-- The states of a recent-list entry (R105). -/
inductive EntryState where
  | answered | reversed | reversedAhead
  deriving DecidableEq, Repr

/-- A recent-list entry (R105). -/
structure RecentEntry where
  seq : Nat
  state : EntryState
  kind : Option RequestKind
  digits : List Nat
  cardRow : Option Nat
  requested : Option Nat
  result : Option Result
  reason : Option Reason
  approved : Option Nat
  flags : AnswerFlags
  movement : Option Nat
  ref : Option HoldRef
  parts : List Lot
  deriving DecidableEq, Repr

/-- A till row (R94). The defaults are the contents after the power-on scrub (R112). -/
structure TillRow where
  registered : Bool := false
  storeNo : Nat := 0
  tillNo : Nat := 0
  standing : Standing := .good
  score : Nat := 0
  barred : Bool := false
  lastMinute : Option Nat := none
  recent : List RecentEntry := []
  deriving DecidableEq, Repr

/-- The content part of a hold row (R74). The defaults are the contents after the power-on scrub (R92). -/
structure HoldRow where
  isOpen : Bool := false
  gen : Nat := 0
  card : Nat := 0
  till : Nat := 0
  seq : Nat := 0
  amount : Nat := 0
  deadline : Nat := 0
  renewals : Nat := 0
  deriving DecidableEq, Repr

/-- A hold row's link word (R137): each link an offset or the none marker. Offset 0 of `next` names the row of the
next index, offset 0 of `prev` the row of the index before. -/
structure LinkWord where
  prev : Option Int := some 0
  next : Option Int := some 0
  deriving DecidableEq, Repr

/-- The wrong bits of a unit's code words, each as (code word, bit), in rising order (R132, log 4). -/
structure BitErrors where
  bits : List (Nat × Nat) := []
  deriving DecidableEq, Repr

/-- A unit written with fresh check bits: no bit is wrong (R132). -/
abbrev BitErrors.clean : BitErrors := {}

/-- A stored unit: the content as it was written, and the bits that are wrong since (R132). -/
structure Stored (α : Type) where
  val : α
  ecc : BitErrors
  deriving DecidableEq, Repr

/-- A link word in its two copies (R137). Every write writes both, so they hold one word. -/
structure StoredLink where
  word : LinkWord := {}
  one : BitErrors := .clean
  two : BitErrors := .clean
  deriving DecidableEq, Repr

/-- The store header (R131). The defaults are its contents after the scrub (R139). -/
structure Header where
  partition : Option Nat := none
  next : Nat := 1
  damaged : Bool := false
  deriving DecidableEq, Repr

/-- The header in its two copies (R131). -/
structure StoredHeader where
  header : Header := {}
  one : BitErrors := .clean
  two : BitErrors := .clean
  deriving DecidableEq, Repr

/-- A journal entry (R166): common fields, and the kind words K1.. of 11.5. -/
structure JournalEntry where
  number : Nat
  prior : Nat
  kind : JournalKind
  programme : Nat
  stamp : Reading
  source : Option (Nat × Nat)
  till : Option (Nat × Nat)
  cardRow : Nat
  balanceAfter : Nat
  heldAfter : Nat
  words : List Nat
  deriving DecidableEq, Repr

/-- A commit trail entry (R141). The defaults are an entry never written. -/
structure TrailEntry where
  serial : Nat := 0
  work : Nat := 0
  source : Option (Nat × Nat) := none
  till : Option Nat := none
  card : Option Nat := none
  hold : Option Nat := none
  wroteTill : Bool := false
  wroteCard : Bool := false
  wroteHolds : Bool := false
  stamp : Reading := {}
  first : Nat := 0
  entries : List JournalEntry := []
  answer : List Byte := []
  journalStatus : TrailStatus := .none
  answerStatus : TrailStatus := .none
  deriving DecidableEq, Repr

/-- A stored trail entry: 64 code words, of which each status is one of its own (R132, R142). -/
structure TrailCell where
  entry : TrailEntry := {}
  ecc : BitErrors := .clean
  deriving DecidableEq, Repr

/-- The two on-chip statuses of a trail entry (R142). -/
structure StatusPair where
  journal : TrailStatus := .none
  answer : TrailStatus := .none
  deriving DecidableEq, Repr

/-- A quarantine list entry (R135). -/
structure Listed where
  kind : RowKind
  index : Nat
  listedAt : Option Nat
  deriving DecidableEq, Repr

/-- The record store and its on-chip companions (R129 to R145). -/
structure Store where
  cards : List (Nat × Stored CardRow) := []
  tills : List (Nat × Stored TillRow) := []
  holds : List (Nat × Stored HoldRow) := []
  links : List (Nat × StoredLink) := []
  header : StoredHeader := {}
  trail : List (Nat × TrailCell) := []
  trailStatus : List (Nat × StatusPair) := []
  trailSerial : Nat := 1
  trailPlace : Nat := 0
  quarantine : List Listed := []
  overflow : Bool := false
  deriving DecidableEq, Repr

/-! ### Rule and programme tables -/

/-- A programme rule (R25); the defaults are its contents after power-on (R37). -/
structure Rule where
  enabled : Bool := false
  digits : List Nat := [0, 0, 0, 0, 0, 0, 0, 0]
  mask : BitVec 8 := 0
  programme : Nat := 0
  kinds : BitVec 9 := 0
  label : Nat := 0
  deriving DecidableEq, Repr

/-- Code policies (R16). -/
inductive CodePolicy where
  | never | always | above
  deriving DecidableEq, Repr

/-- A programme record (R29); the defaults are its contents after power-on (R37). -/
structure Programme where
  enabled : Bool := false
  rowBase : Nat := 0
  rowCount : Nat := 0
  cap : Nat := 0
  activationMin : Nat := 0
  partialAllowed : Bool := false
  codePolicy : CodePolicy := .never
  codeThreshold : Nat := 0
  triesLimit : Nat := 0
  velocityLimit : Nat := 0
  window : Nat := 0
  tipTolerance : Nat := 0
  holdLife : Nat := 0
  renewalLimit : Nat := 0
  holdsPerCard : Nat := 0
  bonusRate : Nat := 0
  bonusThreshold : Nat := 0
  bonusCap : Nat := 0
  bonusLife : Nat := 0
  kinds : BitVec 9 := 0
  deriving DecidableEq, Repr

/-- The two on-chip tables (R25, R29). -/
structure Tables where
  rules : List (Nat × Rule) := []
  programmes : List (Nat × Programme) := []
  deriving DecidableEq, Repr

/-- The copy of rule and record a request keeps from step 8 (R26). -/
structure Selection where
  rule : Rule
  programmeNo : Nat
  programme : Programme
  deriving DecidableEq, Repr

/-! ### The directory and the lanes -/

/-- A lane entry of the directory, codes as read (R146, 11.2). -/
structure LaneEntry where
  base : Nat := 0
  slotCount : Nat := 0
  kind : Nat := 0
  priority : Nat := 0
  lookInterval : Nat := 0
  embed : BitVec 8 := 0
  threshold : Nat := 0
  holdTime : Nat := 0
  startPosition : Nat := 0
  startMode : Nat := 0
  deriving DecidableEq, Repr

/-- The directory, codes as read (11.2). -/
structure Directory where
  partition : Nat := 0
  clockTake : Nat := 0
  recovery : Nat := 0
  startDay : Nat := 0
  startMinute : Nat := 0
  arbitration : Nat := 0
  enable : BitVec 8 := 0
  laneCount : Nat := 0
  mark : Nat := 0
  journalBase : Nat := 0
  journalCount : Nat := 0
  engineWords : Nat := 0
  hostWords : Nat := 0
  lanes : List LaneEntry := []
  deriving DecidableEq, Repr

/-- The state of one lane (R148); the defaults are its values after a reset. -/
structure LaneState where
  scan : Nat := 0
  isOpen : Bool := false
  lookTimer : Option Nat := none
  ready : Bool := false
  tally : Word32 := 0
  pendingAnswers : Nat := 0
  holdTimer : Option Nat := none
  deriving DecidableEq, Repr

/-- The Lane Scanner (R148). -/
structure Lanes where
  lane : List (Nat × LaneState) := []
  lastServed : Option Nat := none
  deriving DecidableEq, Repr

/-! ### The hold table (R77) -/

/-- A chain's ends and count (R77). -/
structure Chain where
  head : Option Nat := none
  tail : Option Nat := none
  count : Nat := 0
  deriving DecidableEq, Repr

/-- Kinds of hand-list entry (R77). -/
inductive HandKind where
  | claim | expiry
  deriving DecidableEq, Repr

/-- A hand-list entry (R77, R87): the row, its generation and card row, and the work it belongs to by its pool place. -/
structure HandEntry where
  kind : HandKind
  hold : Nat
  gen : Nat
  card : Nat
  place : Nat
  deriving DecidableEq, Repr

/-- The on-chip state of the Hold Table (R77). The sweep position is an integer: one minute before minute 0 is -1 (R86, log 28). R92 leaves
the free chain's ends and count not set after power-on; THE MODEL'S CHOICE (log 46): ends none, count 0. -/
structure HoldTable where
  free : Chain := {}
  buckets : List (Nat × Chain) := []
  due : Chain := {}
  sweep : Option Int := none
  hand : List HandEntry := []
  deriving DecidableEq, Repr

/-! ### Work in flight -/

/-- A lock's name: kind and row (R116). -/
inductive LockName where
  | till (row : Nat)
  | card (row : Nat)
  deriving DecidableEq, Repr

/-- A lock-table entry in use: its row and its holder, by pool place (R116). -/
structure Lock where
  row : Nat
  holder : Nat
  deriving DecidableEq, Repr

/-- The lock table's two banks, entries in use only (R116). -/
structure Locks where
  till : List Lock := []
  card : List Lock := []
  deriving DecidableEq, Repr

/-- What a commit's store-write step does to one hold row and its chain (R80, R81, R82, R88, R90). -/
inductive HoldOp where
  | openRow (i : Nat) (content : HoldRow)
  | renewRow (i : Nat) (content : HoldRow)
  | freeRow (i : Nat) (content : HoldRow) (unlist : Bool)
  | refile (i : Nat)
  | requeue (i : Nat)
  deriving DecidableEq, Repr

/-- A change made in the action of the commit point, with its checks (R124). -/
inductive CommitAction where
  | nothing
  | ruleWrite (index enabled : Nat) (digits : List Nat) (mask : BitVec 8) (programme kinds label : Nat)
  | programmeWrite (number : Nat) (record : List Byte)
  | laneMode (lane : Nat) (isOpen : Bool)
  | clockSet (day : Fin 65536) (minute : Fin 1440) (second : Fin 60)
  deriving DecidableEq, Repr

/-- A prepared commit: the outcome a worker has computed before its commit point (R41, R42, R45). -/
structure Plan where
  result : Result := .approved
  reason : Reason := .none
  flags : AnswerFlags := {}
  approved : Nat := 0
  bonus : Nat := 0
  ref : Option HoldRef := none
  /-- the answer reports the figures of `card` (R42, R44) -/
  seen : Bool := false
  /-- today of the card reading (R2) -/
  today : Nat := 0
  /-- the working copy of the card row -/
  card : Option CardRow := none
  /-- the card row as read; absent when it gave no working copy -/
  cardRead : Option CardRow := none
  lapsed : Nat := 0
  status : Option (CardState × CardState) := none
  own : List (JournalKind × List Nat) := []
  holdOps : List HoldOp := []
  /-- the trail's hold index (R141) -/
  holdIndex : Option Nat := none
  /-- the HOLD_REF item: index, generation and deadline of a hold OPEN after the commit (R44) -/
  holdItem : Option (Nat × Nat × Nat) := none
  parts : List Lot := []
  /-- the sequence whose entry becomes REVERSED (R65) -/
  reversedSeq : Option Nat := none
  /-- the REVERSED_AHEAD entry to add first (R106) -/
  ahead : Option RecentEntry := none
  /-- whether the request adds its own recent-list entry (R106) -/
  adds : Bool := true
  /-- the matched entry of a repeat answer (R108) -/
  repeated : Option RecentEntry := none
  /-- the till row TILL_WRITE or TILL_RELEASE writes -/
  tillNew : Option TillRow := none
  /-- the till and sequence that opened a hold an expiry job releases (R166) -/
  openedBy : Option (Nat × Nat) := none
  /-- rows that leave the quarantine list in this commit (R136) -/
  leaves : List (RowKind × Nat) := []
  action : CommitAction := .nothing
  deriving DecidableEq, Repr

/-- What a piece of work is: a request with the lane and slot it came from and its 64 bytes as read at the take
(R113), or an expiry job on a hold row (R87). The lane's directory entry is carried with the request. -/
inductive Task where
  | request (lane slot : Nat) (entry : LaneEntry) (half : List Byte)
  | expiry (hold gen card : Nat)
  deriving DecidableEq, Repr

/-- Where a piece of work stands. -/
inductive Phase where
  /-- at step 1 of R38, or a job just handed out -/
  | taken
  /-- received its till lock by handover (R115) -/
  | gotTill
  /-- received its card lock by handover (R115) -/
  | gotCard
  /-- a BALANCE waiting for one entry of room (R46) -/
  | awaitRoom (p : Plan)
  /-- that BALANCE, its room granted (R170) -/
  | roomGranted (p : Plan)
  /-- waiting before its commit point for the trail entry at the write place (R142) -/
  | awaitTrail (p : Plan)
  /-- at step 5 of R123 -/
  | answering
  deriving DecidableEq, Repr

/-- A piece of work with the items it carries (R113). -/
structure Work where
  task : Task
  place : Nat
  room : Nat
  selection : Option Selection := none
  /-- the card's row index, from step 10 on (R30) -/
  rowIndex : Option Nat := none
  tillLock : Option Nat := none
  cardLock : Option Nat := none
  tillReading : Option Reading := none
  cardReading : Option Reading := none
  /-- the till row as the second reading gave it (R95) -/
  tillRead : Option TillRow := none
  /-- the working copy of the till row -/
  till : Option TillRow := none
  phase : Phase := .taken
  deriving DecidableEq, Repr

/-- A pool entry that waits for a lock (R121). -/
structure Waiter where
  lock : LockName
  work : Work
  deriving DecidableEq, Repr

/-- Workers, wait pool and ready queue (R113 to R121). -/
structure Units where
  workers : List (Nat × Option Work) := []
  waiting : List Waiter := []
  ready : List Work := []
  places : List Nat := []
  roomWaiters : List Nat := []
  deriving DecidableEq, Repr

/-! ### Journal, answers, link, control -/

/-- A queued journal entry; `last` is its commit's trail place when it is the commit's last entry (R169). -/
structure Queued where
  entry : JournalEntry
  last : Option Nat
  deriving DecidableEq, Repr

/-- The Journal Writer (R165); its counts are unbounded (log 24). -/
structure Journal where
  written : Nat := 0
  cached : Nat := 0
  reserved : Nat := 0
  next : Option Nat := none
  queue : List Queued := []
  fillTested : Nat := 0
  retry : Bool := false
  deriving DecidableEq, Repr

/-- An answer handed to the Answer and Notice Unit and not yet written (R155, R159). `worker` and `trail` are absent for a
withdrawn answer; `entry` is the lane's directory entry at the take (log 21). -/
structure HandedAnswer where
  lane : Nat
  slot : Nat
  entry : LaneEntry
  half : List Byte
  tillCause : Bool
  worker : Option Nat
  trail : Option Nat
  deriving DecidableEq, Repr

/-- The Answer and Notice Unit (R159, R178). The enable set after every reset is ENGINE alone. -/
structure Notices where
  raised : CauseSet := {}
  enable : CauseSet := { engine := true }
  answers : List HandedAnswer := []
  deriving DecidableEq, Repr

/-- The Link Interface, with host memory, the link's condition and the MSI capability as the outside world sets them (log 1, 2, 3, 10).
`msiSent` is the messages the part wrote, each its address and data, oldest first (R179). -/
structure Link where
  anchorLow : Word32 := 0
  anchorHigh : Word32 := 0
  mem : List Host.Cell := []
  readsFail : List (Nat × Nat) := []
  writesFail : List (Nat × Nat) := []
  msi : MsiCapability := {}
  msiSent : List (BitVec 64 × Word32) := []
  readData : Word32 := 0
  deriving DecidableEq, Repr

/-- Engine control (R181 to R184). -/
structure Control where
  engine : EngineState := .scrubbing
  fault : FaultCode := .none
  startPending : Bool := false
  controlIgnored : Bool := false
  resetting : Bool := false
  startAnchor : Nat := 0
  starting : Option Directory := none
  directory : Option Directory := none
  engineWords : Option Nat := none
  deriving DecidableEq, Repr

/-- The whole machine. -/
structure State where
  pending : List Instr
  link : Link
  control : Control
  notices : Notices
  clock : Clock
  lanes : Lanes
  units : Units
  locks : Locks
  tables : Tables
  store : Store
  holds : HoldTable
  journal : Journal
  deriving DecidableEq, Repr

/-- The faults that stop the machine: none. The engine's own faults are values of `Control.fault` (R183), and every
command answers a next state. -/
inductive Fault where
  deriving DecidableEq, Repr

/-- The refusals. -/
inductive Refusal where
  /-- A command without a meaning yet, raised by `exec` alone (safe: nothing is claimed of it). No arm raises it. -/
  | notModelled (mnemonic : String)
  deriving DecidableEq, Repr

/-- The part right after power-on reset: SCRUBBING, every on-chip state at its power-on value, the store at its
scrubbed contents (R139), the host's memory with nothing listed (log 1), the free chain without ends, of count 0 (log 46). -/
def State.reset : State :=
  { pending := [], link := {}, control := {}, notices := {}, clock := {}, lanes := {}, units := {}, locks := {},
    tables := {}, store := {}, holds := {}, journal := {} }

/-! ### One update per block -/

/-- `s` with another command queue. -/
def State.setPending (s : State) (v : List Instr) : State := { s with pending := v }
/-- `s` with another Link Interface. -/
def State.setLink (s : State) (v : Link) : State := { s with link := v }
/-- `s` with another engine control. -/
def State.setControl (s : State) (v : Control) : State := { s with control := v }
/-- `s` with another Answer and Notice Unit. -/
def State.setNotices (s : State) (v : Notices) : State := { s with notices := v }
/-- `s` with another clock. -/
def State.setClock (s : State) (v : Clock) : State := { s with clock := v }
/-- `s` with another Lane Scanner. -/
def State.setLanes (s : State) (v : Lanes) : State := { s with lanes := v }
/-- `s` with other workers, pool and ready queue. -/
def State.setUnits (s : State) (v : Units) : State := { s with units := v }
/-- `s` with another lock table. -/
def State.setLocks (s : State) (v : Locks) : State := { s with locks := v }
/-- `s` with other rule and programme tables. -/
def State.setTables (s : State) (v : Tables) : State := { s with tables := v }
/-- `s` with another record store. -/
def State.setStore (s : State) (v : Store) : State := { s with store := v }
/-- `s` with another hold table. -/
def State.setHolds (s : State) (v : HoldTable) : State := { s with holds := v }
/-- `s` with another Journal Writer. -/
def State.setJournal (s : State) (v : Journal) : State := { s with journal := v }

end Sys2Proof.Machine
end

