-- ==== Sys2Proof/Machine/CodeWords.lean ====
section
/-! DEFINITION. The code words of the store (R132): how many each unit has, what reading one finds, what reading a unit finds, and how a
bit error comes and goes. -/

namespace Sys2Proof

/-- The code words of a unit (R132). -/
def StoreUnit.codeWords : StoreUnit → Nat
  | .cardRow _ => 16
  | .tillRow _ => 64
  | .holdContent _ => 6
  | .linkCopyOne _ => 1
  | .linkCopyTwo _ => 1
  | .headerCopyOne => 256
  | .headerCopyTwo => 256
  | .trailEntry _ => 64

/-- The bits of a code word: 8 bytes of data with 8 check bits (R132). -/
def codeWordBits : Nat := 72

namespace Machine

/-- The wrong bits of one code word. -/
def BitErrors.inWord (e : BitErrors) (w : Nat) : Nat := (e.bits.filter (fun b => decide (b.1 = w))).length

/-- What reading a code word finds (R132): one wrong bit is put right. THE MODEL'S CHOICE (log 4): more than two wrong bits make a
pattern the check bits cannot place. -/
def BitErrors.wordOutcome (e : BitErrors) (w : Nat) : Ecc :=
  match e.inWord w with
  | 0 => .clean
  | 1 => .corrected
  | _ => .uncorrectable

/-- What reading a unit finds (R132): uncorrectable when a code word is, else corrected when a code word is, else clean. A code word with no
wrong bit is clean, so the words named by a wrong bit decide. -/
def BitErrors.outcome (e : BitErrors) : Ecc :=
  if e.bits.any (fun b => decide (e.wordOutcome b.1 = .uncorrectable)) then .uncorrectable
  else if e.bits.any (fun b => decide (e.wordOutcome b.1 = .corrected)) then .corrected
  else .clean

/-- A bit changes its value: a right bit becomes wrong, and a wrong one right. -/
def flipBit (b : Nat × Nat) : List (Nat × Nat) → List (Nat × Nat)
  | [] => [b]
  | c :: r =>
    if c = b then r
    else if b.1 < c.1 ∨ (b.1 = c.1 ∧ b.2 < c.2) then b :: c :: r
    else c :: flipBit b r

/-- One bit of a unit's code words changes its value. -/
def BitErrors.flip (e : BitErrors) (w b : Nat) : BitErrors := { bits := flipBit (w, b) e.bits }

/-- One code word is written with fresh check bits (R132). -/
def BitErrors.freshWord (e : BitErrors) (w : Nat) : BitErrors := { bits := e.bits.filter (fun b => !decide (b.1 = w)) }

/-- The code word of a trail entry that holds its journal status: bytes 48 to 55 (11.4, R142). -/
def journalStatusWord : Nat := 6

/-- The code word of a trail entry that holds its answer status: bytes 56 to 63 (11.4, R142). -/
def answerStatusWord : Nat := 7

end Machine

end Sys2Proof
end

