-- ==== Sys2Proof/Machine/Sparse.lean ====
section
/-! DEFINITION. Sparse tables: lists of (number, content) pairs in one canonical form, numbers strictly rising and no
content equal to the default `d` that an unlisted number holds. -/

namespace Sys2Proof.Machine

variable {α : Type}

/-- The content at `k`; `d` where the table lists nothing. -/
def Sparse.get (d : α) : List (Nat × α) → Nat → α
  | [], _ => d
  | (j, x) :: m, k => if j = k then x else Sparse.get d m k

/-- Put a pair in its place by number. -/
def Sparse.insert : List (Nat × α) → Nat → α → List (Nat × α)
  | [], k, v => [(k, v)]
  | (j, x) :: m, k, v => if k < j then (k, v) :: (j, x) :: m else (j, x) :: Sparse.insert m k v

/-- The table without `k`. -/
def Sparse.erase : List (Nat × α) → Nat → List (Nat × α)
  | [], _ => []
  | (j, x) :: m, k => if j = k then Sparse.erase m k else (j, x) :: Sparse.erase m k

/-- The table with `v` at `k`: a default content is not listed. -/
def Sparse.set [DecidableEq α] (d : α) (m : List (Nat × α)) (k : Nat) (v : α) : List (Nat × α) :=
  if v = d then Sparse.erase m k else Sparse.insert (Sparse.erase m k) k v

/-- Every number of the table is above `lo` (when given), numbers strictly rise and no content is the default. -/
def Sparse.wfAbove [DecidableEq α] (d : α) : Option Nat → List (Nat × α) → Bool
  | _, [] => true
  | lo, (j, x) :: m => (match lo with | none => true | some l => decide (l < j)) && !decide (x = d) && Sparse.wfAbove d (some j) m

/-- The canonical form. -/
def Sparse.wf [DecidableEq α] (d : α) (m : List (Nat × α)) : Bool := Sparse.wfAbove d none m

/-- Host memory: the byte at an address. An unlisted byte reads 0 (DESIGN CHOICE, log 1). -/
def Memory.read (m : List Host.Cell) (a : Nat) : Byte := Sparse.get 0 m a

/-- Host memory with a byte written; an address past the last host address is not written (log 3). -/
def Memory.write (m : List Host.Cell) (a : Nat) (b : Byte) : List Host.Cell :=
  if a < Config.hostAddresses then Sparse.set 0 m a b else m

/-- Host memory is in canonical form. -/
def Memory.wf (m : List Host.Cell) : Bool := Sparse.wf (0 : Byte) m

end Sys2Proof.Machine
end

