-- ==== Sys2Proof/Machine/Bytes.lean ====
section
/-! DEFINITION. Byte order and packed decimal (spec/11, 11.1): binary fields are little-endian, decimal fields two digits to a
byte with the more significant digit in the high nibble. -/

namespace Sys2Proof.Machine

/-- The low `n` bytes of a figure, least significant first (11.1). -/
def leBytes : Nat → Nat → List Byte
  | 0, _ => []
  | n + 1, v => BitVec.ofNat 8 v :: leBytes n (v / 256)

/-- The figure of little-endian bytes (11.1). -/
def leNat : List Byte → Nat
  | [] => 0
  | b :: bs => b.toNat + 256 * leNat bs

/-- `n` bytes of zero. -/
def zeroBytes (n : Nat) : List Byte := List.replicate n 0

/-- The byte at an offset of a block as read; 0 beyond it. -/
def byteAt (bs : List Byte) (i : Nat) : Byte := bs.getD i 0

/-- The figure of the `n` bytes at an offset of a block. -/
def fieldAt (bs : List Byte) (i n : Nat) : Nat := leNat ((bs.drop i).take n)

/-- The high and low nibble of a byte. -/
def nibbles (b : Byte) : List Nat := [b.toNat / 16, b.toNat % 16]

/-- The digit nibbles of packed bytes, most significant first (11.1). -/
def packedDigits (bs : List Byte) : List Nat := bs.flatMap nibbles

/-- Every nibble is a decimal digit. -/
def allDigits (ds : List Nat) : Bool := ds.all (fun d => decide (d ≤ 9))

/-- The decimal figure of digits, most significant first. -/
def decimal (ds : List Nat) : Nat := ds.foldl (fun v d => 10 * v + d) 0

/-- The two packed bytes of a code, or FFFFh for the absent marker (11.1). -/
def codeBytes : Option Nat → List Byte
  | none => [0xFF, 0xFF]
  | some c => [BitVec.ofNat 8 (16 * (c / 1000 % 10) + c / 100 % 10), BitVec.ofNat 8 (16 * (c / 10 % 10) + c % 10)]

/-- An optional figure in `n` bytes, all-ones when absent (11.1). -/
def optBytes (n : Nat) : Option Nat → List Byte
  | none => List.replicate n 0xFF
  | some v => leBytes n v

end Sys2Proof.Machine
end

