-- ==== Sys2Proof/Machine/Operands.lean ====
section
/-! DEFINITION. What the part reads from host memory, by the layouts of spec/11: the request half of a slot with the step 1
checks (R39, R187), the directory and its lane entries (11.2), the card image and the programme record (11.4). -/

namespace Sys2Proof.Machine

/-! ### Request kinds -/

/-- The kind a code names (spec/11 code table); none for a code that names no request kind. -/
def RequestKind.ofCode : Nat → Option RequestKind
  | 1 => some .balance | 2 => some .activate | 3 => some .load | 4 => some .redeem | 5 => some .holdOpen
  | 6 => some .holdRenew | 7 => some .holdClose | 8 => some .holdCancel | 9 => some .reverse
  | 16 => some .rowWrite | 17 => some .rowRead | 18 => some .cardStatus | 19 => some .bonusGrant
  | 20 => some .tillWrite | 21 => some .tillRelease | 22 => some .ruleWrite | 23 => some .programmeWrite
  | 24 => some .laneMode | 25 => some .clockSet | 26 => some .trailRead | 27 => some .quarantineRead
  | _ => none

/-- The code of a kind (spec/11 code table). -/
def RequestKind.code : RequestKind → Nat
  | .balance => 1 | .activate => 2 | .load => 3 | .redeem => 4 | .holdOpen => 5 | .holdRenew => 6 | .holdClose => 7
  | .holdCancel => 8 | .reverse => 9 | .rowWrite => 16 | .rowRead => 17 | .cardStatus => 18 | .bonusGrant => 19
  | .tillWrite => 20 | .tillRelease => 21 | .ruleWrite => 22 | .programmeWrite => 23 | .laneMode => 24 | .clockSet => 25
  | .trailRead => 26 | .quarantineRead => 27

/-- The nine till kinds (R40). -/
def RequestKind.isTill : RequestKind → Bool
  | .balance | .activate | .load | .redeem | .holdOpen | .holdRenew | .holdClose | .holdCancel | .reverse => true
  | _ => false

/-- The kinds that carry a card number (R23). -/
def RequestKind.hasCard : RequestKind → Bool
  | .cardStatus | .bonusGrant | .rowWrite | .rowRead => true
  | k => k.isTill

/-- The kinds that take a till lock (R117). -/
def RequestKind.takesTillLock : RequestKind → Bool
  | .tillWrite | .tillRelease => true
  | k => k.isTill

/-- Journal room reserved at take (R153). -/
def RequestKind.room : RequestKind → Nat
  | .activate | .load | .redeem | .holdOpen | .holdRenew | .holdClose | .holdCancel | .reverse | .cardStatus | .bonusGrant
  | .rowWrite => 3
  | _ => 0

/-- The bit of a gated kind in an allowed-kind set (R27, spec/11 code table); none for a kind that is not gated. -/
def RequestKind.gatedBit : RequestKind → Option Nat
  | .balance => some 0 | .activate => some 1 | .load => some 2 | .redeem => some 3 | .holdOpen => some 4
  | .holdRenew => some 5 | .holdClose => some 6 | .holdCancel => some 7 | .bonusGrant => some 8
  | _ => none

/-! ### The request half (11.3) -/

/-- The fields of a request half. -/
structure Req where
  state : Nat
  mark : Nat
  kind : Nat
  action : Nat
  tillIndex : Nat
  seq : Nat
  idDigits : List Nat
  digits : List Nat
  code : List Byte
  amount : Nat
  hold : HoldRef
  target : Nat
  address : Nat
  params : List Byte
  deriving DecidableEq, Repr

/-- The fields of the 64 bytes of a request half (11.3). The pad nibble of the card number is not read (R23). -/
def Req.ofBytes (b : List Byte) : Req :=
  { state := (byteAt b 0).toNat
    mark := (byteAt b 1).toNat
    kind := (byteAt b 2).toNat
    action := (byteAt b 3).toNat
    tillIndex := fieldAt b 4 2
    seq := fieldAt b 6 2
    idDigits := packedDigits ((b.drop 8).take 3)
    digits := (packedDigits ((b.drop 12).take 10)).take 19
    code := (b.drop 22).take 2
    amount := fieldAt b 24 4
    hold := { index := fieldAt b 28 4, gen := fieldAt b 32 1 }
    target := fieldAt b 34 2
    address := fieldAt b 36 8
    params := (b.drop 44).take 20 }

/-- The request kind, when the kind code names one. -/
def Req.kind? (r : Req) : Option RequestKind := RequestKind.ofCode r.kind

/-- The store number of the till id: its first four digits (R94). -/
def Req.storeNo (r : Req) : Nat := decimal (r.idDigits.take 4)

/-- The till number of the till id: its last two digits (R94). -/
def Req.tillNo (r : Req) : Nat := decimal (r.idDigits.drop 4)

/-- The code field is the absent marker (11.1). -/
def Req.codeAbsent (r : Req) : Bool := decide (r.code = [0xFF, 0xFF])

/-- The four digits of the code field as a figure. -/
def Req.codeValue (r : Req) : Nat := decimal (packedDigits r.code)

/-- The ten serial digits (R23). -/
def Req.serial (r : Req) : Nat := decimal ((r.digits.drop 8).take 10)

/-- The action byte is one the code table names for the kind (R187). -/
def actionNamed (k : RequestKind) (a : Nat) : Bool :=
  match k with
  | .cardStatus => decide (1 ≤ a ∧ a ≤ 4)
  | .tillWrite => decide (1 ≤ a ∧ a ≤ 2)
  | .laneMode => decide (1 ≤ a ∧ a ≤ 2)
  | _ => decide (a = 0)

/-- All the bytes are 0. -/
def allZero (bs : List Byte) : Bool := bs.all (fun b => decide (b = 0))

/-- Till index, till sequence and till id are as the kind requires (R39, R96, R104, R187); for a till kind each
nibble of the till id is a digit (log 12). -/
def Req.tillFieldsOk (r : Req) (k : RequestKind) : Bool :=
  if k.isTill then allDigits r.idDigits
  else if k = .tillWrite then
    decide (r.tillIndex < Config.tills) && decide (r.seq = 0) &&
      (if r.action = 2 then r.idDigits.all (fun d => decide (d = 0)) else allDigits r.idDigits)
  else if k = .tillRelease then decide (r.tillIndex < Config.tills) && decide (r.seq = 0) && allDigits r.idDigits
  else decide (r.tillIndex = 0) && decide (r.seq = 0) && r.idDigits.all (fun d => decide (d = 0))

/-- Card number and code field are as the kind requires (R39, R187). -/
def Req.cardFieldsOk (r : Req) (k : RequestKind) : Bool :=
  if k.hasCard then allDigits r.digits && (r.codeAbsent || allDigits (packedDigits r.code))
  else r.digits.all (fun d => decide (d = 0)) && allZero r.code

/-- The amount is as the kind requires (R39). -/
def Req.amountOk (r : Req) (k : RequestKind) : Bool :=
  match k with
  | .activate | .load | .redeem | .holdOpen | .holdClose | .bonusGrant =>
    decide (1 ≤ r.amount) && decide (r.amount ≤ Config.maxAmount)
  | _ => decide (r.amount = 0)

/-- Hold reference, target sequence and data address are as the kind requires (R39, R188). -/
def Req.referenceFieldsOk (r : Req) (k : RequestKind) : Bool :=
  (match k with
    | .holdRenew | .holdClose | .holdCancel => true
    | _ => decide (r.hold.index = 0) && decide (r.hold.gen = 0)) &&
  (match k with
    | .reverse => !decide (r.target = r.seq)
    | _ => decide (r.target = 0)) &&
  (match k with
    | .rowWrite | .rowRead | .programmeWrite | .trailRead | .quarantineRead => true
    | _ => decide (r.address = 0))

/-- The office parameters are as the kind requires (11.3, R33, R157, R177). -/
def Req.paramsOk (r : Req) (k : RequestKind) : Bool :=
  match k with
  | .bonusGrant => allZero (r.params.drop 2)
  | .ruleWrite => allDigits (packedDigits ((r.params.drop 2).take 4)) && allZero (r.params.drop 12)
  | .programmeWrite => allZero (r.params.drop 1)
  | .laneMode => decide (fieldAt r.params 0 1 < Config.lanes) && allZero (r.params.drop 1)
  | .clockSet =>
    decide (fieldAt r.params 2 2 ≤ 1439) && decide (fieldAt r.params 4 1 ≤ 59) && allZero (r.params.drop 5)
  | _ => allZero r.params

/-- Step 1 of R38: the kind is known and every field is well-formed for it (R39, R187). Bytes 11 and 33 are bytes the
layout shows as 0. -/
def requestWellFormed (half : List Byte) : Bool :=
  let r := Req.ofBytes half
  match r.kind? with
  | none => false
  | some k =>
    actionNamed k r.action && r.tillFieldsOk k && r.cardFieldsOk k && r.amountOk k && r.referenceFieldsOk k && r.paramsOk k &&
      decide (byteAt half 11 = 0) && decide (byteAt half 33 = 0)

/-! ### The directory (11.2) -/

/-- A lane entry from its 32 bytes (11.2). -/
def LaneEntry.ofBytes (b : List Byte) : LaneEntry :=
  { base := fieldAt b 0 8
    slotCount := fieldAt b 8 2
    kind := fieldAt b 10 1
    priority := fieldAt b 11 1
    lookInterval := fieldAt b 12 2
    embed := byteAt b 14
    threshold := fieldAt b 15 1
    holdTime := fieldAt b 16 2
    startPosition := fieldAt b 18 2
    startMode := fieldAt b 20 1 }

/-- The lane is of kind OFFICE (R146). -/
def LaneEntry.isOffice (l : LaneEntry) : Bool := decide (l.kind = 2)

/-- The host address of slot `n` (R146). -/
def LaneEntry.slotAddr (l : LaneEntry) (n : Nat) : Nat := l.base + n * 128

/-- The layout revision, byte 0 of the directory. -/
def directoryRevision (head : List Byte) : Nat := fieldAt head 0 1

/-- The lane count, read before the lane table (R183). -/
def directoryLaneCount (head : List Byte) : Nat := fieldAt head 10 2

/-- The lane entries read: none beyond the 64th (R183). -/
def directoryLanesRead (head : List Byte) : Nat := min (directoryLaneCount head) Config.lanes

/-- The directory from its first 64 bytes and its lane table (11.2). -/
def Directory.ofBytes (h t : List Byte) : Directory :=
  { partition := fieldAt h 1 1
    clockTake := fieldAt h 2 1
    recovery := fieldAt h 3 1
    startDay := fieldAt h 4 2
    startMinute := fieldAt h 6 2
    arbitration := fieldAt h 8 1
    enable := byteAt h 9
    laneCount := directoryLaneCount h
    mark := fieldAt h 12 4
    journalBase := fieldAt h 16 8
    journalCount := fieldAt h 24 4
    engineWords := fieldAt h 32 8
    hostWords := fieldAt h 40 8
    lanes := (List.range (directoryLanesRead h)).map (fun n => LaneEntry.ofBytes ((t.drop (32 * n)).take 32)) }

/-! ### The card image (11.4, R21, R188) -/

/-- Lots stand in draw order: dated lots by strictly rising expiry day, then undated ones (R7). -/
def lotsOrdered : List Lot → Bool
  | a :: b :: r =>
    (match a.expiry, b.expiry with
      | some x, some y => decide (x < y)
      | some _, none => true
      | none, some _ => false
      | none, none => true) && lotsOrdered (b :: r)
  | _ => true

/-- A lot's fields are in range (R7). -/
def lotInRange (l : Lot) : Bool :=
  decide (1 ≤ l.amount) && decide (l.amount ≤ Config.maxAmount) &&
    (match l.expiry with | none => true | some e => decide (e ≤ Config.lastDay))

/-- The form R7 lays down for a lot list. -/
def lotsWf (ls : List Lot) : Bool :=
  decide (ls.length ≤ Config.lotCapacity) && ls.all lotInRange && lotsOrdered ls

/-- The card state of a code. -/
def CardState.ofCode : Nat → Option CardState
  | 0 => some .empty | 1 => some .issued | 2 => some .active | 3 => some .suspended | 4 => some .locked | 5 => some .closed
  | _ => none

/-- Lot place `k` of an image; none when its kind or its fields are outside range (R188). -/
def imageLot (b : List Byte) (k : Nat) : Option Lot :=
  let p := (b.drop (24 + 8 * k)).take 8
  let amount := fieldAt p 4 4
  let day := fieldAt p 2 2
  if 1 ≤ amount ∧ amount ≤ Config.maxAmount then
    match fieldAt p 0 1 with
    | 1 => if day = 0 then some { expiry := none, amount := amount } else none
    | 2 => some { expiry := some day, amount := amount }
    | _ => none
  else none

/-- Reference place `j` of an image; none when its fields are outside range (R1, R188). -/
def imageRef (holdRows : Nat) (b : List Byte) (j : Nat) : Option CardRef :=
  let p := (b.drop (72 + 12 * j)).take 12
  let amount := fieldAt p 8 4
  if 1 ≤ amount ∧ amount ≤ Config.maxAmount ∧ fieldAt p 0 4 < holdRows then
    some { index := fieldAt p 0 4, gen := fieldAt p 4 1, amount := amount }
  else none

/-- All the places below a count, or none when one of them is none. -/
def allPlaces {α : Type} (f : Nat → Option α) : Nat → Option (List α)
  | 0 => some []
  | n + 1 =>
    match allPlaces f n, f n with
    | some l, some x => some (l ++ [x])
    | _, _ => none

/-- A day field of an image (R188): none when neither FFFFFFFFh nor 0..65,535. -/
def imageDay (v : Nat) : Option (Option Nat) :=
  if v = 0xFFFFFFFF then some none else if v ≤ Config.lastDay then some (some v) else none

/-- The code field of an image (R21). -/
def imageCode (bs : List Byte) : Option (Option Nat) :=
  if bs = [0xFF, 0xFF] then some none
  else if allDigits (packedDigits bs) then some (some (decimal (packedDigits bs))) else none

/-- The card row of a card image that passes the checks of R21 and R188 for programme `prog`; `held` is the sum of the
image's references. None for an image that fails a check. -/
def rowOfImage (holdRows prog : Nat) (b : List Byte) : Option CardRow :=
  match CardState.ofCode (fieldAt b 0 1), imageCode ((b.drop 2).take 2), imageDay (fieldAt b 120 4), imageDay (fieldAt b 124 4) with
  | some st, some code, some act, some use =>
    if fieldAt b 5 1 ≤ Config.lotCapacity ∧ fieldAt b 6 1 ≤ Config.refCapacity ∧ fieldAt b 1 1 = prog ∧ fieldAt b 4 1 ≤ 7 ∧
        fieldAt b 8 4 ≤ Config.lastMinuteIndex then
      match allPlaces (imageLot b) (fieldAt b 5 1), allPlaces (imageRef holdRows b) (fieldAt b 6 1) with
      | some lots, some refs =>
        if lotsOrdered lots ∧ ((st = .empty ∨ st = .closed) → lots = []) then
          some { state := st, programme := prog, code := code, tries := fieldAt b 4 1, lots := lots, refs := refs,
                 held := (refs.map (·.amount)).sum, windowIndex := fieldAt b 8 4, windowCount := fieldAt b 7 1,
                 lastMovement := fieldAt b 12 6, activationDay := act, lastUseDay := use }
        else none
      | _, _ => none
    else none
  | _, _, _, _ => none

/-! ### The programme record (11.4, R29, R188) -/

/-- Largest row base or row count a record may carry (R34). -/
def maxRowFigure : Nat := 9999999999

/-- The code policy of a code. -/
def CodePolicy.ofCode : Nat → Option CodePolicy
  | 0 => some .never | 1 => some .always | 2 => some .above
  | _ => none

/-- The programme record of its 64 bytes; none when a flag byte, the code policy, the allowed-kind set, the row base or the
row count is outside what R188 accepts. -/
def programmeOfBytes (b : List Byte) : Option Programme :=
  match CodePolicy.ofCode (fieldAt b 2 1) with
  | none => none
  | some pol =>
    if fieldAt b 0 1 ≤ 1 ∧ fieldAt b 1 1 ≤ 1 ∧ fieldAt b 52 2 < 512 ∧ fieldAt b 4 8 ≤ maxRowFigure ∧ fieldAt b 12 8 ≤ maxRowFigure then
      some { enabled := decide (fieldAt b 0 1 = 1), rowBase := fieldAt b 4 8, rowCount := fieldAt b 12 8, cap := fieldAt b 20 4,
             activationMin := fieldAt b 24 4, partialAllowed := decide (fieldAt b 1 1 = 1), codePolicy := pol,
             codeThreshold := fieldAt b 28 4, triesLimit := fieldAt b 3 1, velocityLimit := fieldAt b 48 1,
             window := fieldAt b 44 2, tipTolerance := fieldAt b 49 1, holdLife := fieldAt b 46 2, renewalLimit := fieldAt b 50 1,
             holdsPerCard := fieldAt b 51 1, bonusRate := fieldAt b 40 2, bonusThreshold := fieldAt b 32 4,
             bonusCap := fieldAt b 36 4, bonusLife := fieldAt b 42 2, kinds := BitVec.ofNat 9 (fieldAt b 52 2) }
    else none

/-- Every field other than the row base and row count lies within its range (R29, R34 check 1). -/
def Programme.rangesOk (p : Programme) : Bool :=
  decide (1 ≤ p.cap ∧ p.cap ≤ Config.maxAmount) && decide (1 ≤ p.activationMin ∧ p.activationMin ≤ p.cap) &&
  decide (p.codeThreshold ≤ Config.maxAmount) && decide (1 ≤ p.triesLimit ∧ p.triesLimit ≤ 7) &&
  decide (p.velocityLimit ≤ 255) && decide (1 ≤ p.window ∧ p.window ≤ 1440) && decide (p.tipTolerance ≤ 50) &&
  decide (1 ≤ p.holdLife ∧ p.holdLife ≤ 1440) && decide (p.renewalLimit ≤ 3) &&
  decide (1 ≤ p.holdsPerCard ∧ p.holdsPerCard ≤ 4) && decide (p.bonusRate ≤ 500) &&
  decide (1 ≤ p.bonusThreshold ∧ p.bonusThreshold ≤ Config.maxAmount) && decide (p.bonusCap ≤ Config.maxAmount) &&
  decide (1 ≤ p.bonusLife ∧ p.bonusLife ≤ 3650)

end Sys2Proof.Machine
end

