-- ==== Sys2Proof/Machine/Flags.lean ====
section
/-! DEFINITION. Codes, sets and registers (spec/11): the codes of every enumeration, cause sets, answer flags, and what a read
of each register shows (R185, R189, 11.6). -/

namespace Sys2Proof.Machine

/-- The code of an engine state (11.1). -/
def EngineState.code : EngineState → Nat
  | .scrubbing => 0 | .idle => 1 | .starting => 2 | .running => 3 | .draining => 4 | .faulted => 5

/-- The code of a fault (11.1): the STARTING checks in their order, LINK_LOST 13. -/
def FaultCode.code : FaultCode → Nat
  | .none => 0 | .badRevision => 1 | .readFailed => 2 | .partitionMismatch => 3 | .clockUnset => 4 | .clockRange => 5
  | .laneCount => 6 | .laneAlign => 7 | .laneSize => 8 | .laneOverlap => 9 | .embedTooMany => 10 | .journalSize => 11
  | .valueRange => 12 | .linkLost => 13

/-- The code of a result (11.1). -/
def Result.code : Result → Nat
  | .approved => 1 | .partly => 2 | .declined => 3 | .withdrawn => 4

/-- The code of a reason (11.1). -/
def Reason.code : Reason → Nat
  | .none => 0 | .malformed => 1 | .notPermitted => 2 | .tillUnknown => 3 | .tillRestricted => 4 | .tillBarred => 5
  | .sequenceClash => 6 | .alreadyReversed => 7 | .noOriginal => 8 | .checkDigit => 9 | .noProgramme => 10
  | .kindNotAllowed => 11 | .unknownCard => 12 | .cardUnreadable => 13 | .notActive => 14 | .suspended => 15 | .locked => 16
  | .codeMissing => 17 | .wrongCode => 18 | .belowMinimum => 19 | .velocity => 20 | .insufficient => 21 | .overLimit => 22
  | .cardFull => 23 | .holdLimit => 24 | .holdTableFull => 25 | .noHold => 26 | .holdGone => 27 | .overTolerance => 28
  | .renewLimit => 29 | .clockStep => 30 | .outOfRange => 31 | .transferFailed => 32

/-- The code of a card state (11.1). -/
def CardState.code : CardState → Nat
  | .empty => 0 | .issued => 1 | .active => 2 | .suspended => 3 | .locked => 4 | .closed => 5

/-- The code of a standing (11.1). -/
def Standing.code : Standing → Nat
  | .good => 0 | .watched => 1 | .restricted => 2 | .barred => 3

/-- The code of a journal entry kind (11.1). -/
def JournalKind.code : JournalKind → Nat
  | .lapse => 1 | .status => 2 | .activate => 3 | .load => 4 | .bonus => 5 | .redeem => 6 | .holdOpen => 7 | .holdRenew => 8
  | .capture => 9 | .holdCancel => 10 | .reversal => 11 | .close => 12 | .grant => 13 | .holdExpire => 14

/-- The code of a row kind in the quarantine read-out (11.1). -/
def RowKind.code : RowKind → Nat
  | .card => 1 | .till => 2 | .hold => 3

/-- The code of a trail status (11.1). -/
def TrailStatus.code : TrailStatus → Nat
  | .none => 0 | .pending => 1 | .done => 2 | .abandoned => 3

/-- The trail's work code of an expiry job (11.1). -/
def expiryWorkCode : Nat := 64

/-- A flag as a bit at a place. -/
def bitAt (b : Bool) (n : Nat) : Nat := if b then 2 ^ n else 0

/-- The flag bits of an answer (11.1). -/
def AnswerFlags.bits (f : AnswerFlags) : Nat :=
  bitAt f.isRepeat 0 + bitAt f.bonusWithheld 1 + bitAt f.bonusClamped 2 + bitAt f.cardLockedNow 3 + bitAt f.tillWatched 4 +
    bitAt f.withdrawLate 5

/-- Whether a set holds a cause. -/
def CauseSet.mem (c : CauseSet) : Cause → Bool
  | .answers => c.answers | .journal => c.journal | .till => c.till | .store => c.store | .engine => c.engine

/-- A set with a cause joined (R178). -/
def CauseSet.add (c : CauseSet) : Cause → CauseSet
  | .answers => { c with answers := true } | .journal => { c with journal := true } | .till => { c with till := true }
  | .store => { c with store := true } | .engine => { c with engine := true }

/-- Whether a raised cause is also enabled (R179). -/
def CauseSet.anyEnabled (raised enable : CauseSet) : Bool :=
  (raised.answers && enable.answers) || (raised.journal && enable.journal) || (raised.till && enable.till) ||
    (raised.store && enable.store) || (raised.engine && enable.engine)

/-- The set of a bit set (11.1): bit n stands for the cause with code n. -/
def CauseSet.ofBits (b : BitVec 8) : CauseSet :=
  { answers := b.getLsbD 0, journal := b.getLsbD 1, till := b.getLsbD 2, store := b.getLsbD 3, engine := b.getLsbD 4 }

/-- The bits of a set (11.1). -/
def CauseSet.bits (c : CauseSet) : Nat :=
  bitAt c.answers 0 + bitAt c.journal 1 + bitAt c.till 2 + bitAt c.store 3 + bitAt c.engine 4

/-- The status register (11.6): state in bits 0-2, start-pending 3, control-ignored 4, quarantine overflow 5, clock set 6,
fault code in bits 8-15. Bits 11.6 does not name read 0 (log 34). -/
def statusWord (s : State) : Word32 :=
  BitVec.ofNat 32 (s.control.engine.code + bitAt s.control.startPending 3 + bitAt s.control.controlIgnored 4 +
    bitAt s.store.overflow 5 + bitAt s.clock.set 6 + 256 * s.control.fault.code)

/-- What the register at a window offset reads as: the control and nudge registers, and offsets 11.6 does not name, read 0 (R181, R185,
R189). -/
def registerValue (s : State) (offset : Nat) : Word32 :=
  match offset with
  | 0x00 => s.link.anchorLow
  | 0x04 => s.link.anchorHigh
  | 0x0C => statusWord s
  | 0x14 => BitVec.ofNat 32 s.notices.raised.bits
  | _ => 0

/-- What a read of `n` bytes of the register window from an offset returns: each byte is that of the register whose four bytes it is one of
(R189). The read of a byte of the notice register also empties the raised set, which is the NOTICE_READ command (log 13). -/
def readRegister (s : State) (offset n : Nat) : List Byte :=
  (List.range n).map (fun i => ((leBytes 4 (registerValue s (4 * ((offset + i) / 4))).toNat).getD ((offset + i) % 4) 0))

/-- The 64-bit anchor (R185). -/
def State.anchor (s : State) : Nat := s.link.anchorLow.toNat + 2 ^ 32 * s.link.anchorHigh.toNat

/-- A reading of the clock (R174). -/
def Clock.reading (c : Clock) : Reading := { day := c.day, minute := c.minute, second := c.second }

/-- The minute index of a reading (R174). -/
def Reading.index (r : Reading) : Nat := r.day * Config.minutesPerDay + r.minute

/-- Now: the current minute index. -/
def Clock.now (c : Clock) : Nat := c.day * Config.minutesPerDay + c.minute

end Sys2Proof.Machine
end

