-- ==== Sys2Proof/Machine/Lots.lean ====
section
/-! DEFINITION. The lot list of a card and what changes it (spec/01, R7 to R14), and the figures taken from it (R8). -/

namespace Sys2Proof.Machine

/-- A lot is BONUS when it carries an expiry day (R7). -/
def Lot.isBonus (l : Lot) : Bool := l.expiry.isSome

/-- A lot has lapsed: its expiry day is before today (R9). -/
def Lot.lapsed (today : Nat) (l : Lot) : Bool := match l.expiry with | none => false | some e => decide (e < today)

/-- The sum of the amounts of lots. -/
def lotSum (ls : List Lot) : Nat := (ls.map (·.amount)).sum

/-- The unlapsed lots of a day. -/
def unlapsed (today : Nat) (ls : List Lot) : List Lot := ls.filter (fun l => !l.lapsed today)

/-- Balance (R8). -/
def balance (today : Nat) (ls : List Lot) : Nat := lotSum (unlapsed today ls)

/-- Available, reported as 0 when the held total exceeds the balance (R8). -/
def available (today : Nat) (c : CardRow) : Nat := balance today c.lots - c.held

/-- The lot summary: the first unlapsed dated lot's expiry day and amount (R8). -/
def lotSummary (today : Nat) (ls : List Lot) : Option (Nat × Nat) :=
  ((unlapsed today ls).find? Lot.isBonus).bind (fun l => l.expiry.map (fun e => (e, l.amount)))

/-- The sum of the lapsed lots (R9). -/
def lapsedSum (today : Nat) (ls : List Lot) : Nat := lotSum (ls.filter (Lot.lapsed today))

/-- Adding paid value (R10); none when there is no room. -/
def addPaid (a : Nat) : List Lot → Option (List Lot)
  | [] => some [{ expiry := none, amount := a }]
  | ls =>
    match ls.getLast? with
    | some l =>
      if l.isBonus then
        if ls.length < Config.lotCapacity then some (ls ++ [{ expiry := none, amount := a }]) else none
      else some (ls.dropLast ++ [{ l with amount := l.amount + a }])
    | none => none

/-- A lot that stands behind a BONUS lot of day `e` in draw order (R11). -/
def Lot.behind (e : Nat) (l : Lot) : Bool := match l.expiry with | none => true | some x => decide (e < x)

/-- The place of a lot or part in the list: a dated one before the first lot that stands behind it (R11), an undated one at
the end (R13). -/
def placeOf (x : Option Nat) (ls : List Lot) : Nat :=
  match x with
  | none => ls.length
  | some e => ls.findIdx (Lot.behind e)

/-- A lot put at a place. -/
def insertLot (n : Nat) (l : Lot) (ls : List Lot) : List Lot := ls.take n ++ l :: ls.drop n

/-- An amount added to the lot at a place. -/
def addAt (a : Nat) : Nat → List Lot → List Lot
  | _, [] => []
  | 0, l :: ls => { l with amount := l.amount + a } :: ls
  | n + 1, l :: ls => l :: addAt a n ls

/-- Adding a BONUS lot of an amount with an expiry day (R11); none when there is no room. -/
def addBonus (g e : Nat) (ls : List Lot) : Option (List Lot) :=
  match ls.findIdx? (fun l => decide (l.expiry = some e)) with
  | some n => some (addAt g n ls)
  | none =>
    if ls.length < Config.lotCapacity then some (insertLot (placeOf (some e) ls) { expiry := some e, amount := g } ls) else none

/-- A computed expiry day, stored as 65,535 when above (R11). -/
def expiryDay (today life : Nat) : Nat := min (today + life) Config.lastDay

/-- Drawing an amount from the front of the list (R12): the draw parts and the lots that remain. -/
def drawLots : Nat → List Lot → List Lot × List Lot
  | _, [] => ([], [])
  | d, l :: ls =>
    if d = 0 then ([], l :: ls)
    else if l.amount ≤ d then
      let r := drawLots (d - l.amount) ls
      (l :: r.1, r.2)
    else ([{ l with amount := d }], { l with amount := l.amount - d } :: ls)

/-- What a restore has come to: the lots, the lapsed sum, the restored sum and the unrestored sum (R13). -/
structure Restored where
  lots : List Lot
  lapsed : Nat := 0
  restored : Nat := 0
  unrestored : Nat := 0
  deriving DecidableEq, Repr

/-- An amount given to the lot at a place, held to 99,999,999 (R13). -/
def Restored.give (r : Restored) (n a : Nat) : Restored :=
  let have_ := match r.lots[n]? with | none => 0 | some l => l.amount
  let room := Config.maxAmount - have_
  let g := min a room
  { r with lots := addAt g n r.lots, restored := r.restored + g, unrestored := r.unrestored + (a - g) }

/-- One draw part restored by the first case of R13 that applies. -/
def restorePart (today : Nat) (r : Restored) (p : Lot) : Restored :=
  if p.lapsed today then { r with lapsed := r.lapsed + p.amount }
  else
    match r.lots.findIdx? (fun l => decide (l.expiry = p.expiry)) with
    | some n => r.give n p.amount
    | none =>
      let n := placeOf p.expiry r.lots
      if r.lots.length < Config.lotCapacity then
        { r with lots := insertLot n p r.lots, restored := r.restored + p.amount }
      else r.give (min n (r.lots.length - 1)) p.amount

/-- Draw parts restored one by one in their recorded order (R13, log 42). -/
def restoreParts (today : Nat) (ps ls : List Lot) : Restored := ps.foldl (restorePart today) { lots := ls }

/-- An amount taken from the lots a test admits, in the order given: what remains to take, and the lots that remain. -/
def takeFrom (f : Lot → Bool) : Nat → List Lot → Nat × List Lot
  | x, [] => (x, [])
  | x, l :: ls =>
    if x = 0 then (0, l :: ls)
    else if f l then
      if l.amount ≤ x then takeFrom f (x - l.amount) ls else (0, { l with amount := l.amount - x } :: ls)
    else
      let r := takeFrom f x ls
      (r.1, l :: r.2)

/-- The paid pass (R14): PAID lots from the last towards the front, then BONUS lots likewise. The amount taken and the lots. -/
def paidPass (x : Nat) (ls : List Lot) : Nat × List Lot :=
  let a := takeFrom (fun l => !l.isBonus) x ls.reverse
  let b := takeFrom Lot.isBonus a.1 a.2
  (x - b.1, b.2.reverse)

/-- The bonus pass (R14): the BONUS lot of day `e` first, then the other BONUS lots from the last towards the front. -/
def bonusPass (y e : Nat) (ls : List Lot) : Nat × List Lot :=
  let a := takeFrom (fun l => decide (l.expiry = some e)) y ls.reverse
  let b := takeFrom Lot.isBonus a.1 a.2
  (y - b.1, b.2.reverse)

end Sys2Proof.Machine
end

