-- ==== Sys2Proof/Machine/Cards.lean ====
section
/-! DEFINITION. Card numbers and programme selection (spec/02, R23 to R30), and the card-row checks of steps 14 and 15: ownership
test, upkeep, card state gate, code check, velocity window (spec/01, R3 to R5, R9, R16 to R18). -/

namespace Sys2Proof.Machine

/-! ### Card numbers (R24) and selection (R26 to R30) -/

/-- The weighted sum of the digits, weights from the right 1, 3, 1, 3 .. (R24); over 19 digits the first takes weight 1. -/
def weightedSum : List Nat → Nat
  | [] => 0
  | [a] => a
  | a :: b :: r => a + 3 * b + weightedSum r

/-- Step 7: the check digit test (R24). -/
def checkDigitOk (digits : List Nat) : Bool := decide (weightedSum digits % 10 = 0)

/-- A rule's flagged digits equal the prefix digits in the same positions (R25, R26); mask bit n - 1 is prefix digit n. -/
def Rule.prefixMatches (r : Rule) (digits : List Nat) : Bool :=
  (List.range 8).all (fun n => !r.mask.getLsbD n || decide (r.digits.getD n 0 = digits.getD n 0))

/-- The first enabled rule that matches, from rule `i` on, among `n` rules (R26). -/
def firstRule (t : List (Nat × Rule)) (digits : List Nat) : Nat → Nat → Option Rule
  | 0, _ => none
  | n + 1, i =>
    let r := Sparse.get {} t i
    if r.enabled && r.prefixMatches digits then some r else firstRule t digits n (i + 1)

/-- Step 8: the selection, or none for NO_PROGRAMME (R26). -/
def selectProgramme (t : Tables) (digits : List Nat) : Option Selection :=
  match firstRule t.rules digits 64 0 with
  | none => none
  | some r =>
    let p : Programme := Sparse.get {} t.programmes r.programme
    if p.enabled then some { rule := r, programmeNo := r.programme, programme := p } else none

/-- Step 9: a gated kind is in the allowed-kind sets of the rule and of the programme (R27). -/
def kindAllowed (k : RequestKind) (sel : Selection) : Bool :=
  match k.gatedBit with
  | none => true
  | some b => sel.rule.kinds.getLsbD b && sel.programme.kinds.getLsbD b

/-- Step 10: the row index of a serial below the row count (R30). -/
def rowIndex (sel : Selection) (serial : Nat) : Option Nat :=
  if serial < sel.programme.rowCount then some (sel.programme.rowBase + serial) else none

/-! ### Steps 14 and 15 -/

/-- The kinds for which upkeep makes the lapse removal (R9). -/
def RequestKind.removesLapsed : RequestKind → Bool
  | .activate | .load | .redeem | .holdOpen | .holdRenew | .holdClose | .holdCancel | .reverse | .cardStatus | .bonusGrant => true
  | _ => false

/-- The kinds for which upkeep rolls the velocity window, and which the window counts (R18). -/
def RequestKind.counted : RequestKind → Bool
  | .redeem | .holdOpen => true
  | _ => false

/-- The ownership test (R3). -/
def owned (c : CardRow) (programme : Nat) : Bool := !decide (c.state = .empty) && decide (c.programme = programme)

/-- The window roll (R18). -/
def rollWindow (window now : Nat) (c : CardRow) : CardRow :=
  let i := now / window
  if c.windowIndex = i then c else { c with windowIndex := i, windowCount := 0 }

/-- Upkeep of a kind (R3, R9, R18). -/
def upkeep (k : RequestKind) (sel : Selection) (t : Reading) (c : CardRow) : CardRow :=
  let c := if k.removesLapsed then { c with lots := unlapsed t.day c.lots } else c
  if k.counted then rollWindow sel.programme.window t.index c else c

/-- The lapsed sum of a kind's upkeep (R9). -/
def upkeepLapsed (k : RequestKind) (t : Reading) (c : CardRow) : Nat := if k.removesLapsed then lapsedSum t.day c.lots else 0

/-- The card state gate for a till kind (R4); none admits. BONUS_GRANT is gated as LOAD (R5). REVERSE on an ISSUED card is
declined as R4's table has it: 95_what_each_step_holds.md puts the gate within REVERSE under R4, 'with the reason of the table', and the sentence of
R61 that says otherwise of ISSUED names R4 as its source (log 53). -/
def stateGate (k : RequestKind) (st : CardState) : Option Reason :=
  match st with
  | .empty => some .unknownCard
  | .issued => match k with | .activate | .balance => none | _ => some .notActive
  | .active => none
  | .suspended => match k with | .balance | .holdCancel | .reverse => none | _ => some .suspended
  | .locked => match k with | .reverse => none | _ => some .locked
  | .closed => some .notActive

/-- The gate of step 14 by kind: CARD_STATUS is taken or refused by its action (R5). -/
def cardGate (k : RequestKind) (st : CardState) : Option Reason :=
  match k with
  | .cardStatus => none
  | .bonusGrant => stateGate .load st
  | _ => stateGate k st

/-- A code is required of a request (R16). -/
def codeRequired (k : RequestKind) (amount : Nat) (sel : Selection) (c : CardRow) : Bool :=
  (match k with | .balance | .redeem | .holdOpen => true | _ => false) &&
  (decide (c.state = .active) || decide (c.state = .suspended)) && c.code.isSome &&
  (match sel.programme.codePolicy with
    | .never => false
    | .always => true
    | .above => decide (sel.programme.codeThreshold ≤ amount))

/-- What the code check gives (R17): a reason when it declines, the card, and whether the wrong code locked it. -/
structure CodeOutcome where
  reason : Option Reason
  card : CardRow
  lockedNow : Bool
  deriving DecidableEq, Repr

/-- Step 15: the code check (R16, R17). -/
def codeCheck (k : RequestKind) (r : Req) (sel : Selection) (c : CardRow) : CodeOutcome :=
  if codeRequired k r.amount sel c then
    if r.codeAbsent then { reason := some .codeMissing, card := c, lockedNow := false }
    else if c.code = some r.codeValue then { reason := none, card := { c with tries := 0 }, lockedNow := false }
    else
      let t := min (c.tries + 1) 7
      if sel.programme.triesLimit ≤ t then
        { reason := some .wrongCode, card := { c with tries := t, state := .locked }, lockedNow := true }
      else { reason := some .wrongCode, card := { c with tries := t }, lockedNow := false }
  else { reason := none, card := c, lockedNow := false }

/-- The velocity test (R18): the limit is reached. -/
def velocityReached (sel : Selection) (c : CardRow) : Bool :=
  decide (0 < sel.programme.velocityLimit) && decide (sel.programme.velocityLimit ≤ c.windowCount)

/-- An approval counted in the window, stopping at 255 (R18). -/
def countApproval (c : CardRow) : CardRow := { c with windowCount := min (c.windowCount + 1) 255 }

/-- The last-use day set to today (R20). -/
def usedToday (today : Nat) (c : CardRow) : CardRow := { c with lastUseDay := some today }

end Sys2Proof.Machine
end

