-- ==== Sys2Proof/Machine/Ops.lean ====
section
/-! DEFINITION. The operations the blocks share: link transfers, notices, the quarantine list and the ECC reads of rows, journal
room, the lock table and the wait pool, and the end of a piece of work. -/

namespace Sys2Proof.Machine

/-! ### Link transfers (00_scope, Link Interface; log 3) -/

/-- An address lies in one of the ranges (base, length). -/
def inRanges (rs : List (Nat × Nat)) (a : Nat) : Bool := rs.any (fun r => decide (r.1 ≤ a) && decide (a < r.1 + r.2))

/-- A read of this address fails on the link. -/
def Link.readFailsAt (l : Link) (a : Nat) : Bool := !decide (a < Config.hostAddresses) || inRanges l.readsFail a

/-- A write of this address fails on the link. -/
def Link.writeFailsAt (l : Link) (a : Nat) : Bool := !decide (a < Config.hostAddresses) || inRanges l.writesFail a

/-- The `n` bytes of host memory from `a`. -/
def memBytes (m : List Host.Cell) (a n : Nat) : List Byte := (List.range n).map (fun i => Memory.read m (a + i))

/-- Host memory with bytes written upward from `a`. -/
def memWrite (m : List Host.Cell) (a : Nat) : List Byte → List Host.Cell
  | [] => m
  | b :: bs => memWrite (Memory.write m a b) (a + 1) bs

/-- A link read of `n` bytes: none when any of them fails. -/
def linkRead (s : State) (a n : Nat) : Option (List Byte) :=
  if (List.range n).any (fun i => s.link.readFailsAt (a + i)) then none else some (memBytes s.link.mem a n)

/-- The state with other host memory. -/
def State.setMem (s : State) (m : List Host.Cell) : State := s.setLink { s.link with mem := m }

/-- A link write of one word: made whole or, when it fails, not at all (R184). The Bool says whether it completed. -/
def linkPut (s : State) (a : Nat) (bs : List Byte) : State × Bool :=
  if (List.range bs.length).any (fun i => s.link.writeFailsAt (a + i)) then (s, false)
  else (s.setMem (memWrite s.link.mem a bs), true)

/-- The bytes of a block that are written before the first one that fails. -/
def writablePrefix (l : Link) : Nat → List Byte → List Byte
  | _, [] => []
  | a, b :: bs => if l.writeFailsAt a then [] else b :: writablePrefix l (a + 1) bs

/-- A link write of a block: a failed one leaves the bytes already written (R162, R173, R188). -/
def linkBlock (s : State) (a : Nat) (bs : List Byte) : State × Bool :=
  let p := writablePrefix s.link a bs
  (s.setMem (memWrite s.link.mem a p), decide (p.length = bs.length))

/-- `n` bytes from `a` written 0, each byte whose write does not fail; a byte that memory does not list reads 0 (log 1). -/
def linkZero (s : State) (a n : Nat) : State :=
  s.setMem (s.link.mem.filter (fun c => !(decide (a ≤ c.1) && decide (c.1 < a + n)) || s.link.writeFailsAt c.1))

/-! ### Notices (R178, R179) -/

/-- One MSI: a write of the message data to the message address that the host programmed, when it has enabled MSI in the part's
capability (R179). Where that write lands is the host's (log 10). THE MODEL'S CHOICE (log 55): it counts as sent though writes to its address fail. -/
def sendMsi (s : State) : State :=
  if s.link.msi.enabled then
    s.setLink { s.link with msiSent := s.link.msiSent ++ [(s.link.msi.address, s.link.msi.data)] }
  else s

/-- A cause joins the raised set; an MSI is sent when the raised enabled causes go from none to one (R178, R179). -/
def raiseCause (c : Cause) (s : State) : State :=
  let raised := s.notices.raised.add c
  let s' := s.setNotices { s.notices with raised := raised }
  if !s.notices.raised.anyEnabled s.notices.enable && raised.anyEnabled s.notices.enable then sendMsi s' else s'

/-! ### The quarantine list (R135, R136) -/

/-- The row is in the quarantine list. -/
def State.isListed (s : State) (k : RowKind) (i : Nat) : Bool :=
  s.store.quarantine.any (fun q => decide (q.kind = k) && decide (q.index = i))

/-- The quarantine count is written into the engine words, while they have an address (R136). -/
def writeQuarantineCount (s : State) : State :=
  match s.control.engineWords with
  | none => s
  | some a => (linkPut s (a + 264) (leBytes 4 s.store.quarantine.length)).1

/-- An unreadable row joins the quarantine list, or sets the overflow flag when the list is full (R135). -/
def quarantineJoin (k : RowKind) (i : Nat) (s : State) : State :=
  if s.isListed k i then s
  else if s.store.quarantine.length < Config.quarantineCapacity then
    writeQuarantineCount (raiseCause .store (s.setStore { s.store with
      quarantine := s.store.quarantine ++ [{ kind := k, index := i, listedAt := if s.clock.set then some s.clock.now else none }] }))
  else if s.store.overflow then s
  else raiseCause .store (s.setStore { s.store with overflow := true })

/-- A row leaves the quarantine list (R136); a row not in it leaves the list as it is. -/
def quarantineLeave (k : RowKind) (i : Nat) (s : State) : State :=
  if s.isListed k i then
    writeQuarantineCount (s.setStore { s.store with
      quarantine := s.store.quarantine.filter (fun q => !(decide (q.kind = k) && decide (q.index = i))) })
  else s

/-! ### Rows of the store (R132 to R134) -/

/-- A card row as scrubbed (R22). -/
def scrubbedCard : Stored CardRow := { val := {}, ecc := .clean }
/-- A till row as scrubbed (R112). -/
def scrubbedTill : Stored TillRow := { val := {}, ecc := .clean }
/-- A hold row as scrubbed (R92). -/
def scrubbedHold : Stored HoldRow := { val := {}, ecc := .clean }

/-- The stored card row. -/
def State.card (s : State) (i : Nat) : Stored CardRow := Sparse.get scrubbedCard s.store.cards i
/-- The stored till row. -/
def State.tillRow (s : State) (i : Nat) : Stored TillRow := Sparse.get scrubbedTill s.store.tills i
/-- The stored hold row content. -/
def State.hold (s : State) (i : Nat) : Stored HoldRow := Sparse.get scrubbedHold s.store.holds i

/-- A card row with its error state. -/
def State.putCardStored (s : State) (i : Nat) (c : Stored CardRow) : State :=
  s.setStore { s.store with cards := Sparse.set scrubbedCard s.store.cards i c }
/-- A till row with its error state. -/
def State.putTillStored (s : State) (i : Nat) (t : Stored TillRow) : State :=
  s.setStore { s.store with tills := Sparse.set scrubbedTill s.store.tills i t }
/-- A hold row content with its error state. -/
def State.putHoldStored (s : State) (i : Nat) (h : Stored HoldRow) : State :=
  s.setStore { s.store with holds := Sparse.set scrubbedHold s.store.holds i h }

/-- A card row written whole with fresh check bits (R132). -/
def State.putCard (s : State) (i : Nat) (row : CardRow) : State := s.putCardStored i { val := row, ecc := .clean }
/-- A till row written whole with fresh check bits (R132). -/
def State.putTill (s : State) (i : Nat) (row : TillRow) : State := s.putTillStored i { val := row, ecc := .clean }
/-- A hold row content written whole with fresh check bits (R132). -/
def State.putHold (s : State) (i : Nat) (row : HoldRow) : State := s.putHoldStored i { val := row, ecc := .clean }

/-- An ECC read of a card row: a corrected one is written back (R133), an uncorrectable one gives no data and the row joins
the quarantine list (R134). -/
def readCard (s : State) (i : Nat) : State × Option CardRow :=
  match (s.card i).ecc.outcome with
  | .clean => (s, some (s.card i).val)
  | .corrected => (s.putCard i (s.card i).val, some (s.card i).val)
  | .uncorrectable => (quarantineJoin .card i s, none)

/-- An ECC read of a till row by a requester: a row outside the table or in the quarantine list is unreadable without a read
(R95, R134). -/
def readTill (s : State) (i : Nat) : State × Option TillRow :=
  if !decide (i < Config.tills) || s.isListed .till i then (s, none)
  else match (s.tillRow i).ecc.outcome with
    | .clean => (s, some (s.tillRow i).val)
    | .corrected => (s.putTill i (s.tillRow i).val, some (s.tillRow i).val)
    | .uncorrectable => (quarantineJoin .till i s, none)

/-- An ECC read of a hold row's content; a row in the quarantine list is unreadable without a read (R83, R134). -/
def readHold (s : State) (i : Nat) : State × Option HoldRow :=
  if s.isListed .hold i then (s, none)
  else match (s.hold i).ecc.outcome with
    | .clean => (s, some (s.hold i).val)
    | .corrected => (s.putHold i (s.hold i).val, some (s.hold i).val)
    | .uncorrectable => (quarantineJoin .hold i s, none)

/-- The store header (R131). -/
def State.header (s : State) : Header := s.store.header.header

/-- The header written in both copies with fresh check bits (R131). -/
def State.putHeader (s : State) (h : Header) : State := s.setStore { s.store with header := { header := h } }

/-- Hold rows of the recorded partition (R129); 0 while none is recorded. -/
def State.holdRows (s : State) : Nat := match s.header.partition with | none => 0 | some p => Config.holdRows p

/-- Card rows of the recorded partition (R129); 0 while none is recorded. -/
def State.cardRows (s : State) : Nat := match s.header.partition with | none => 0 | some p => Config.cardRows p

/-! ### The commit trail's statuses (R142) -/

/-- The on-chip statuses of a trail entry. -/
def State.trailStatusAt (s : State) (k : Nat) : StatusPair := Sparse.get {} s.store.trailStatus k

/-- The stored trail entry at a place. -/
def State.trailCell (s : State) (k : Nat) : TrailCell := Sparse.get {} s.store.trail k

/-- The journal status of a trail entry, in the store and on-chip; the status word is written with fresh check bits. -/
def setJournalStatus (k : Nat) (v : TrailStatus) (s : State) : State :=
  let c := s.trailCell k
  s.setStore { s.store with
    trail := Sparse.set {} s.store.trail k { entry := { c.entry with journalStatus := v }, ecc := c.ecc.freshWord journalStatusWord }
    trailStatus := Sparse.set {} s.store.trailStatus k { s.trailStatusAt k with journal := v } }

/-- The answer status of a trail entry, in the store and on-chip; the status word is written with fresh check bits. -/
def setAnswerStatus (k : Nat) (v : TrailStatus) (s : State) : State :=
  let c := s.trailCell k
  s.setStore { s.store with
    trail := Sparse.set {} s.store.trail k { entry := { c.entry with answerStatus := v }, ecc := c.ecc.freshWord answerStatusWord }
    trailStatus := Sparse.set {} s.store.trailStatus k { s.trailStatusAt k with answer := v } }

/-- A trail entry still owing its journal append or its answer (R142). -/
def State.trailOwing (s : State) (k : Nat) : Bool :=
  decide ((s.trailStatusAt k).journal = .pending) || decide ((s.trailStatusAt k).answer = .pending)

/-- Every status that is PENDING becomes ABANDONED (R142). -/
def abandonPending (s : State) : State :=
  (List.range Config.trailEntries).foldl (fun s k =>
    let s := if (s.trailStatusAt k).journal = .pending then setJournalStatus k .abandoned s else s
    if (s.trailStatusAt k).answer = .pending then setAnswerStatus k .abandoned s else s) s

/-! ### Workers (R113) -/

/-- The work of a worker; none when it is FREE. -/
def State.worker (s : State) (w : Nat) : Option Work := Sparse.get none s.units.workers w

/-- A worker with its work, or FREE. -/
def State.setWorker (s : State) (w : Nat) (v : Option Work) : State :=
  s.setUnits { s.units with workers := Sparse.set none s.units.workers w v }

/-! ### Journal room (R170 to R172) -/

/-- The directory in force, or an empty one before the first STARTING. -/
def State.dir (s : State) : Directory := s.control.directory.getD {}

/-- The fill (R172). -/
def Journal.fill (j : Journal) : Nat := j.written - j.cached

/-- The free room is at least `n` entries (R170). -/
def State.roomFits (s : State) (n : Nat) : Bool :=
  decide (s.journal.fill + s.journal.reserved + n ≤ s.dir.journalCount)

/-- `n` entries of room join the reserved count. -/
def reserveRoom (n : Nat) (s : State) : State := s.setJournal { s.journal with reserved := s.journal.reserved + n }

/-- The fill is tested against the journal notice mark (R172). -/
def testMark (s : State) : State :=
  let f := s.journal.fill
  let s' := s.setJournal { s.journal with fillTested := f }
  if s.journal.fillTested < s.dir.mark ∧ s.dir.mark ≤ f then raiseCause .journal s' else s'

/-- Waiting BALANCE requests are granted one entry each, oldest first, while room remains (R170). -/
def grantWaiting : List Nat → State → State
  | [], s => s.setUnits { s.units with roomWaiters := [] }
  | w :: ws, s =>
    if s.roomFits 1 then
      match s.worker w with
      | some k =>
        match k.phase with
        | .awaitRoom p => grantWaiting ws (reserveRoom 1 (s.setWorker w (some { k with phase := .roomGranted p, room := k.room + 1 })))
        | _ => grantWaiting ws s
      | none => grantWaiting ws s
    else s.setUnits { s.units with roomWaiters := w :: ws }

/-- The free room has risen: waiting BALANCE requests first (R46, R170). -/
def grantBalances (s : State) : State := grantWaiting s.units.roomWaiters s

/-- The cached drained count a reading `v` leaves (R171). -/
def refreshedCount (j : Journal) (v : Nat) : Nat :=
  if j.written < v then j.written else if j.cached ≤ v then v else j.cached

/-- The cached drained count is refreshed from the host-word block (R171); a refresh that raised it tests the mark and grants
waiting BALANCE requests. -/
def refreshDrained (s : State) : State :=
  match linkRead s s.dir.hostWords 8 with
  | none => s
  | some bs =>
    let c := refreshedCount s.journal (leNat bs)
    if s.journal.cached < c then grantBalances (testMark (s.setJournal { s.journal with cached := c })) else s

/-- A request for `n` entries of room (R170): granted within the free room, after a refresh when it is short. -/
def askRoom (n : Nat) (s : State) : State × Bool :=
  if n = 0 then (s, true)
  else if s.roomFits n then (reserveRoom n s, true)
  else
    let s := refreshDrained s
    if s.roomFits n then (reserveRoom n s, true) else (s, false)

/-- Room not handed over is returned (R170). -/
def returnRoom (n : Nat) (s : State) : State :=
  grantBalances (s.setJournal { s.journal with reserved := s.journal.reserved - n })

/-! ### Wait-pool places (R120) -/

/-- The lowest free place of the pool; none when all 32 are reserved. Which place is reserved is not visible (log 33). -/
def State.freePlace (s : State) : Option Nat := (List.range Config.poolPlaces).find? (fun p => !s.units.places.contains p)

/-- A place is reserved. -/
def reservePlace (p : Nat) (s : State) : State := s.setUnits { s.units with places := s.units.places ++ [p] }

/-- A place is returned. -/
def returnPlace (p : Nat) (s : State) : State := s.setUnits { s.units with places := s.units.places.filter (fun q => !decide (q = p)) }

/-! ### The lock table (R116 to R119) -/

/-- The entries in use of a lock's bank. -/
def State.bank (s : State) : LockName → List Lock
  | .till _ => s.locks.till
  | .card _ => s.locks.card

/-- The row a lock names. -/
def LockName.row : LockName → Nat
  | .till r => r
  | .card r => r

/-- The same kind of lock on another row. -/
def LockName.onRow : LockName → Nat → LockName
  | .till _, r => .till r
  | .card _, r => .card r

/-- A bank replaced. -/
def State.setBank (s : State) (l : LockName) (b : List Lock) : State :=
  match l with
  | .till _ => s.setLocks { s.locks with till := b }
  | .card _ => s.setLocks { s.locks with card := b }

/-- The lock is held (R116). -/
def State.lockHeld (s : State) (l : LockName) : Bool := (s.bank l).any (fun k => decide (k.row = l.row))

/-- A lock request of the work at a pool place, served by the first case of R118: the Bool says whether the lock was granted. -/
def requestLock (l : LockName) (place : Nat) (s : State) : State × Bool :=
  if s.lockHeld l then (s, false)
  else if (s.bank l).length < Config.bankSize then (s.setBank l (s.bank l ++ [{ row := l.row, holder := place }]), true)
  else (s, false)

/-- Work that holds a lock it was waiting for. -/
def Work.received (k : Work) : LockName → Work
  | .till r => { k with tillLock := some r, phase := .gotTill }
  | .card r => { k with cardLock := some r, phase := .gotCard }

/-- Work enters the wait pool and its worker becomes FREE (R121). -/
def enterPool (w : Nat) (k : Work) (l : LockName) (s : State) : State :=
  let s := s.setWorker w none
  s.setUnits { s.units with waiting := s.units.waiting ++ [{ lock := l, work := k }] }

/-- The first waiter that a test admits, and the waiters without it. -/
def takeWaiter (f : Waiter → Bool) : List Waiter → Option (Waiter × List Waiter)
  | [] => none
  | a :: r => if f a then some (a, r) else (takeWaiter f r).map (fun p => (p.1, a :: p.2))

/-- Two lock names are of one kind. -/
def LockName.sameKind : LockName → LockName → Bool
  | .till _, .till _ => true
  | .card _, .card _ => true
  | _, _ => false

/-- The table entry of a row passed to another row and holder (R119). -/
def passEntry (row : Nat) (l : Lock) (b : List Lock) : List Lock := b.map (fun k => if k.row = row then l else k)

/-- A waiter receives its lock in the table entry of row `row` of its bank, and joins the tail of the ready queue (R119). -/
def handOver (x : Waiter) (rest : List Waiter) (row : Nat) (s : State) : State :=
  let s := s.setBank x.lock (passEntry row { row := x.lock.row, holder := x.work.place } (s.bank x.lock))
  s.setUnits { s.units with waiting := rest, ready := s.units.ready ++ [x.work.received x.lock] }

/-- A lock's release (R119): handed to the oldest waiter for it, or its entry passed to the oldest waiter of the same kind
whose row has no entry in use, or cleared. -/
def releaseLock (l : LockName) (s : State) : State :=
  match takeWaiter (fun x => decide (x.lock = l)) s.units.waiting with
  | some (x, rest) => handOver x rest l.row s
  | none =>
    match takeWaiter (fun x => x.lock.sameKind l && !s.lockHeld x.lock) s.units.waiting with
    | some (x, rest) => handOver x rest l.row s
    | none => s.setBank l ((s.bank l).filter (fun k => !decide (k.row = l.row)))

/-- The release of a lock a piece of work may hold. -/
def releaseTill (t : Option Nat) (s : State) : State := match t with | none => s | some r => releaseLock (.till r) s

/-- The release of a card lock a piece of work may hold. -/
def releaseCard (c : Option Nat) (s : State) : State := match c with | none => s | some r => releaseLock (.card r) s

/-- Steps 6 and 7 of the commit sequence (R123): the till lock, then the unused room and the pool place; the worker is FREE. -/
def finishWork (w : Nat) (k : Work) (s : State) : State :=
  returnRoom k.room (returnPlace k.place ((releaseTill k.tillLock s).setWorker w none))

/-! ### The outside world (log 2) -/

/-- A bit of a unit's code words changes its value; a word or a bit the unit does not have is none. -/
def applyFlip (s : State) (f : BitFlip) : State :=
  let flip (e : BitErrors) : BitErrors := e.flip f.word f.bit
  if f.word < f.unit.codeWords ∧ f.bit < codeWordBits then
    match f.unit with
    | .cardRow i => s.putCardStored i { s.card i with ecc := flip (s.card i).ecc }
    | .tillRow i => s.putTillStored i { s.tillRow i with ecc := flip (s.tillRow i).ecc }
    | .holdContent i => s.putHoldStored i { s.hold i with ecc := flip (s.hold i).ecc }
    | .linkCopyOne i =>
      let c : StoredLink := Sparse.get {} s.store.links i
      s.setStore { s.store with links := Sparse.set {} s.store.links i { c with one := flip c.one } }
    | .linkCopyTwo i =>
      let c : StoredLink := Sparse.get {} s.store.links i
      s.setStore { s.store with links := Sparse.set {} s.store.links i { c with two := flip c.two } }
    | .headerCopyOne => s.setStore { s.store with header := { s.store.header with one := flip s.store.header.one } }
    | .headerCopyTwo => s.setStore { s.store with header := { s.store.header with two := flip s.store.header.two } }
    | .trailEntry k =>
      s.setStore { s.store with trail := Sparse.set {} s.store.trail k { s.trailCell k with ecc := flip (s.trailCell k).ecc } }
  else s

/-- What the outside world did before a command (log 2): bytes of host memory, the link's condition, the MSI
capability, bits of the store. -/
def State.outside (s : State) (e : Outside) : State :=
  e.flips.foldl applyFlip (s.setLink { s.link with
    mem := e.writes.foldl (fun m c => Memory.write m c.1 c.2) s.link.mem
    readsFail := e.readsFail.getD s.link.readsFail
    writesFail := e.writesFail.getD s.link.writesFail
    msi := e.msi.getD s.link.msi })

end Sys2Proof.Machine
end

