-- ==== Sys2Proof/Machine/HoldChains.lean ====
section
/-! DEFINITION. The Hold Table (spec/04): link words, the three chain operations, the filing rule, claims, handouts, the sweep
and the clock steps it follows, the LINK_LOST fault and the rebuild (R77 to R92, R137, R138). -/

namespace Sys2Proof.Machine

/-- The chains of the Hold Table (R77). -/
inductive ChainId where
  | free
  | due
  | bucket (b : Nat)
  deriving DecidableEq, Repr

/-- A chain's on-chip ends and count. -/
def State.chain (s : State) : ChainId → Chain
  | .free => s.holds.free
  | .due => s.holds.due
  | .bucket b => Sparse.get {} s.holds.buckets b

/-- A chain's on-chip ends and count replaced. -/
def State.setChain (s : State) (c : ChainId) (v : Chain) : State :=
  match c with
  | .free => s.setHolds { s.holds with free := v }
  | .due => s.setHolds { s.holds with due := v }
  | .bucket b => s.setHolds { s.holds with buckets := Sparse.set {} s.holds.buckets b v }

/-! ### Link words (R137) -/

/-- The row a previous link names: offset 0 is the row of the index before (R137). -/
def prevTarget (i : Nat) (w : LinkWord) : Option Nat := w.prev.map (fun o => ((i : Int) - 1 + o).toNat)

/-- The row a next link names: offset 0 is the row of the next index (R137). -/
def nextTarget (i : Nat) (w : LinkWord) : Option Nat := w.next.map (fun o => ((i : Int) + 1 + o).toNat)

/-- A previous link to a row, or none, as it is stored. -/
def prevLink (i : Nat) (t : Option Nat) : Option Int := t.map (fun k => (k : Int) - i + 1)

/-- A next link to a row, or none, as it is stored. -/
def nextLink (i : Nat) (t : Option Nat) : Option Int := t.map (fun k => (k : Int) - i - 1)

/-- The stored link word of a row. -/
def State.linkWord (s : State) (i : Nat) : StoredLink := Sparse.get {} s.store.links i

/-- A stored link word replaced. -/
def State.putLinkStored (s : State) (i : Nat) (v : StoredLink) : State :=
  s.setStore { s.store with links := Sparse.set {} s.store.links i v }

/-- A link word written: both copies, with fresh check bits (R137). -/
def writeLink (i : Nat) (w : LinkWord) (s : State) : State := s.putLinkStored i { word := w }

/-- A link word read (R137): copy one, else copy two, from which copy one is rewritten; none when both are lost. -/
def readLink (s : State) (i : Nat) : State × Option LinkWord :=
  let c := s.linkWord i
  match c.one.outcome, c.two.outcome with
  | .clean, _ => (s, some c.word)
  | .corrected, _ => (s.putLinkStored i { c with one := .clean }, some c.word)
  | .uncorrectable, .uncorrectable => (s, none)
  | .uncorrectable, _ => (writeLink i c.word s, some c.word)

/-- A neighbour's next link joined; its other link is kept, and the word is not read (R137, log 25). -/
def joinNext (i : Nat) (t : Option Nat) (s : State) : State :=
  writeLink i { (s.linkWord i).word with next := nextLink i t } s

/-- A neighbour's previous link joined; its other link is kept, and the word is not read (R137, log 25). -/
def joinPrev (i : Nat) (t : Option Nat) (s : State) : State :=
  writeLink i { (s.linkWord i).word with prev := prevLink i t } s

/-! ### Chain operations (R78) -/

/-- Append: the row goes at the tail of a chain (R78). -/
def appendRow (c : ChainId) (i : Nat) (s : State) : State :=
  let ch := s.chain c
  let s := writeLink i { prev := prevLink i ch.tail, next := none } s
  let s := match ch.tail with | none => s | some t => joinNext t (some i) s
  s.setChain c { head := match ch.head with | none => some i | some h => some h, tail := some i, count := ch.count + 1 }

/-- The row from which a row's chain starts, going back along at most `n` previous links. -/
def chainStart (s : State) : Nat → Nat → Nat
  | 0, i => i
  | n + 1, i => match prevTarget i (s.linkWord i).word with | none => i | some p => chainStart s n p

/-- Which chain starts with a row (R78: its index is compared with the on-chip heads). -/
def chainHeadedBy (s : State) (h : Nat) : Option ChainId :=
  if s.holds.free.head = some h then some .free
  else if s.holds.due.head = some h then some .due
  else (s.holds.buckets.find? (fun b => decide (b.2.head = some h))).map (fun b => .bucket b.1)

/-- The chain a row stands in (log 25). -/
def chainOf (s : State) (i : Nat) : Option ChainId := chainHeadedBy s (chainStart s s.holdRows i)

/-- A chain's ends and count once a row has left it (R78). -/
def Chain.without (ch : Chain) (i : Nat) (p n : Option Nat) : Chain :=
  { head := if ch.head = some i then n else ch.head, tail := if ch.tail = some i then p else ch.tail, count := ch.count - 1 }

/-- Unlink: the row leaves its chain (R78). The Bool is false when both copies of its link word are lost (R138). -/
def unlinkRow (i : Nat) (s : State) : State × Bool :=
  let c := chainOf s i
  match readLink s i with
  | (s, none) => (s, false)
  | (s, some w) =>
    let p := prevTarget i w
    let n := nextTarget i w
    let s := match p with | none => s | some k => joinNext k n s
    let s := match n with | none => s | some k => joinPrev k p s
    match c with
    | none => (s, true)
    | some c => (s.setChain c ((s.chain c).without i p n), true)

/-- Concatenate: a whole bucket joins the tail of the due chain (R78). -/
def concatBucket (b : Nat) (s : State) : State :=
  let ch := s.chain (.bucket b)
  match ch.head with
  | none => s
  | some h =>
    let d := s.chain .due
    let s := match d.tail with | none => s | some t => joinPrev h (some t) (joinNext t (some h) s)
    let s := s.setChain .due
      { head := match d.head with | none => some h | some x => some x, tail := ch.tail, count := d.count + ch.count }
    s.setChain (.bucket b) {}

/-- The filing rule (R77). -/
def fileRow (i : Nat) (deadline : Nat) (s : State) : State :=
  match s.holds.sweep with
  | some p => if p < (deadline : Int) then appendRow (.bucket (deadline % Config.buckets)) i s else appendRow .due i s
  | none => appendRow .due i s

/-! ### The hand list (R77) -/

/-- The entries of a kind that name a row leave the hand list. -/
def dropHand (k : HandKind) (i : Nat) (s : State) : State :=
  s.setHolds { s.holds with hand := s.holds.hand.filter (fun h => !(decide (h.kind = k) && decide (h.hold = i))) }

/-- A row is named by an entry of the hand list. -/
def State.inHand (s : State) (i : Nat) : Bool := s.holds.hand.any (fun h => decide (h.hold = i))

/-- A row is named by a CLAIM entry (R79). -/
def State.isClaimed (s : State) (i : Nat) : Bool := s.holds.hand.any (fun h => decide (h.kind = .claim) && decide (h.hold = i))

/-! ### Searches (R79, R87) -/

/-- What a walk along a chain came to. -/
inductive Search where
  | found (i : Nat) (row : HoldRow)
  | exhausted
  | lost
  deriving DecidableEq, Repr

/-- The step from a row to the next of its chain. -/
def stepAlong (s : State) (i : Nat) : State × Option (Option Nat) :=
  match readLink s i with
  | (s, none) => (s, none)
  | (s, some w) => (s, some (nextTarget i w))

/-- The claim search: the first row from `cur` on that is not listed, not claimed and whose content reads (R79). THE MODEL'S CHOICE (log 54): the
link word of every row it passes is read, the tail's too. -/
def claimSearch : Nat → Option Nat → State → State × Search
  | 0, _, s => (s, .exhausted)
  | _ + 1, none, s => (s, .exhausted)
  | n + 1, some i, s =>
    let (s, row) := if s.isListed .hold i || s.isClaimed i then (s, none) else readHold s i
    match row with
    | some h => (s, .found i h)
    | none =>
      match stepAlong s i with
      | (s, none) => (s, .lost)
      | (s, some nxt) => claimSearch n nxt s

/-- The handout search: the first eligible row of the due chain from `cur` on (R87). THE MODEL'S CHOICE (log 54): as in the claim search, the tail's
link word is read. -/
def dueSearch : Nat → Option Nat → State → State × Search
  | 0, _, s => (s, .exhausted)
  | _ + 1, none, s => (s, .exhausted)
  | n + 1, some i, s =>
    let (s, row) := if s.inHand i || s.isListed .hold i then (s, none) else readHold s i
    match row.filter (fun h => !s.isListed .card h.card) with
    | some h => (s, .found i h)
    | none =>
      match stepAlong s i with
      | (s, none) => (s, .lost)
      | (s, some nxt) => dueSearch n nxt s

/-! ### A commit's writes of hold rows (R80 to R82, R88, R90) -/

/-- The content write of a hold operation, when it has one. A row that an OFFICE release or a CARD_STATUS CLOSE writes FREE leaves the
quarantine list with that write (R136). THE MODEL'S CHOICE (log 62): a row that joined the list after any other freeing commit had read it is written
FREE and stays listed, since R136's table names no other freeing. -/
def writeHoldContent (o : HoldOp) (s : State) : State :=
  match o with
  | .openRow i h => s.putHold i h
  | .renewRow i h => s.putHold i h
  | .freeRow i h unlist => if unlist then quarantineLeave .hold i (s.putHold i h) else s.putHold i h
  | .refile _ => s
  | .requeue _ => s

/-- A hold operation writes a row's content. -/
def HoldOp.writesContent : HoldOp → Bool
  | .openRow _ _ => true
  | .renewRow _ _ => true
  | .freeRow _ _ _ => true
  | .refile _ => false
  | .requeue _ => false

/-- The chain operations and hand-list removals of a hold operation, its content written; false when a link word is lost. -/
def moveHold (o : HoldOp) (s : State) : State × Bool :=
  match o with
  | .openRow i h =>
    match unlinkRow i (dropHand .claim i s) with
    | (s, false) => (s, false)
    | (s, true) => (fileRow i h.deadline s, true)
  | .renewRow i h =>
    match unlinkRow i s with
    | (s, false) => (s, false)
    | (s, true) => (dropHand .expiry i (fileRow i h.deadline s), true)
  | .freeRow i _ _ =>
    match unlinkRow i s with
    | (s, false) => (s, false)
    | (s, true) => (appendRow .free i (dropHand .expiry i s), true)
  | .refile i =>
    match unlinkRow i s with
    | (s, false) => (s, false)
    | (s, true) => (dropHand .expiry i (fileRow i (s.hold i).val.deadline s), true)
  | .requeue i =>
    match unlinkRow i s with
    | (s, false) => (s, false)
    | (s, true) => (dropHand .expiry i (appendRow .due i s), true)

/-- All of a commit's chain operations in order; false at the first that finds a lost link word. -/
def moveHolds : List HoldOp → State → State × Bool
  | [], s => (s, true)
  | o :: os, s =>
    match moveHold o s with
    | (s, false) => (s, false)
    | (s, true) => moveHolds os s

/-! ### The sweep and the clock steps (R84 to R86) -/

/-- The bucket of a minute index. -/
def bucketOf (m : Int) : Nat := (m % (Config.buckets : Int)).toNat

/-- One bucket move (R84); while the chain-damaged mark is set the position advances and no bucket moves (R138). -/
def sweepStep (s : State) : State :=
  match s.holds.sweep with
  | none => s
  | some p =>
    if p < (s.clock.now : Int) then
      let s := if s.header.damaged then s else concatBucket (bucketOf (p + 1)) s
      s.setHolds { s.holds with sweep := some (p + 1) }
    else s

/-- All 4096 buckets moved in one action, from the bucket after the sweep position and going round (R85). -/
def moveAllBuckets (p : Int) (s : State) : State :=
  (List.range Config.buckets).foldl (fun s k => concatBucket (bucketOf (p + 1 + k)) s) s

/-- The sweep's part in a step of the clock from `old` to the clock's new now (R85, R86); while the chain-damaged mark is set it moves
the position alone (R138, log 37). -/
def followStep (old : Nat) (s : State) : State :=
  match s.holds.sweep with
  | none => s
  | some p =>
    let now : Int := s.clock.now
    if (old : Int) < now then
      if (Config.buckets : Int) ≤ now - p then
        let s := if s.header.damaged then s else moveAllBuckets p s
        s.setHolds { s.holds with sweep := some now }
      else s
    else if now < (old : Int) then s.setHolds { s.holds with sweep := some (min p (now - 1)) }
    else s

/-- The first setting of the clock after power-on (R86). -/
def startSweep (s : State) : State := s.setHolds { s.holds with sweep := some (s.clock.now : Int) }

/-! ### Losing a link word, and the rebuild (R138) -/

/-- What a reset, or LINK_LOST, does to the work in flight (R128, R138): workers, locks, pool, ready queue, hand list and the
answers not yet written. THE MODEL'S CHOICE (log 57): at LINK_LOST a withdrawn answer not yet written goes too. -/
def dropWork (s : State) : State :=
  let s := s.setUnits {}
  let s := s.setLocks {}
  let s := s.setHolds { s.holds with hand := [] }
  s.setNotices { s.notices with answers := [] }

/-- The Journal Writer once the completing store writes of a reset, or of LINK_LOST, have ended (R173). -/
def dropJournal (s : State) : State :=
  s.setJournal { s.journal with queue := [], reserved := 0, next := none, retry := false }

/-- A lane at the LINK_LOST fault: tally, pending-answer count and hold timer kept (R138). -/
def LaneState.atLinkLost (l : LaneState) : LaneState :=
  { tally := l.tally, pendingAnswers := l.pendingAnswers, holdTimer := l.holdTimer }

/-- A table of lanes with each listed lane changed, in canonical form. -/
def mapLanes (f : LaneState → LaneState) : List (Nat × LaneState) → List (Nat × LaneState)
  | [] => []
  | (k, l) :: m => if f l = {} then mapLanes f m else (k, f l) :: mapLanes f m

/-- The LINK_LOST fault (R138): the chain-damaged mark is set, STORE raised, the work in flight met as at an engine reset,
and the engine enters FAULTED, raising ENGINE. THE MODEL'S CHOICE (log 58): the header's other fields are written as they were last written, without a
read of its copies. -/
def linkLost (s : State) : State :=
  let s := raiseCause .store (s.putHeader { s.header with damaged := true })
  let s := dropJournal (dropWork s)
  let s := s.setLanes { lane := mapLanes LaneState.atLinkLost s.lanes.lane, lastServed := none }
  let s := abandonPending s
  raiseCause .engine (s.setControl { s.control with engine := .faulted, fault := .linkLost })

/-- The placing of one hold row in the rebuild (R138). -/
def rebuildRow (s : State) (i : Nat) : State :=
  match readHold s i with
  | (s, none) => appendRow .free i s
  | (s, some h) => if h.isOpen then fileRow i h.deadline s else appendRow .free i s

/-- The rebuild of the hold chains from the rows' contents (R138). -/
def rebuildChains (s : State) : State :=
  let s := s.setHolds { s.holds with free := {}, due := {}, buckets := [] }
  let s := (List.range s.holdRows).foldl rebuildRow s
  s.putHeader { s.header with damaged := false }

end Sys2Proof.Machine
end

