-- ==== Sys2Proof/Machine/Layouts.lean ====
section
/-! DEFINITION. The byte layouts of what the part writes (spec/11): answer halves and trailers, journal entries, trail entries and
the two read-outs, the card image, the capability record. -/

namespace Sys2Proof.Machine

/-- A block filled up with 0 to a length (R188). -/
def padTo (n : Nat) (bs : List Byte) : List Byte := bs ++ zeroBytes (n - bs.length)

/-- Bytes of a block replaced from an offset. -/
def patch (bs : List Byte) (i : Nat) (v : List Byte) : List Byte := bs.take i ++ v ++ bs.drop (i + v.length)

/-- The stamp's five bytes: day, minute of day, second (11.3, 11.4, 11.5). -/
def Reading.bytes (r : Reading) : List Byte := leBytes 2 r.day ++ leBytes 2 r.minute ++ leBytes 1 r.second

/-! ### Trailers (R44, R160) -/

/-- The seven trailer item kinds (R160). -/
inductive ItemKind where
  | serviceStamp | movementNumber | programmeLabel | standing | triesLeft | holdRef | lotSummary
  deriving DecidableEq, Repr

/-- The item kinds in their fixed order (R160). -/
def itemOrder : List ItemKind :=
  [.serviceStamp, .movementNumber, .programmeLabel, .standing, .triesLeft, .holdRef, .lotSummary]

/-- The code of an item kind (11.1): its order. -/
def ItemKind.code : ItemKind → Nat
  | .serviceStamp => 1 | .movementNumber => 2 | .programmeLabel => 3 | .standing => 4 | .triesLeft => 5 | .holdRef => 6
  | .lotSummary => 7

/-- The item kinds a lane's embed set names, in their fixed order: bit k - 1 names the item of order k (11.2, R160). -/
def chosenItems (embed : BitVec 8) : List ItemKind := itemOrder.filter (fun k => embed.getLsbD (k.code - 1))

/-- The values of an answer's trailer items, the service stamp apart; absent where the item does not apply (R44, R28, R101). -/
structure Items where
  movement : Option Nat := none
  label : Option (Nat × Nat) := none
  standing : Option (Nat × Nat) := none
  triesLeft : Option Nat := none
  hold : Option (Nat × Nat × Nat) := none
  lots : Option (Nat × Nat) := none
  deriving DecidableEq, Repr

/-- The 8-byte value of an item (11.3); none when it is absent. The service stamp is filled in at the answer write. -/
def Items.value (t : Items) : ItemKind → Option (List Byte)
  | .serviceStamp => some (zeroBytes 8)
  | .movementNumber => t.movement.map (fun n => padTo 8 (leBytes 6 n))
  | .programmeLabel => t.label.map (fun p => padTo 8 (leBytes 2 p.1 ++ leBytes 1 p.2))
  | .standing => t.standing.map (fun p => padTo 8 (leBytes 1 p.1 ++ leBytes 1 p.2))
  | .triesLeft => t.triesLeft.map (fun n => padTo 8 (leBytes 1 n))
  | .holdRef => t.hold.map (fun h => leBytes 8 (h.2.2 + 2 ^ 27 * h.2.1 + 2 ^ 35 * h.1))
  | .lotSummary => t.lots.map (fun p => padTo 8 (leBytes 2 p.1 ++ leBytes 4 p.2))

/-- The kind-map byte of a chosen item: its code, with 80h when absent (11.3). -/
def Items.mapByte (t : Items) (k : ItemKind) : Byte :=
  BitVec.ofNat 8 (k.code + (if (t.value k).isSome then 0 else 0x80))

/-- The trailer of a lane's answers: the kind map of four bytes and the four places of 8 bytes (R160, 11.3). -/
def trailer (embed : BitVec 8) (t : Items) : List Byte × List Byte :=
  let ks := (chosenItems embed).take 4
  (ks.map t.mapByte ++ List.replicate (4 - ks.length) 0x80,
   ks.flatMap (fun k => (t.value k).getD (zeroBytes 8)) ++ zeroBytes (8 * (4 - ks.length)))

/-! ### Answer halves (R42, 11.3) -/

/-- The fields of an answer half (R42). -/
structure Answer where
  result : Result
  reason : Reason
  flags : AnswerFlags
  approved : Nat
  available : Option Nat
  held : Option Nat
  bonus : Nat
  ref : Option HoldRef
  items : Items
  deriving DecidableEq, Repr

/-- The 64 bytes of an answer half (11.3). -/
def Answer.bytes (embed : BitVec 8) (a : Answer) : List Byte :=
  let t := trailer embed a.items
  leBytes 1 a.result.code ++ leBytes 1 a.reason.code ++ leBytes 2 a.flags.bits ++ leBytes 4 a.approved ++
    optBytes 4 a.available ++ optBytes 4 a.held ++ leBytes 4 a.bonus ++ optBytes 4 (a.ref.map (·.index)) ++
    leBytes 1 ((a.ref.map (·.gen)).getD 0) ++ zeroBytes 3 ++ t.1 ++ t.2

/-- The place of the SERVICE_STAMP item in a lane's answer halves: the first, when the embed set names it (R160). -/
def stampChosen (embed : BitVec 8) : Bool := embed.getLsbD 0

/-- An answer half as it is written: the stamp of the answer write filled in (R174), WITHDRAW_LATE joined (R156). -/
def sealHalf (embed : BitVec 8) (now : Reading) (late : Bool) (half : List Byte) : List Byte :=
  let h := if stampChosen embed then patch half 32 (padTo 8 now.bytes) else half
  if late then patch h 2 (leBytes 2 (fieldAt h 2 2 ||| 0x20)) else h

/-- The answer half of a withdrawn take (R155). -/
def withdrawnAnswer : Answer :=
  { result := .withdrawn, reason := .none, flags := {}, approved := 0, available := none, held := none, bonus := 0,
    ref := none, items := {} }

/-! ### Journal entries (11.5) -/

/-- The 64 bytes of a journal entry (11.5). -/
def JournalEntry.bytes (e : JournalEntry) : List Byte :=
  leBytes 6 e.number ++ leBytes 6 e.prior ++ leBytes 1 e.kind.code ++ leBytes 1 e.programme ++ e.stamp.bytes ++
    optBytes 1 (e.source.map (·.1)) ++ optBytes 2 (e.source.map (·.2)) ++ optBytes 2 (e.till.map (·.1)) ++
    leBytes 2 ((e.till.map (·.2)).getD 0) ++ zeroBytes 2 ++ leBytes 4 e.cardRow ++ leBytes 4 e.balanceAfter ++
    leBytes 4 e.heldAfter ++ padTo 24 ((e.words.take 6).flatMap (leBytes 4))

/-! ### The commit trail read-out (11.4, R143) -/

/-- The answer half copy of a trail entry: its SERVICE_STAMP place holds a free value (log 17). -/
def TrailEntry.answerCopy (embed : BitVec 8) (serial : Nat) (half : List Byte) : List Byte :=
  if stampChosen embed then patch half 32 ((List.range 5).map (fun i => Config.trailStampByte serial i)) else half

/-- The 512 bytes of a written trail entry (11.4). -/
def TrailEntry.bytes (e : TrailEntry) : List Byte :=
  let es := (e.entries.take 3).flatMap JournalEntry.bytes
  let head := leBytes 8 e.serial ++ leBytes 1 e.work ++ optBytes 1 (e.source.map (·.1)) ++ optBytes 2 (e.source.map (·.2)) ++
    optBytes 2 e.till ++ zeroBytes 2 ++ optBytes 4 e.card ++ optBytes 4 e.hold ++
    leBytes 1 (bitAt e.wroteTill 0 + bitAt e.wroteCard 1 + bitAt e.wroteHolds 2) ++ leBytes 1 e.entries.length ++ zeroBytes 2 ++
    e.stamp.bytes ++ zeroBytes 7 ++ leBytes 6 e.first ++ zeroBytes 2 ++
    padTo 8 (leBytes 1 e.journalStatus.code) ++ padTo 8 (leBytes 1 e.answerStatus.code)
  padTo 512 (head ++ padTo 192 es ++ padTo 64 e.answer)

/-- The 512 bytes given for an entry read uncorrectable: serial 0, both statuses UNREADABLE, the rest 0 (R143). -/
def unreadableEntryBytes : List Byte := padTo 512 (zeroBytes 48 ++ padTo 8 [4] ++ padTo 8 [4])

/-- Reading an entry finds an uncorrectable word among its 64, its status words with them (R132, R142). -/
def TrailCell.unreadable (c : TrailCell) : Bool := decide (c.ecc.outcome = .uncorrectable)

/-- Reading an entry finds a corrected word and none uncorrectable (R132). -/
def TrailCell.correctedRead (c : TrailCell) : Bool := decide (c.ecc.outcome = .corrected)

/-- The bytes of a trail place in the read-out (R143); an entry never written is zero. -/
def TrailCell.bytes (c : TrailCell) : List Byte :=
  if c.unreadable then unreadableEntryBytes else if c.entry.serial = 0 then zeroBytes 512 else c.entry.bytes

/-! ### The quarantine read-out (11.4, R144) -/

/-- The 16 bytes of a quarantine place. -/
def Listed.bytes (q : Listed) : List Byte :=
  padTo 16 (leBytes 1 q.kind.code ++ zeroBytes 3 ++ leBytes 4 q.index ++ optBytes 4 q.listedAt)

/-- The 1,040 bytes of the quarantine read-out (R144). -/
def quarantineBytes (l : List Listed) (overflow : Bool) : List Byte :=
  padTo 1040 (padTo 16 (leBytes 1 l.length ++ leBytes 1 (bitAt overflow 0)) ++ l.flatMap Listed.bytes)

/-! ### The card image (11.4) and the capability record (R184) -/

/-- The 8 bytes of a lot place of a card image. -/
def Lot.bytes (l : Lot) : List Byte :=
  leBytes 1 (if l.isBonus then 2 else 1) ++ zeroBytes 1 ++ leBytes 2 (l.expiry.getD 0) ++ leBytes 4 l.amount

/-- The 12 bytes of a reference place of a card image. -/
def CardRef.bytes (r : CardRef) : List Byte := leBytes 4 r.index ++ leBytes 1 r.gen ++ zeroBytes 3 ++ leBytes 4 r.amount

/-- The 128 bytes of a card image (11.4). -/
def CardRow.image (c : CardRow) : List Byte :=
  leBytes 1 c.state.code ++ leBytes 1 c.programme ++ codeBytes c.code ++ leBytes 1 c.tries ++ leBytes 1 c.lots.length ++
    leBytes 1 c.refs.length ++ leBytes 1 c.windowCount ++ leBytes 4 c.windowIndex ++ leBytes 6 c.lastMovement ++ zeroBytes 2 ++
    leBytes 4 c.held ++ padTo 48 (c.lots.flatMap Lot.bytes) ++ padTo 48 (c.refs.flatMap CardRef.bytes) ++
    optBytes 4 c.activationDay ++ optBytes 4 c.lastUseDay

/-- The 18 bytes of the capability record for a partition (R184). -/
def capabilityBytes (p : Nat) : List Byte :=
  leBytes 4 (Config.cardRows p) ++ leBytes 4 (Config.holdRows p) ++ leBytes 4 Config.tills ++ leBytes 1 Config.lanes ++
    leBytes 1 Config.workers ++ leBytes 1 Config.quarantineCapacity ++ leBytes 1 Config.lotCapacity ++
    leBytes 1 Config.refCapacity ++ leBytes 1 1

end Sys2Proof.Machine
end

