-- ==== Sys2Proof/Machine/Lanes.lean ====
section
/-! DEFINITION. The Lane Scanner's looks and modes (spec/08, R146 to R151, R158) and the gathering of answers into notices
(R161). -/

namespace Sys2Proof.Machine

/-- The entry of a lane of the lane table in force; none at or above the lane count (R146). -/
def State.laneEntry (s : State) (n : Nat) : Option LaneEntry :=
  if n < s.dir.laneCount then s.dir.lanes[n]? else none

/-- The state of a lane (R148). -/
def State.laneState (s : State) (n : Nat) : LaneState := Sparse.get {} s.lanes.lane n

/-- A lane's state replaced. -/
def State.setLaneState (s : State) (n : Nat) (l : LaneState) : State :=
  s.setLanes { s.lanes with lane := Sparse.set {} s.lanes.lane n l }

/-- The slot state code POSTED (11.1). -/
def slotPosted : Byte := 1
/-- The slot state code TAKEN (11.1). -/
def slotTaken : Byte := 2
/-- The slot state code ANSWERED (11.1). -/
def slotAnswered : Byte := 3

/-- A look finds the slot at the scan position POSTED; a failed link read finds it not POSTED (R150). -/
def slotIsPosted (s : State) (e : LaneEntry) (n : Nat) : Bool := decide (linkRead s (e.slotAddr n) 1 = some [slotPosted])

/-- A look (R150, R151): in RUNNING, on an OPEN lane. It sets or clears the ready mark and restarts the lane's timer. -/
def look (n : Nat) (s : State) : State :=
  match s.laneEntry n with
  | none => s
  | some e =>
    let l := s.laneState n
    if s.control.engine = .running ∧ l.isOpen = true then
      s.setLaneState n { l with ready := slotIsPosted s e l.scan, lookTimer := some e.lookInterval }
    else s

/-- Every lane of the table is looked at (R151). -/
def lookAll (s : State) : State := (List.range s.dir.laneCount).foldl (fun s n => look n s) s

/-- The mode of a lane set by LANE_MODE (R158). -/
def setLaneMode (n : Nat) (isOpen : Bool) (s : State) : State :=
  let l := s.laneState n
  if isOpen then look n (s.setLaneState n { l with isOpen := true })
  else s.setLaneState n { l with isOpen := false, ready := false, lookTimer := none }

/-- The scan position after a take: wraps within the lane (R154). -/
def nextScan (e : LaneEntry) (n : Nat) : Nat := if n + 1 < e.slotCount then n + 1 else 0

/-- The lane's notice accounting for one answer written (R161). -/
def gatherAnswer (n : Nat) (e : LaneEntry) (s : State) : State :=
  let l := s.laneState n
  let c := l.pendingAnswers + 1
  if e.threshold ≤ c then
    raiseCause .answers (s.setLaneState n { l with pendingAnswers := 0, holdTimer := none })
  else if c = 1 then s.setLaneState n { l with pendingAnswers := c, holdTimer := some e.holdTime }
  else s.setLaneState n { l with pendingAnswers := c }

end Sys2Proof.Machine
end

