-- ==== Sys2Proof/Machine/Tills.lean ====
section
/-! DEFINITION. Till rows (spec/05): standing and score, the standing gate, barred recovery, and the recent list (R94 to R112). -/

namespace Sys2Proof.Machine

/-- A till's standing, from its score and its barred mark (R98). -/
def standingOf (barred : Bool) (score : Nat) : Standing :=
  if barred then .barred else if score < 96 then .good else if score < 128 then .watched else .restricted

/-- A till row with a score and barred mark, its standing rewritten (R98). -/
def TillRow.setScore (t : TillRow) (barred : Bool) (score : Nat) : TillRow :=
  { t with barred := barred, score := score, standing := standingOf barred score }

/-- The card faults (R99). -/
def Reason.isCardFault : Reason → Bool
  | .malformed | .checkDigit | .noProgramme | .unknownCard | .notActive | .locked | .wrongCode => true
  | _ => false

/-- A card fault adds 8; above 255 the till is barred (R99). -/
def TillRow.addFault (t : TillRow) : TillRow :=
  if t.barred then t else if 255 < t.score + 8 then t.setScore true 255 else t.setScore false (t.score + 8)

/-- An approval takes 1 away, stopping at 0; a barred score stays (R99). -/
def TillRow.takeApproval (t : TillRow) : TillRow := if t.barred then t else t.setScore false (t.score - 1)

/-- The score change of an answer (R99); a repeat answer of step 5 changes none. -/
def TillRow.scored (t : TillRow) (result : Result) (reason : Reason) (isRepeatAnswer : Bool) : TillRow :=
  if isRepeatAnswer then t
  else match result with
    | .declined => if reason.isCardFault then t.addFault else t
    | .approved => t.takeApproval
    | .partly => t.takeApproval
    | .withdrawn => t

/-- Step 3: the row is registered and its till id is the request's (R95). -/
def TillRow.admits (t : TillRow) (r : Req) : Bool :=
  t.registered && decide (t.storeNo = r.storeNo) && decide (t.tillNo = r.tillNo)

/-- The barred-recovery test at a till reading (R103): recovery mode 1 is QUIET. -/
def TillRow.recovered (t : TillRow) (recovery now : Nat) : TillRow :=
  if recovery = 1 ∧ t.barred = true then
    match t.lastMinute with
    | none => t.setScore false 0
    | some m => if m + Config.recoveryMinutes ≤ now then t.setScore false 0 else t
  else t

/-- The working copy after the second reading: the recovery test, then the last request minute (R95, R103). -/
def TillRow.atSecondReading (t : TillRow) (recovery now : Nat) : TillRow :=
  { t.recovered recovery now with lastMinute := some now }

/-- Step 6: the standing gate (R100); none admits. -/
def standingGate (k : RequestKind) (st : Standing) : Option Reason :=
  match st with
  | .good => none
  | .watched => none
  | .restricted => match k with | .balance | .holdCancel | .reverse => none | _ => some .tillRestricted
  | .barred => match k with | .reverse => none | _ => some .tillBarred

/-- The entry of a sequence in a recent list (R107, R110). -/
def findRecent (seq : Nat) (l : List RecentEntry) : Option RecentEntry := l.find? (fun e => decide (e.seq = seq))

/-- What step 5 finds (R107). -/
inductive RecentCheck where
  | goOn
  | isRepeat (e : RecentEntry)
  | decline (r : Reason)
  deriving DecidableEq, Repr

/-- What the repeat test compares: the amount, or for REVERSE the target sequence (R105, R107). -/
def comparedAmount (k : RequestKind) (r : Req) : Nat := if k = .reverse then r.target else r.amount

/-- Step 5: the recent-list check (R107). -/
def recentCheck (k : RequestKind) (r : Req) (l : List RecentEntry) : RecentCheck :=
  match findRecent r.seq l with
  | none => .goOn
  | some e =>
    if e.state ≠ .reversedAhead ∧ e.kind = some k ∧ e.digits = r.digits ∧ e.requested = some (comparedAmount k r) then .isRepeat e
    else if e.state = .reversedAhead ∧ k ≠ .reverse then .decline .alreadyReversed
    else .decline .sequenceClash

/-- An entry added as the newest; at 8 entries the oldest is overwritten (R106). -/
def addRecent (e : RecentEntry) (l : List RecentEntry) : List RecentEntry :=
  if l.length < Config.recentCapacity then l ++ [e] else l.drop (l.length + 1 - Config.recentCapacity) ++ [e]

/-- The entry of a sequence becomes REVERSED (R65, R110). -/
def markReversed (seq : Nat) (l : List RecentEntry) : List RecentEntry :=
  l.map (fun e => if e.seq = seq then { e with state := .reversed } else e)

/-- The BONUS draw parts' sum, which a repeat of ACTIVATE, LOAD or REVERSE gives as bonus granted (R108). -/
def repeatedBonus (e : RecentEntry) : Nat :=
  match e.kind with
  | some .activate | some .load | some .reverse => ((e.parts.filter (fun p => p.expiry.isSome)).map (·.amount)).sum
  | _ => 0

/-- A commit raises the TILL cause (R102): the standing entered WATCHED from GOOD, or the barred mark was set. -/
def tillCause (before after : TillRow) : Bool :=
  (decide (before.standing = .good) && decide (after.standing = .watched)) || (!before.barred && after.barred)

end Sys2Proof.Machine
end

