-- ==== Sys2Proof/Machine/Commit.lean ====
section
/-! DEFINITION. The commit sequence (spec/06, R123 to R126): the checks and changes made in the action of the commit point (R33, R34,
R157, R177), movement numbers and trail entry (R142, R168), the store writes, the handover of journal entries and answer. -/

namespace Sys2Proof.Machine

/-! ### What a piece of work is -/

/-- The fields of a request's half; those of an empty half for an expiry job. -/
def Work.req (k : Work) : Req :=
  match k.task with
  | .request _ _ _ half => Req.ofBytes half
  | .expiry _ _ _ => Req.ofBytes []

/-- The request kind of a piece of work; none for an expiry job or a kind code that names none. -/
def Work.kind? (k : Work) : Option RequestKind :=
  match k.task with
  | .request _ _ _ half => (Req.ofBytes half).kind?
  | .expiry _ _ _ => none

/-- The request stands on an OFFICE lane (R38 step 2). -/
def Work.onOfficeLane (k : Work) : Bool :=
  match k.task with
  | .request _ _ e _ => e.isOffice
  | .expiry _ _ _ => false

/-- A plan that declines with a reason: approved amount and bonus are 0 (R42). -/
def Plan.decline (p : Plan) (r : Reason) : Plan := { p with result := .declined, reason := r, approved := 0, bonus := 0 }

/-! ### Movement numbers (R168, R131) -/

/-- The movement number after one: after 2^48 - 1 comes 1 (R168). -/
def nextMovement (n : Nat) : Nat := if Config.maxMovement ≤ n then 1 else n + 1

/-- The number `k` places after one. -/
def movementAfter (n : Nat) : Nat → Nat
  | 0 => n
  | k + 1 => movementAfter (nextMovement n) k

/-- `b` is later than `a` in numbering order: reached by going forward fewer than 2^47 numbers (R131). -/
def movementLater (a b : Nat) : Bool :=
  let d := (b + Config.maxMovement - a) % Config.maxMovement
  decide (0 < d) && decide (d < 2 ^ 47)

/-- The header's next movement number raised to a figure; it keeps a later one (R131). THE MODEL'S CHOICE (log 58): the figure it is compared with
and the other fields are those last written, without a read of the copies, also where both have become uncorrectable. -/
def raiseHeader (n : Nat) (s : State) : State :=
  s.putHeader { s.header with next := if movementLater n s.header.next then s.header.next else n }

/-- The entries a commit hands, in the order of R45. -/
def Plan.entries (p : Plan) : List (JournalKind × List Nat) :=
  (if p.lapsed = 0 then [] else [(.lapse, [p.lapsed])]) ++
  (match p.status with | none => [] | some (a, b) => [(.status, [a.code, b.code])]) ++ p.own

/-- What all entries of one commit share (R166). -/
structure EntryCommon where
  stamp : Reading
  programme : Nat
  source : Option (Nat × Nat)
  till : Option (Nat × Nat)
  cardRow : Nat
  balanceAfter : Nat
  heldAfter : Nat
  deriving DecidableEq, Repr

/-- Entries numbered one after the other, each carrying the card's last movement number before it (R19, R168). -/
def numberEntries (c : EntryCommon) : List (JournalKind × List Nat) → Nat → Nat → List JournalEntry
  | [], _, _ => []
  | (k, ws) :: r, n, prior =>
    { number := n, prior := prior, kind := k, programme := c.programme, stamp := c.stamp, source := c.source, till := c.till,
      cardRow := c.cardRow, balanceAfter := c.balanceAfter, heldAfter := c.heldAfter, words := ws } ::
      numberEntries c r (nextMovement n) n

/-! ### Checks and changes at the commit point (R124) -/

/-- Two row ranges overlap (R29). -/
def rangesOverlap (b1 n1 b2 n2 : Nat) : Bool := decide (b1 < b2 + n2) && decide (b2 < b1 + n1)

/-- The checks of a PROGRAMME_WRITE in their order (R34). -/
def programmeAccepted (s : State) (n : Nat) (rec_ : List Byte) : Option Programme :=
  match programmeOfBytes rec_ with
  | none => none
  | some p =>
    if n < 16 ∧ p.rangesOk = true then
      if p.enabled then
        if 1 ≤ p.rowCount ∧ p.rowBase + p.rowCount ≤ s.cardRows ∧
            (List.range 16).all (fun k =>
              let q : Programme := Sparse.get {} s.tables.programmes k
              decide (k = n) || !q.enabled || !rangesOverlap p.rowBase p.rowCount q.rowBase q.rowCount) = true then some p
        else none
      else some p
    else none

/-- The checks of a RULE_WRITE (R33). -/
def ruleAccepted (index enabled programme kinds : Nat) : Bool :=
  decide (index < 64) && decide (enabled ≤ 1) && decide (programme ≤ 15) && decide (kinds < 512)

/-- The size of a clock step in minutes, either way (R177). -/
def stepSize (a b : Nat) : Nat := if a ≤ b then b - a else a - b

/-- The action of the commit point: checks and change in one (R33, R34, R157, R158, R177). -/
def commitAction (p : Plan) (s : State) : State × Plan :=
  match p.action with
  | .nothing => (s, p)
  | .ruleWrite i en ds mask pr ks lb =>
    if ruleAccepted i en pr ks then
      let r : Rule :=
        { enabled := decide (en = 1), digits := ds, mask := mask, programme := pr, kinds := BitVec.ofNat 9 ks, label := lb }
      (s.setTables { s.tables with rules := Sparse.set {} s.tables.rules i r }, p)
    else (s, p.decline .outOfRange)
  | .programmeWrite n rec_ =>
    match programmeAccepted s n rec_ with
    | some r => (s.setTables { s.tables with programmes := Sparse.set {} s.tables.programmes n r }, p)
    | none => (s, p.decline .outOfRange)
  | .laneMode n o => if n < s.dir.laneCount then (setLaneMode n o s, p) else (s, p.decline .outOfRange)
  | .clockSet d m sec =>
    let old := s.clock.now
    let new := d.val * Config.minutesPerDay + m.val
    if stepSize old new ≤ 120 then
      (followStep old (s.setClock { s.clock with day := d.val, minute := m.val, second := sec.val, tick := 0, phase := 0 }), p)
    else (s, p.decline .clockStep)

/-! ### The till row and the answer as the commit leaves them -/

/-- The request's own recent-list entry (R105, R106, R111). -/
def ownEntry (r : Req) (k : RequestKind) (p : Plan) (row movement : Option Nat) : RecentEntry :=
  { seq := r.seq, state := .answered, kind := some k, digits := r.digits, cardRow := row,
    requested := some (comparedAmount k r), result := some p.result, reason := some p.reason, approved := some p.approved,
    flags := { p.flags with tillWatched := false, withdrawLate := false }, movement := movement, ref := p.ref, parts := p.parts }

/-- The recent list as the commit leaves it (R106, R110). -/
def commitRecent (r : Req) (k : RequestKind) (p : Plan) (row movement : Option Nat) (l : List RecentEntry) : List RecentEntry :=
  let l := match p.reversedSeq with | none => l | some q => markReversed q l
  let l := match p.ahead with | none => l | some e => addRecent e l
  if p.adds then addRecent (ownEntry r k p row movement) l else l

/-- The till row a commit writes: a till request's working copy scored and with its entry (R99, R106), or the row that
TILL_WRITE or TILL_RELEASE built. -/
def commitTill (k : Work) (p : Plan) (movement : Option Nat) : Option TillRow :=
  match k.till with
  | none => p.tillNew
  | some t =>
    let t := t.scored p.result p.reason p.repeated.isSome
    match k.kind? with
    | some kind => some { t with recent := commitRecent k.req kind p k.rowIndex movement t.recent }
    | none => some t

/-- The answer a worker builds (R42 to R44, R101). `t` is the till row after the commit of a request that passed its second
reading. -/
def commitAnswer (k : Work) (p : Plan) (movement : Option Nat) (t : Option TillRow) : Answer :=
  let fig := if p.seen then p.card else none
  { result := p.result
    reason := p.reason
    flags := { p.flags with tillWatched := match t with | some r => decide (r.standing = .watched) | none => false }
    approved := p.approved
    available := fig.map (available p.today)
    held := fig.map (·.held)
    bonus := p.bonus
    ref := p.ref
    items :=
      { movement := match p.repeated with | some e => e.movement | none => movement
        label := k.selection.map (fun c => (c.rule.label, c.programmeNo))
        standing := t.map (fun r => (r.standing.code, r.score))
        triesLeft := match fig, k.selection with
          | some c, some sel => if c.code.isSome then some (sel.programme.triesLimit - c.tries) else none
          | _, _ => none
        hold := p.holdItem
        lots := fig.bind (fun c => lotSummary p.today c.lots) } }

/-- The lane's embed set of a request. -/
def Work.embed (k : Work) : BitVec 8 := match k.task with | .request _ _ e _ => e.embed | .expiry _ _ _ => 0

/-- Lane and slot of a request (R141, R166). -/
def Work.source (k : Work) : Option (Nat × Nat) :=
  match k.task with | .request l n _ _ => some (l, n) | .expiry _ _ _ => none

/-- The trail's work code (R141). THE MODEL'S CHOICE (log 49): of a request whose kind code names no request kind, that code as it stands. -/
def Work.workCode (k : Work) : Nat := match k.task with | .request _ _ _ _ => k.req.kind | .expiry _ _ _ => expiryWorkCode

/-- The work is a request, and so owes an answer. -/
def Work.isRequest (k : Work) : Bool := match k.task with | .request _ _ _ _ => true | .expiry _ _ _ => false

/-- Till index and sequence of an entry (R166): the till a till kind came from, or the one that opened an expired hold. -/
def entryTill (k : Work) (p : Plan) : Option (Nat × Nat) :=
  match k.kind? with
  | some kind => if kind.isTill then some (k.req.tillIndex, k.req.seq) else none
  | none => p.openedBy

/-! ### Steps 1 to 4 of the sequence -/

/-- What the commit point has fixed: the plan with its checks made, the numbered entries, the card row, the till row and
the answer half. -/
structure Sealed where
  plan : Plan
  stamp : Reading
  entries : List JournalEntry
  card : Option CardRow
  till : Option TillRow
  half : List Byte
  deriving DecidableEq, Repr

/-- The card row is one the store-write step writes: it differs from the row as read (R2). -/
def Sealed.writesCard (x : Sealed) : Bool := x.card.isSome && !decide (x.card = x.plan.cardRead)

/-- The journal entries, rows and answer of a commit, for a plan whose checks are made (R19, R42, R45, R168). -/
def sealPlan (k : Work) (p : Plan) (stamp : Reading) (first : Nat) : Sealed :=
  let c := p.card.getD {}
  let entries := numberEntries
    { stamp := stamp, programme := c.programme, source := k.source, till := entryTill k p, cardRow := k.cardLock.getD 0,
      balanceAfter := balance p.today c.lots, heldAfter := c.held } p.entries first c.lastMovement
  let movement := entries.getLast?.map (·.number)
  let till := commitTill k p movement
  let answer := commitAnswer k p movement (if k.till.isSome then till else none)
  { plan := p, stamp := stamp, entries := entries,
    card := p.card.map (fun c => match movement with | none => c | some n => { c with lastMovement := n }),
    till := till, half := if k.isRequest then answer.bytes k.embed else [] }

/-- The trail entry of a commit (R141, R142). A till row that TILL_RELEASE leaves as it was counts as written (log 48), and so does a card row
whose ROW_WRITE image equals it (log 43). -/
def Sealed.trailEntry (x : Sealed) (k : Work) (serial : Nat) : TrailEntry :=
  { serial := serial, work := k.workCode, source := k.source, till := k.tillLock, card := k.cardLock, hold := x.plan.holdIndex,
    wroteTill := x.till.isSome, wroteCard := x.writesCard, wroteHolds := x.plan.holdOps.any HoldOp.writesContent,
    stamp := x.stamp, first := (x.entries.head?.map (·.number)).getD 0, entries := x.entries,
    answer := if k.isRequest then TrailEntry.answerCopy k.embed serial x.half else [],
    journalStatus := if x.entries.isEmpty then .none else .pending,
    answerStatus := if k.isRequest then .pending else .none }

/-- The trail entry written at the write place, serial and place moved on (R142). -/
def writeTrail (x : Sealed) (k : Work) (s : State) : State :=
  let e := x.trailEntry k s.store.trailSerial
  s.setStore { s.store with
    trail := Sparse.set {} s.store.trail s.store.trailPlace { entry := e }
    trailStatus := Sparse.set {} s.store.trailStatus s.store.trailPlace { journal := e.journalStatus, answer := e.answerStatus }
    trailSerial := s.store.trailSerial + 1
    trailPlace := (s.store.trailPlace + 1) % Config.trailEntries }

/-- The row writes of step 2 (R124): till row, card row, the header's next movement number, hold row contents, and the rows
that leave the quarantine list (R136). THE MODEL'S CHOICE (log 48): a TILL_RELEASE that leaves the row as it was read writes it all the
same. -/
def writeRows (x : Sealed) (k : Work) (s : State) : State :=
  let s := match x.till, k.tillLock with | some t, some i => s.putTill i t | _, _ => s
  let s := match x.card, k.cardLock with | some c, some i => if x.writesCard then s.putCard i c else s | _, _ => s
  let s := match x.entries.getLast? with | none => s | some e => raiseHeader (nextMovement e.number) s
  let s := x.plan.holdOps.foldl (fun s o => writeHoldContent o s) s
  x.plan.leaves.foldl (fun s q => quarantineLeave q.1 q.2 s) s

/-- The entries of a commit as they join the append queue; the last carries the trail place (R169). -/
def queued (place : Nat) : List JournalEntry → List Queued
  | [] => []
  | [e] => [{ entry := e, last := some place }]
  | e :: f :: r => { entry := e, last := none } :: queued place (f :: r)

/-- Step 3: the entries join the tail of the append queue (R169). -/
def handJournal (place : Nat) (es : List JournalEntry) (s : State) : State :=
  s.setJournal { s.journal with queue := s.journal.queue ++ queued place es }

/-- Step 5: the answer is handed to the Answer and Notice Unit, with the TILL cause of the commit (R102, R125). -/
def handAnswer (w place : Nat) (k : Work) (x : Sealed) (s : State) : State :=
  match k.task with
  | .expiry _ _ _ => s
  | .request lane slot e _ =>
    s.setNotices { s.notices with answers := s.notices.answers ++
      [{ lane := lane, slot := slot, entry := e, half := x.half,
         tillCause := (match k.tillRead, x.till with | some a, some b => k.till.isSome && tillCause a b | _, _ => false),
         worker := some w, trail := some place }] }

/-- The hand-list entries of a piece of work are removed at its store-write step, where they are still there (R80, R88). -/
def dropHandsOf (place : Nat) (s : State) : State :=
  s.setHolds { s.holds with hand := s.holds.hand.filter (fun h => !decide (h.place = place)) }

/-- Steps 3 to 5, and for an expiry job 6 and 7 (R123): what follows the store writes. -/
def afterStoreWrites (w place : Nat) (k : Work) (x : Sealed) (s : State) : State :=
  let s := releaseCard k.cardLock (handJournal place x.entries s)
  let k' := { k with room := k.room - x.entries.length, cardLock := none, phase := .answering }
  if k.isRequest then handAnswer w place k x (s.setWorker w (some k')) else finishWork w k' s

/-- The commit sequence from its commit point (R123, R124), the trail entry at the write place owing nothing. The stamp is the reading
before the commit point's action (log 40). A chain operation that finds a lost link word ends it in LINK_LOST, after the row writes
and the operations before it (R138, log 29). -/
def commitNow (w : Nat) (k : Work) (p : Plan) (s : State) : State :=
  let stamp := s.clock.reading
  let a := commitAction p s
  let s := a.1
  let first := s.journal.next.getD 1
  let x := sealPlan k a.2 stamp first
  let place := s.store.trailPlace
  let s := s.setJournal { s.journal with next := s.journal.next.map (fun n => movementAfter n x.entries.length) }
  let s := writeRows x k (writeTrail x k s)
  let m := moveHolds a.2.holdOps s
  if m.2 then afterStoreWrites w place k x (dropHandsOf k.place m.1) else linkLost m.1

/-- Before the commit point: a trail entry at the write place that is still owing is waited for, locks held (R142). -/
def commitWork (w : Nat) (k : Work) (p : Plan) (s : State) : State :=
  if s.trailOwing s.store.trailPlace then s.setWorker w (some { k with phase := .awaitTrail p }) else commitNow w k p s

/-- Before that, the entry of room of a BALANCE whose wrong code locked the card (R46). -/
def prepareCommit (w : Nat) (k : Work) (p : Plan) (s : State) : State :=
  if k.kind? = some .balance ∧ p.status.isSome = true then
    let a := askRoom 1 s
    if a.2 then commitWork w { k with room := k.room + 1 } p a.1
    else
      let s := a.1.setWorker w (some { k with phase := .awaitRoom p })
      s.setUnits { s.units with roomWaiters := s.units.roomWaiters ++ [w] }
  else commitWork w k p s

end Sys2Proof.Machine
end

