-- ==== Sys2Proof/Machine/TillKinds.lean ====
section
/-! DEFINITION. Step 16 of BALANCE, ACTIVATE, LOAD and REDEEM (spec/03, 3.3 to 3.5, R47 to R54). A step 16 takes the work and the
plan that steps 1 to 15 made, and answers the state and the plan to commit, or none for a lost link word (R138). -/

namespace Sys2Proof.Machine

/-- What a step 16 answers: the state, and the plan to commit; none when it found a lost link word (R138). -/
abbrev Sixteen := State × Option Plan

/-- The card's working copy. -/
def Plan.working (p : Plan) : CardRow := p.card.getD {}

/-- The programme record of the selection copy (R31). -/
def Work.terms (k : Work) : Programme := match k.selection with | none => {} | some sel => sel.programme

/-- Now of the card reading (R2). -/
def Work.now (k : Work) : Nat := (k.cardReading.getD {}).index

/-- The card row index (R30). -/
def Work.row (k : Work) : Nat := k.rowIndex.getD 0

/-- The plan with another working copy. -/
def Plan.withCard (p : Plan) (c : CardRow) : Plan := { p with card := some c }

/-! ### Bonus (R51, R52) -/

/-- The bonus due on an amount (R51 points 1 and 2). -/
def bonusDue (g : Programme) (a : Nat) : Nat :=
  if g.bonusRate = 0 ∨ a < g.bonusThreshold then 0 else min (a * g.bonusRate / 1000) g.bonusCap

/-- What placing the bonus came to (R52). -/
structure BonusOutcome where
  lots : List Lot
  granted : Nat
  expiry : Nat
  clamped : Bool
  withheld : Bool
  deriving DecidableEq, Repr

/-- The bonus of an amount `a` on a card of balance `bal` after the paid value was added, placed in its lots (R51, R52). -/
def placeBonus (g : Programme) (today a bal : Nat) (lots : List Lot) : BonusOutcome :=
  let due := bonusDue g a
  let headroom := g.cap - bal
  let bonus := min due headroom
  let e := expiryDay today g.bonusLife
  let clamped := decide (headroom < due)
  if bonus = 0 then { lots := lots, granted := 0, expiry := e, clamped := clamped, withheld := false }
  else
    match addBonus bonus e lots with
    | some ls => { lots := ls, granted := bonus, expiry := e, clamped := clamped, withheld := false }
    | none => { lots := lots, granted := 0, expiry := e, clamped := clamped, withheld := true }

/-- The end of an approved ACTIVATE or LOAD of amount `a`: `paid` is the lot list with the paid value added, `c` the working copy
with its state changes (R49, R50, R52). -/
def approveLoad (g : Programme) (kind : JournalKind) (a : Nat) (c : CardRow) (paid : List Lot) (p : Plan) : Plan :=
  let b := placeBonus g p.today a (balance p.today paid) paid
  { p.withCard (usedToday p.today { c with lots := b.lots }) with
    result := .approved, reason := .none, approved := a, bonus := b.granted
    flags := { p.flags with bonusClamped := b.clamped, bonusWithheld := b.withheld }
    own := (kind, [a]) :: (if b.granted = 0 then [] else [(.bonus, [b.granted, b.expiry])])
    parts := if b.granted = 0 then [] else [{ expiry := some b.expiry, amount := b.granted }] }

/-! ### The four kinds -/

/-- BALANCE (R47): no check; approved amount 0. -/
def balanceStep (_ : Work) (p : Plan) (s : State) : Sixteen := (s, some p)

/-- ACTIVATE (R48, R49). -/
def activateStep (k : Work) (p : Plan) (s : State) : Sixteen :=
  let g := k.terms
  let c := p.working
  let a := k.req.amount
  if c.state ≠ .issued then (s, some (p.decline .kindNotAllowed))
  else if a < g.activationMin then (s, some (p.decline .belowMinimum))
  else if g.cap < balance p.today c.lots + a then (s, some (p.decline .overLimit))
  else
    match addPaid a c.lots with
    | none => (s, some (p.decline .cardFull))
    | some paid => (s, some (approveLoad g .activate a { c with state := .active, activationDay := some p.today } paid p))

/-- LOAD (R50). -/
def loadStep (k : Work) (p : Plan) (s : State) : Sixteen :=
  let g := k.terms
  let c := p.working
  let a := k.req.amount
  if g.cap < balance p.today c.lots + a then (s, some (p.decline .overLimit))
  else
    match addPaid a c.lots with
    | none => (s, some (p.decline .cardFull))
    | some paid => (s, some (approveLoad g .load a c paid p))

/-- The end of a REDEEM that approves `d` of the requested `a` (R54). -/
def approveRedeem (a d : Nat) (p : Plan) : Plan :=
  let c := p.working
  let r := drawLots d c.lots
  { p.withCard (usedToday p.today (countApproval { c with lots := r.2 })) with
    result := if d < a then .partly else .approved, reason := .none, approved := d
    own := [(.redeem, [a, d])], parts := r.1 }

/-- REDEEM (R53, R54). -/
def redeemStep (k : Work) (p : Plan) (s : State) : Sixteen :=
  let g := k.terms
  let c := p.working
  let a := k.req.amount
  let av := available p.today c
  match k.selection with
  | none => (s, some (p.decline .noProgramme))
  | some sel =>
    if velocityReached sel c then (s, some (p.decline .velocity))
    else if a ≤ av then (s, some (approveRedeem a a p))
    else if g.partialAllowed ∧ 1 ≤ av then (s, some (approveRedeem a av p))
    else (s, some (p.decline .insufficient))

end Sys2Proof.Machine
end

