-- ==== Sys2Proof/Machine/HoldKinds.lean ====
section
/-! DEFINITION. Step 16 of HOLD_OPEN, HOLD_RENEW, HOLD_CLOSE and HOLD_CANCEL (spec/03, 3.6, R55 to R60; spec/04, R79 to R83). -/

namespace Sys2Proof.Machine

/-- The reference of a card row that a till's hold reference matches (R15). -/
def findRef (h : HoldRef) (c : CardRow) : Option CardRef :=
  c.refs.find? (fun r => decide (r.index = h.index) && decide (r.gen = h.gen))

/-- A card row without a reference, its amount taken from the held total (R15). -/
def dropRef (r : CardRef) (c : CardRow) : CardRow :=
  { c with refs := c.refs.filter (fun q => !(decide (q.index = r.index) && decide (q.gen = r.gen))), held := c.held - r.amount }

/-- A generation advanced by 1, wrapping from 255 to 0 (R75). -/
def nextGen (g : Nat) : Nat := (g + 1) % 256

/-- The content of a readable row freed (R82): state and generation are written; the other fields are not read while the row is
FREE (R74, log 26). -/
def freedRow (h : HoldRow) : HoldRow := { h with isOpen := false, gen := nextGen h.gen }

/-- The content of an unreadable row freed: built from its card reference (R82). -/
def freedFromRef (gen : Nat) : HoldRow := { gen := nextGen gen }

/-- A new deadline: now plus the hold life, lowered to the clock's last minute index (R80, R81). -/
def newDeadline (now life : Nat) : Nat := min (now + life) Config.lastMinuteIndex

/-- The reference as the answer carries it. -/
def CardRef.toRef (r : CardRef) : HoldRef := { index := r.index, gen := r.gen }

/-- What checks 1 to 3 of R55 came to. -/
inductive HoldFound where
  | noRef
  | unreadable (r : CardRef)
  | gone (r : CardRef) (h : HoldRow)
  | live (r : CardRef) (h : HoldRow)
  deriving DecidableEq, Repr

/-- Checks 1 to 3 of R55 for a reference, on a card's working copy. -/
def findHold (ref : HoldRef) (c : CardRow) (now : Nat) (s : State) : State × HoldFound :=
  match findRef ref c with
  | none => (s, .noRef)
  | some r =>
    match readHold s r.index with
    | (s, none) => (s, .unreadable r)
    | (s, some h) => (s, if h.deadline ≤ now then .gone r h else .live r h)

/-- The HOLD_REF item of a hold that stays as its row was read: present when it is OPEN (R44), absent when it
could not be read (log 18). -/
def heldItem (h : HoldRow) (r : CardRef) : Option (Nat × Nat × Nat) :=
  if h.isOpen then some (r.index, r.gen, h.deadline) else none

/-- A plan that carries a matched reference (R55), which is the trail's hold index (R141, log 41). -/
def Plan.matched (p : Plan) (r : CardRef) (item : Option (Nat × Nat × Nat)) : Plan :=
  { p with ref := some r.toRef, holdIndex := some r.index, holdItem := item }

/-! ### HOLD_OPEN (R56, R79, R80) -/

/-- The CLAIM entry enters the hand list (R79). -/
def handClaim (i gen place card : Nat) (s : State) : State :=
  s.setHolds { s.holds with hand := s.holds.hand ++ [{ kind := .claim, hold := i, gen := gen, card := card, place := place }] }

/-- The claim of check 4 of R56 (R79). -/
def claimRow (s : State) : State × Search :=
  if s.holds.free.count = 0 then (s, .exhausted) else claimSearch s.holds.free.count s.holds.free.head s

/-- The end of an approved HOLD_OPEN on the claimed row `i` of content `h` (R56, R80). -/
def approveOpen (k : Work) (p : Plan) (i : Nat) (h : HoldRow) : Plan :=
  let c := p.working
  let a := k.req.amount
  let d := newDeadline k.now k.terms.holdLife
  let row : HoldRow :=
    { isOpen := true, gen := h.gen, card := k.row, till := k.req.tillIndex, seq := k.req.seq, amount := a, deadline := d,
      renewals := 0 }
  { p.withCard (usedToday p.today (countApproval
      { c with refs := c.refs ++ [{ index := i, gen := h.gen, amount := a }], held := c.held + a })) with
    result := .approved, reason := .none, approved := a, ref := some { index := i, gen := h.gen }
    own := [(.holdOpen, [i, h.gen, a, d])], holdOps := [.openRow i row], holdIndex := some i, holdItem := some (i, h.gen, d) }

/-- HOLD_OPEN (R56). -/
def holdOpenStep (k : Work) (p : Plan) (s : State) : Sixteen :=
  let g := k.terms
  let c := p.working
  let a := k.req.amount
  match k.selection with
  | none => (s, some (p.decline .noProgramme))
  | some sel =>
    if velocityReached sel c then (s, some (p.decline .velocity))
    else if available p.today c < a then (s, some (p.decline .insufficient))
    else if g.holdsPerCard ≤ c.refs.length then (s, some (p.decline .holdLimit))
    else
      match claimRow s with
      | (s, .lost) => (s, none)
      | (s, .exhausted) => (s, some (p.decline .holdTableFull))
      | (s, .found i h) => (handClaim i h.gen k.place k.row s, some (approveOpen k p i h))

/-! ### HOLD_RENEW (R57, R81) -/

/-- The end of an approved HOLD_RENEW (R57, R81). THE MODEL'S CHOICE (log 52): the renewals used in its entry (R167) are the row's after the
rise. -/
def approveRenew (k : Work) (p : Plan) (r : CardRef) (h : HoldRow) : Plan :=
  let d := newDeadline k.now k.terms.holdLife
  let row := { h with deadline := d, renewals := h.renewals + 1 }
  { (p.matched r (some (r.index, r.gen, d))).withCard (usedToday p.today p.working) with
    result := .approved, reason := .none, approved := 0
    own := [(.holdRenew, [r.index, r.gen, d, h.renewals + 1])], holdOps := [.renewRow r.index row] }

/-- HOLD_RENEW (R55, R57). -/
def holdRenewStep (k : Work) (p : Plan) (s : State) : Sixteen :=
  match findHold k.req.hold p.working k.now s with
  | (s, .noRef) => (s, some (p.decline .noHold))
  | (s, .unreadable r) => (s, some ((p.matched r none).decline .cardUnreadable))
  | (s, .gone r h) => (s, some ((p.matched r (heldItem h r)).decline .holdGone))
  | (s, .live r h) =>
    if h.renewals < k.terms.renewalLimit then (s, some (approveRenew k p r h))
    else (s, some ((p.matched r (heldItem h r)).decline .renewLimit))

/-! ### HOLD_CLOSE (R58, R59) -/

/-- The tolerance limit L of a hold amount (R58). -/
def toleranceLimit (g : Programme) (amount : Nat) : Nat := amount + amount * g.tipTolerance / 100

/-- The funds of a capture, signed (R58). -/
def captureFunds (today : Nat) (c : CardRow) (amount : Nat) : Int := (balance today c.lots : Int) - c.held + amount

/-- The end of a HOLD_CLOSE that captures `d` of the final amount `f` (R59). -/
def approveClose (f d : Nat) (p : Plan) (r : CardRef) (h : HoldRow) : Plan :=
  let c := dropRef r p.working
  let x := drawLots d c.lots
  { (p.matched r none).withCard (usedToday p.today { c with lots := x.2 }) with
    result := if d < f then .partly else .approved, reason := .none, approved := d
    own := [(.capture, [r.index, r.gen, r.amount, d])], holdOps := [.freeRow r.index (freedRow h) false], parts := x.1 }

/-- HOLD_CLOSE (R55, R58). -/
def holdCloseStep (k : Work) (p : Plan) (s : State) : Sixteen :=
  let f := k.req.amount
  match findHold k.req.hold p.working k.now s with
  | (s, .noRef) => (s, some (p.decline .noHold))
  | (s, .unreadable r) => (s, some ((p.matched r none).decline .cardUnreadable))
  | (s, .gone r h) => (s, some ((p.matched r (heldItem h r)).decline .holdGone))
  | (s, .live r h) =>
    let funds := captureFunds p.today p.working r.amount
    if toleranceLimit k.terms r.amount < f then (s, some ((p.matched r (heldItem h r)).decline .overTolerance))
    else if (f : Int) ≤ funds then (s, some (approveClose f f p r h))
    else if k.terms.partialAllowed ∧ 1 ≤ funds then (s, some (approveClose f funds.toNat p r h))
    else (s, some ((p.matched r (heldItem h r)).decline .insufficient))

/-! ### HOLD_CANCEL (R60) -/

/-- The release of a hold by HOLD_CANCEL, its row freed with the content given (R60, R82). -/
def approveCancel (p : Plan) (r : CardRef) (row : HoldRow) (office : Bool) : Plan :=
  { (p.matched r none).withCard (usedToday p.today (dropRef r p.working)) with
    result := .approved, reason := .none, approved := r.amount
    own := [(.holdCancel, [r.index, r.gen, r.amount])], holdOps := [.freeRow r.index row office] }

/-- HOLD_CANCEL (R55, R60, R83). -/
def holdCancelStep (k : Work) (p : Plan) (s : State) : Sixteen :=
  match findHold k.req.hold p.working k.now s with
  | (s, .noRef) => (s, some (p.decline .noHold))
  | (s, .unreadable r) =>
    if k.onOfficeLane then (s, some (approveCancel p r (freedFromRef r.gen) true))
    else (s, some ((p.matched r none).decline .cardUnreadable))
  | (s, .gone r h) => (s, some ((p.matched r (heldItem h r)).decline .holdGone))
  | (s, .live r h) => (s, some (approveCancel p r (freedRow h) k.onOfficeLane))

end Sys2Proof.Machine
end

