-- ==== Sys2Proof/Machine/OfficeCard.lean ====
section
/-! DEFINITION. Step 16 of the office card kinds CARD_STATUS, BONUS_GRANT, ROW_READ and ROW_WRITE (spec/03, 3.9, R66 to R71;
spec/01, R5, R6, R21). -/

namespace Sys2Proof.Machine

/-! ### CARD_STATUS (R5, R6, R66, R67) -/

/-- A CARD_STATUS action that takes the card from one state to another, with one STATUS entry (R6, R66); any other state declines
OUT_OF_RANGE (R5). -/
def changeStatus (old new : CardState) (tries : Nat → Nat) (p : Plan) : Plan :=
  let c := p.working
  if c.state = old then
    { p.withCard { c with state := new, tries := tries c.tries } with
      result := .approved, reason := .none, approved := 0, own := [(.status, [old.code, new.code])] }
  else p.decline .outOfRange

/-- The hold operations that free the rows of a card's references, each row read first (R67, R83). THE MODEL'S CHOICE (log 44): the rows are
freed in the order of the reference list, which R6 does not give. -/
def freeRefs : List CardRef → State → State × List HoldOp
  | [], s => (s, [])
  | r :: rs, s =>
    let a := readHold s r.index
    let row := match a.2 with | some h => freedRow h | none => freedFromRef r.gen
    let b := freeRefs rs a.1
    (b.1, .freeRow r.index row true :: b.2)

/-- CARD_STATUS CLOSE (R6, R67). -/
def closeCard (p : Plan) (s : State) : Sixteen :=
  let c := p.working
  let bal := balance p.today c.lots
  let f := freeRefs c.refs s
  (f.1, some { p.withCard { c with state := .closed, lots := [], refs := [], held := 0 } with
    result := .approved, reason := .none, approved := bal, own := [(.close, [bal, c.held])], holdOps := f.2 })

/-- CARD_STATUS, by its action (R5, R66, R67). -/
def cardStatusStep (k : Work) (p : Plan) (s : State) : Sixteen :=
  match k.req.action with
  | 1 => (s, some (changeStatus .active .suspended id p))
  | 2 => (s, some (changeStatus .suspended .active id p))
  | 3 => (s, some (changeStatus .locked .active (fun _ => 0) p))
  | _ => closeCard p s

/-! ### BONUS_GRANT (R68) -/

/-- BONUS_GRANT (R68). -/
def bonusGrantStep (k : Work) (p : Plan) (s : State) : Sixteen :=
  let c := p.working
  let g := k.req.amount
  let e := fieldAt k.req.params 0 2
  if e < p.today then (s, some (p.decline .outOfRange))
  else if k.terms.cap < balance p.today c.lots + g then (s, some (p.decline .overLimit))
  else
    match addBonus g e c.lots with
    | none => (s, some (p.decline .cardFull))
    | some ls =>
      (s, some { p.withCard { c with lots := ls } with
        result := .approved, reason := .none, approved := 0, bonus := g, own := [(.grant, [g, e])] })

/-! ### ROW_READ (R69) -/

/-- ROW_READ: the image goes to the data address before the commit point (R69, R188). The figures of a TRANSFER_FAILED answer
are absent (log 30). -/
def rowReadStep (k : Work) (p : Plan) (s : State) : Sixteen :=
  let a := linkBlock s k.req.address p.working.image
  if a.2 then (a.1, some { p with result := .approved, reason := .none, approved := 0, seen := true })
  else (a.1, some (p.decline .transferFailed))

/-! ### ROW_WRITE (R21, R70, R71) -/

/-- The checks of one reference of an image for an unreadable row (R71): the hold row is readable, OPEN, of the reference's
generation and amount, and records this card row. -/
def refHolds (card : Nat) (r : CardRef) (s : State) : State × Bool :=
  match readHold s r.index with
  | (s, none) => (s, false)
  | (s, some h) =>
    (s, h.isOpen && decide (h.gen = r.gen) && decide (h.amount = r.amount) && decide (h.card = card))

/-- The checks of an image's references, in order, up to the first that fails (R71); no two name one hold index. THE MODEL'S CHOICE (log 45):
a reference whose index a later one names too fails before its hold row is read. -/
def refsHold (card : Nat) : List CardRef → State → State × Bool
  | [], s => (s, true)
  | r :: rs, s =>
    if rs.any (fun q => decide (q.index = r.index)) then (s, false)
    else
      match refHolds card r s with
      | (s, false) => (s, false)
      | (s, true) => refsHold card rs s

/-- The row an image gives: a readable row keeps its own references and held total; for an unreadable one the image's
references are checked (R71, log 39). None for an image that is declined. -/
def imageRow (k : Work) (read : Option CardRow) (img : CardRow) (s : State) : State × Option CardRow :=
  let a : State × Option CardRow :=
    match read with
    | some row => (s, some { img with refs := row.refs, held := row.held })
    | none =>
      match refsHold k.row img.refs s with
      | (s, true) => (s, some img)
      | (s, false) => (s, none)
  match a.2 with
  | none => (a.1, none)
  | some row => (a.1, if (row.state = .empty ∨ row.state = .closed) ∧ row.refs ≠ [] then none else some row)

/-- ROW_WRITE (R70): the plan's card as read is the row's own contents, absent when unreadable. An accepted image is written whole
and takes the row out of the quarantine list; a declined one writes nothing. THE MODEL'S CHOICE (log 43): an accepted image equal to the readable
row is written too. -/
def rowWriteStep (k : Work) (p : Plan) (s : State) : Sixteen :=
  let keep := { p with card := none, cardRead := none }
  match linkRead s k.req.address 128 with
  | none => (s, some (keep.decline .transferFailed))
  | some bytes =>
    match rowOfImage s.holdRows ((k.selection.map (·.programmeNo)).getD 0) bytes with
    | none => (s, some (keep.decline .outOfRange))
    | some img =>
      match imageRow k p.cardRead img s with
      | (s, none) => (s, some (keep.decline .outOfRange))
      | (s, some row) =>
        (s, some { keep with
          card := some row, result := .approved, reason := .none, approved := 0, seen := true,
          leaves := [(.card, k.row)] })

end Sys2Proof.Machine
end

