-- ==== Sys2Proof/Machine/OfficeTables.lean ====
section
/-! DEFINITION. Step 16 of the office kinds without a card number: TILL_WRITE, TILL_RELEASE (spec/05, R96, R104), RULE_WRITE,
PROGRAMME_WRITE (spec/02, R33, R34), LANE_MODE (spec/08, R157), CLOCK_SET (spec/10, R177), TRAIL_READ and QUARANTINE_READ (spec/07,
R143, R144). The checks that these rules place at the commit point are made there (Commit.lean, commitAction). -/

namespace Sys2Proof.Machine

/-- The row a REGISTER writes (R96). -/
def registeredRow (r : Req) : TillRow := { registered := true, storeNo := r.storeNo, tillNo := r.tillNo }

/-- The row a REMOVE writes (R96). -/
def removedRow : TillRow := {}

/-- TILL_WRITE (R96): the row is read, the read need not succeed, and the row leaves the quarantine list (log 15). -/
def tillWriteStep (k : Work) (p : Plan) (s : State) : Sixteen :=
  let r := k.req
  let a := readTill s r.tillIndex
  (a.1, some { p with
    tillNew := some (if r.action = 1 then registeredRow r else removedRow), leaves := [(.till, r.tillIndex)] })

/-- TILL_RELEASE (R104). The row is written even when nothing in it changes (log 48). -/
def tillReleaseStep (k : Work) (p : Plan) (s : State) : Sixteen :=
  let r := k.req
  match readTill s r.tillIndex with
  | (s, none) => (s, some (p.decline .tillUnknown))
  | (s, some t) =>
    if t.admits r then (s, some { p with tillNew := some (t.setScore false 0) }) else (s, some (p.decline .tillUnknown))

/-- RULE_WRITE (R33): the rule of the office parameters; its checks are made at the commit point. -/
def ruleWriteStep (k : Work) (p : Plan) (s : State) : Sixteen :=
  let b := k.req.params
  (s, some { p with
    action := .ruleWrite (fieldAt b 0 1) (fieldAt b 1 1) (packedDigits ((b.drop 2).take 4)) (byteAt b 6) (fieldAt b 7 1)
      (fieldAt b 8 2) (fieldAt b 10 2) })

/-- PROGRAMME_WRITE (R34, R188): the record is read at step 16, and checked at the commit point as read. -/
def programmeWriteStep (k : Work) (p : Plan) (s : State) : Sixteen :=
  match linkRead s k.req.address 64 with
  | none => (s, some (p.decline .transferFailed))
  | some bytes => (s, some { p with action := .programmeWrite (fieldAt k.req.params 0 1) bytes })

/-- LANE_MODE (R157). -/
def laneModeStep (k : Work) (p : Plan) (s : State) : Sixteen :=
  (s, some { p with action := .laneMode (fieldAt k.req.params 0 1) (decide (k.req.action = 1)) })

/-- CLOCK_SET (R177); step 1 has refused a target outside the ranges. -/
def clockSetStep (k : Work) (p : Plan) (s : State) : Sixteen :=
  let b := k.req.params
  (s, some { p with action := .clockSet (Fin.ofNat 65536 (fieldAt b 0 2)) (Fin.ofNat 1440 (fieldAt b 2 2)) (Fin.ofNat 60 (fieldAt b 4 1)) })

/-! ### TRAIL_READ (R143) -/

/-- The trail places in read-out order: the ring from the write place on, which puts entries never written before the written
ones and those in ascending serial (R142, R143). An unreadable entry stands at its ring place (log 16). -/
def trailOrder (s : State) : List Nat :=
  (List.range Config.trailEntries).map (fun k => (s.store.trailPlace + k) % Config.trailEntries)

/-- A trail entry read: a corrected one is written back (R133). -/
def readTrail (s : State) (k : Nat) : State :=
  let c := s.trailCell k
  if c.correctedRead then
    s.setStore { s.store with trail := Sparse.set {} s.store.trail k { entry := c.entry } }
  else s

/-- TRAIL_READ (R143): the 32 entries read in one action, STORE raised when one is unreadable, and written to the data address. -/
def trailReadStep (k : Work) (p : Plan) (s : State) : Sixteen :=
  let order := trailOrder s
  let bytes := order.flatMap (fun n => (s.trailCell n).bytes)
  let s' := order.foldl readTrail s
  let s' := if order.any (fun n => (s.trailCell n).unreadable) then raiseCause .store s' else s'
  let a := linkBlock s' k.req.address bytes
  (a.1, some (if a.2 then p else p.decline .transferFailed))

/-- QUARANTINE_READ (R144). -/
def quarantineReadStep (k : Work) (p : Plan) (s : State) : Sixteen :=
  let a := linkBlock s k.req.address (quarantineBytes s.store.quarantine s.store.overflow)
  (a.1, some (if a.2 then p else p.decline .transferFailed))

end Sys2Proof.Machine
end

