-- ==== Sys2Proof/Machine/Reverse.lean ====
section
/-! DEFINITION. Step 16 of REVERSE (spec/03, 3.8, R61 to R65; spec/05, R109 to R111). -/

namespace Sys2Proof.Machine

/-- The REVERSED_AHEAD entry of a REVERSE whose target is not in the list (R109). -/
def aheadEntry (target : Nat) (digits : List Nat) (row : Option Nat) : RecentEntry :=
  { seq := target, state := .reversedAhead, kind := none, digits := digits, cardRow := row, requested := none, result := none,
    reason := none, approved := none, flags := {}, movement := none, ref := none, parts := [] }

/-- The entry is one of the REVERSE's card (R61, R110): by card row, or by digits where the entry has none (log 47). -/
def entryOnCard (e : RecentEntry) (row : Option Nat) (digits : List Nat) : Bool :=
  match e.cardRow with
  | some r => decide (some r = row)
  | none => decide (e.digits = digits)

/-- A plan that reverses its target: APPROVED amount 0 unless the case says more; the target becomes REVERSED and the last-use day
is today (R65). -/
def reversed (p : Plan) (target : Nat) : Plan :=
  { p.withCard (usedToday p.today p.working) with result := .approved, reason := .none, approved := 0, reversedSeq := some target }

/-- The REVERSAL entry (R167): target sequence, original kind, then the amounts. -/
def reversalWords (target : Nat) (kind : RequestKind) (amounts : List Nat) : List (JournalKind × List Nat) :=
  [(.reversal, target :: kind.code :: amounts)]

/-- REVERSE of a REDEEM or HOLD_CLOSE (R62). -/
def reverseDraw (e : RecentEntry) (kind : RequestKind) (p : Plan) : Plan :=
  let c := p.working
  let a := e.approved.getD 0
  let r := restoreParts p.today e.parts c.lots
  { (reversed p e.seq).withCard (usedToday p.today { c with lots := r.lots }) with
    result := if 1 ≤ r.restored ∧ r.restored < a then .partly else .approved
    approved := r.restored
    lapsed := p.lapsed + r.lapsed
    own := reversalWords e.seq kind [a, r.restored, r.unrestored] }

/-- The bonus an entry records: its amount and expiry day (R63, R111). -/
def recordedBonus (e : RecentEntry) : Nat × Nat :=
  match e.parts.find? (fun q => q.expiry.isSome) with
  | some q => (q.amount, q.expiry.getD 0)
  | none => (0, 0)

/-- REVERSE of a LOAD or ACTIVATE (R63). -/
def reverseLoad (e : RecentEntry) (kind : RequestKind) (p : Plan) : Plan :=
  let c := p.working
  let a := e.approved.getD 0
  let y := recordedBonus e
  let x := paidPass (min a (balance p.today c.lots)) c.lots
  let b := if y.1 = 0 then (0, x.2) else bonusPass y.1 y.2 x.2
  { (reversed p e.seq).withCard (usedToday p.today { c with lots := b.2 }) with
    result := if (x.1 < a ∨ b.1 < y.1) ∧ 1 ≤ x.1 then .partly else .approved
    approved := x.1
    bonus := b.1
    own := reversalWords e.seq kind [a, y.1, x.1, b.1]
    parts := if b.1 = 0 then [] else [{ expiry := some y.2, amount := b.1 }] }

/-- REVERSE of a HOLD_OPEN whose hold is cancelled, the row freed with the content given (R64). -/
def reverseOpen (e : RecentEntry) (p : Plan) (r : CardRef) (row : HoldRow) (office : Bool) : Plan :=
  { (reversed p e.seq).withCard (usedToday p.today (dropRef r p.working)) with
    approved := r.amount
    own := reversalWords e.seq .holdOpen [e.approved.getD 0, r.amount]
    holdOps := [.freeRow r.index row office] }

/-- REVERSE of a HOLD_OPEN that finds nothing to cancel (R64). -/
def reverseEnded (e : RecentEntry) (p : Plan) : Plan :=
  { reversed p e.seq with own := reversalWords e.seq .holdOpen [e.approved.getD 0, 0] }

/-- REVERSE of an approved HOLD_OPEN (R64, R83). -/
def reverseHold (k : Work) (e : RecentEntry) (p : Plan) (s : State) : Sixteen :=
  match e.ref with
  | none => (s, some (reverseEnded e p))
  | some ref =>
    let p := { p with holdIndex := some ref.index }
    match findHold ref p.working k.now s with
    | (s, .noRef) => (s, some (reverseEnded e p))
    | (s, .unreadable r) =>
      if k.onOfficeLane then (s, some (reverseOpen e p r (freedFromRef r.gen) true))
      else (s, some (p.decline .cardUnreadable))
    | (s, .gone _ _) => (s, some (reverseEnded e p))
    | (s, .live r h) => (s, some (reverseOpen e p r (freedRow h) k.onOfficeLane))

/-- REVERSE of an ANSWERED entry of this card, by the original's kind and result (R62 to R65). -/
def reverseAnswered (k : Work) (e : RecentEntry) (p : Plan) (s : State) : Sixteen :=
  if e.result = some .approved ∨ e.result = some .partly then
    match e.kind with
    | some .redeem => (s, some (reverseDraw e .redeem p))
    | some .holdClose => (s, some (reverseDraw e .holdClose p))
    | some .load => (s, some (reverseLoad e .load p))
    | some .activate => (s, some (reverseLoad e .activate p))
    | some .holdOpen => reverseHold k e p s
    | _ => (s, some (reversed p e.seq))
  else (s, some (reversed p e.seq))

/-- REVERSE (R61). THE MODEL'S CHOICE (log 41): a REVERSE whose target is already REVERSED has no hold index in its trail entry, also where the
target was a HOLD_OPEN. -/
def reverseStep (k : Work) (p : Plan) (s : State) : Sixteen :=
  let r := k.req
  match findRecent r.target ((k.till.getD {}).recent) with
  | none => (s, some { p.decline .noOriginal with ahead := some (aheadEntry r.target r.digits k.rowIndex) })
  | some e =>
    if e.state = .reversedAhead then (s, some (p.decline .noOriginal))
    else if !entryOnCard e k.rowIndex r.digits then (s, some (p.decline .noOriginal))
    else if e.state = .reversed then
      (s, some { p.withCard (usedToday p.today p.working) with
        result := .approved, reason := .none, approved := 0, flags := { p.flags with isRepeat := true } })
    else reverseAnswered k e p s

end Sys2Proof.Machine
end

