-- ==== Sys2Proof/Machine/Admission.lean ====
section
/-! DEFINITION. The admission steps of a request (spec/03, R38 to R41) and its locks (spec/06, R117, R118): from step 1, or from the lock
a ready-queue entry received, to the request's next wait or through its commit (log 7). -/

namespace Sys2Proof.Machine

/-- Step 16 of a kind. -/
def stepSixteen (kd : RequestKind) (k : Work) (p : Plan) (s : State) : Sixteen :=
  match kd with
  | .balance => balanceStep k p s
  | .activate => activateStep k p s
  | .load => loadStep k p s
  | .redeem => redeemStep k p s
  | .holdOpen => holdOpenStep k p s
  | .holdRenew => holdRenewStep k p s
  | .holdClose => holdCloseStep k p s
  | .holdCancel => holdCancelStep k p s
  | .reverse => reverseStep k p s
  | .rowWrite => rowWriteStep k p s
  | .rowRead => rowReadStep k p s
  | .cardStatus => cardStatusStep k p s
  | .bonusGrant => bonusGrantStep k p s
  | .tillWrite => tillWriteStep k p s
  | .tillRelease => tillReleaseStep k p s
  | .ruleWrite => ruleWriteStep k p s
  | .programmeWrite => programmeWriteStep k p s
  | .laneMode => laneModeStep k p s
  | .clockSet => clockSetStep k p s
  | .trailRead => trailReadStep k p s
  | .quarantineRead => quarantineReadStep k p s

/-- A request declined before its card row was read (R41). -/
def declineNow (w : Nat) (k : Work) (r : Reason) (s : State) : State := prepareCommit w k (Plan.decline {} r) s

/-- Step 16, and the commit of its plan; a lost link word is LINK_LOST (R138). -/
def runSixteen (w : Nat) (kd : RequestKind) (k : Work) (p : Plan) (s : State) : State :=
  match stepSixteen kd k p s with
  | (s, some p) => prepareCommit w k p s
  | (s, none) => linkLost s

/-! ### Steps 13 to 15 -/

/-- Steps 14 and 15 on a card row as read, then step 16 (R3, R4, R5, R16, R17). -/
def onCardRow (w : Nat) (kd : RequestKind) (k : Work) (sel : Selection) (t : Reading) (row : CardRow) (s : State) : State :=
  if !owned row sel.programmeNo then declineNow w k .unknownCard s
  else
    let c := upkeep kd sel t row
    let p : Plan :=
      { today := t.day, card := some c, cardRead := some row, lapsed := upkeepLapsed kd t row, seen := true }
    match cardGate kd c.state with
    | some r => prepareCommit w k (p.decline r) s
    | none =>
      let x := codeCheck kd k.req sel c
      let p := { p with
        card := some x.card
        flags := { p.flags with cardLockedNow := x.lockedNow }
        status := if x.lockedNow then some (c.state, .locked) else none }
      match x.reason with
      | some r => prepareCommit w k (p.decline r) s
      | none => runSixteen w kd k p s

/-- Step 13 on: the card row read with its clock reading, under the card lock (R2, R38, R69, R70). THE MODEL'S CHOICE (log 59): a row that joined
the quarantine list after step 11, while the request waited for its lock, is read here all the same, but for ROW_WRITE. -/
def afterCardLock (w : Nat) (kd : RequestKind) (k : Work) (s : State) : State :=
  let t := s.clock.reading
  let k := { k with cardReading := some t }
  match kd with
  | .rowWrite =>
    let a := if s.isListed .card k.row then (s, none) else readCard s k.row
    runSixteen w kd k { today := t.day, card := a.2, cardRead := a.2 } a.1
  | _ =>
    match readCard s k.row with
    | (s, none) => declineNow w k .cardUnreadable s
    | (s, some row) =>
      match kd, k.selection with
      | .rowRead, _ => runSixteen w kd k { today := t.day, card := some row, cardRead := some row } s
      | _, some sel => onCardRow w kd k sel t row s
      | _, none => declineNow w k .noProgramme s

/-! ### Steps 7 to 12 -/

/-- Step 12: the card lock, granted or waited for (R117, R118). -/
def takeCardLock (w : Nat) (kd : RequestKind) (k : Work) (s : State) : State :=
  match requestLock (.card k.row) k.place s with
  | (s, true) => afterCardLock w kd { k with cardLock := some k.row } s
  | (s, false) => enterPool w k (.card k.row) s

/-- Steps 7 to 11 of a kind with a card number (R24, R26, R27, R30, R38). THE MODEL'S CHOICE (log 47): a request declined UNKNOWN_CARD at step 10
has no card row. -/
def stepsSevenOn (w : Nat) (kd : RequestKind) (k : Work) (s : State) : State :=
  let r := k.req
  if !checkDigitOk r.digits then declineNow w k .checkDigit s
  else
    match selectProgramme s.tables r.digits with
    | none => declineNow w k .noProgramme s
    | some sel =>
      let k := { k with selection := some sel }
      if !kindAllowed kd sel then declineNow w k .kindNotAllowed s
      else
        match rowIndex sel r.serial with
        | none => declineNow w k .unknownCard s
        | some i =>
          let k := { k with rowIndex := some i }
          if s.isListed .card i ∧ kd ≠ .rowWrite then declineNow w k .cardUnreadable s else takeCardLock w kd k s

/-! ### Steps 3 to 6 -/

/-- The answer of a repeat (R108). -/
def repeatPlan (e : RecentEntry) : Plan :=
  { result := e.result.getD .declined, reason := e.reason.getD .none, flags := { e.flags with isRepeat := true },
    approved := e.approved.getD 0, bonus := repeatedBonus e, ref := e.ref, adds := false, repeated := some e }

/-- Steps 5 and 6 on the till working copy (R100, R107). -/
def onTillRow (w : Nat) (kd : RequestKind) (k : Work) (t : TillRow) (s : State) : State :=
  match recentCheck kd k.req t.recent with
  | .isRepeat e => prepareCommit w k (repeatPlan e) s
  | .decline r => prepareCommit w k { Plan.decline {} r with adds := false } s
  | .goOn =>
    match standingGate kd t.standing with
    | some r => declineNow w k r s
    | none => stepsSevenOn w kd k s

/-- What follows the till lock: the second reading of a till kind (R95, R103), or the step 16 of TILL_WRITE and TILL_RELEASE. -/
def afterTillLock (w : Nat) (kd : RequestKind) (k : Work) (s : State) : State :=
  if kd.isTill then
    let t := s.clock.reading
    let k := { k with tillReading := some t }
    match readTill s k.req.tillIndex with
    | (s, none) => declineNow w k .tillUnknown s
    | (s, some row) =>
      if row.admits k.req then
        let copy := row.atSecondReading s.dir.recovery t.index
        onTillRow w kd { k with tillRead := some row, till := some copy } copy s
      else declineNow w k .tillUnknown s
  else runSixteen w kd k {} s

/-- Step 4: the till lock, granted or waited for (R117, R118). -/
def takeTillLock (w : Nat) (kd : RequestKind) (k : Work) (s : State) : State :=
  match requestLock (.till k.req.tillIndex) k.place s with
  | (s, true) => afterTillLock w kd { k with tillLock := some k.req.tillIndex } s
  | (s, false) => enterPool w k (.till k.req.tillIndex) s

/-- Step 3 of a till kind: the first reading (R95). -/
def stepThree (w : Nat) (kd : RequestKind) (k : Work) (s : State) : State :=
  match readTill s k.req.tillIndex with
  | (s, none) => declineNow w k .tillUnknown s
  | (s, some row) => if row.admits k.req then takeTillLock w kd k s else declineNow w k .tillUnknown s

/-- Step 2 on, for a well-formed request of a kind (R38, R40). -/
def stepTwo (w : Nat) (kd : RequestKind) (k : Work) (s : State) : State :=
  if !kd.isTill && !k.onOfficeLane then declineNow w k .notPermitted s
  else if kd.isTill then stepThree w kd k s
  else if kd.takesTillLock then takeTillLock w kd k s
  else if kd.hasCard then stepsSevenOn w kd k s
  else runSixteen w kd k {} s

/-- The 64 bytes of a request. -/
def Work.half (k : Work) : List Byte := match k.task with | .request _ _ _ h => h | .expiry _ _ _ => []

/-- Step 1 on (R38, R39). -/
def stepOne (w : Nat) (k : Work) (s : State) : State :=
  match k.kind? with
  | none => declineNow w k .malformed s
  | some kd => if requestWellFormed k.half then stepTwo w kd k s else declineNow w k .malformed s

/-! ### The commands -/

/-- The work a worker holds at step 1. -/
def State.atStepOne (s : State) (w : Nat) : Option Work :=
  (s.worker w).filter (fun k => k.isRequest && decide (k.phase = .taken))

/-- A request command: the worker's request, at step 1 and of the command's row, runs to its next wait or through its commit; any
other worker is left as it stands (log 5, log 7). -/
def beginRequest (row : Req → Bool) (w : Nat) (s : State) : State :=
  match s.atStepOne w with
  | none => s
  | some k => if row k.req then stepOne w k s else s

/-- The request is of a kind. -/
def ofKind (kd : RequestKind) (r : Req) : Bool := decide (r.kind? = some kd)

/-- The request is of a kind and carries an action. -/
def ofAction (kd : RequestKind) (a : Nat) (r : Req) : Bool := decide (r.kind? = some kd) && decide (r.action = a)

/-- The request's kind code names no request kind (R39), or its action byte is none of the actions the table of commands has a row
for (R187, log 14). -/
def ofUnknownKind (r : Req) : Bool :=
  match r.kind? with
  | none => true
  | some .cardStatus => !actionNamed .cardStatus r.action
  | some .tillWrite => !actionNamed .tillWrite r.action
  | some .laneMode => !actionNamed .laneMode r.action
  | some _ => false

/-- A worker takes the oldest ready-queue entry, in RUNNING or DRAINING (R114, R115). -/
def takeReady (w : Nat) (s : State) : State :=
  match s.units.ready with
  | [] => s
  | k :: r => (s.setUnits { s.units with ready := r }).setWorker w (some k)

/-- Ready-queue dispatch is made in this engine state (R114, R182). -/
def State.dispatches (s : State) : Bool := decide (s.control.engine = .running) || decide (s.control.engine = .draining)

/-- A FREE worker that may take the oldest ready-queue entry does so when the entry has received a lock of the kind asked for. -/
def resumeFrom (f : Phase → Bool) (w : Nat) (s : State) : State :=
  if w < Config.workers ∧ s.worker w = none ∧ s.dispatches = true then
    match s.units.ready with
    | k :: _ => if f k.phase then takeReady w s else s
    | [] => s
  else s

/-- The phase of work that received its till lock. -/
def isGotTill (p : Phase) : Bool := decide (p = .gotTill)

/-- The phase of work that received its card lock. -/
def isGotCard (p : Phase) : Bool := decide (p = .gotCard)

end Sys2Proof.Machine
end

