-- ==== Sys2Proof/Machine/Expiry.lean ====
section
/-! DEFINITION. Expiry jobs (spec/04, 4.6, R88 to R90). -/

namespace Sys2Proof.Machine

/-- The job's EXPIRY entry is still in the hand list (R88). -/
def State.jobEntry (s : State) (hold gen place : Nat) : Bool :=
  s.holds.hand.any (fun h =>
    decide (h.kind = .expiry) && decide (h.hold = hold) && decide (h.gen = gen) && decide (h.place = place))

/-- The plan of a job that does nothing (R88, R90). THE MODEL'S CHOICE (log 56): its trail entry has the hold index of the job's row all the
same. -/
def idleJob (hold : Nat) (t : Reading) : Plan := { today := t.day, holdIndex := some hold }

/-- The plan of a release (R89). -/
def releaseJob (hold : Nat) (t : Reading) (row : CardRow) (h : HoldRow) : Plan :=
  let m := findRef { index := hold, gen := h.gen } row
  let c := match m with | some r => dropRef r row | none => row
  let released := match m with | some r => r.amount | none => 0
  { idleJob hold t with
    card := some c, cardRead := some row
    own := [(.holdExpire, [hold, h.gen, h.seq, h.amount, released, h.deadline])]
    holdOps := [.freeRow hold (freedRow h) false], openedBy := some (h.till, h.seq) }

/-- The decision of a job that has read its card row, by the first case of R88 that applies; a hold row that cannot be read ends
it (R90, log 38). A refiling writes no row content (log 27). -/
def decideJob (hold gen place : Nat) (t : Reading) (row : CardRow) (s : State) : State × Plan :=
  match readHold s hold with
  | (s, none) => (s, idleJob hold t)
  | (s, some h) =>
    if !s.jobEntry hold gen place then (s, idleJob hold t)
    else if h.isOpen = false ∨ h.gen ≠ gen then (s, idleJob hold t)
    else if t.index < h.deadline then (s, { idleJob hold t with holdOps := [.refile hold] })
    else (s, releaseJob hold t row h)

/-- A job whose card row cannot be read: the hold row goes to the tail of the due chain when the card row could not join the list
(R90), if the job's entry is still in the hand list (log 35). -/
def unreadableCardJob (hold gen card place : Nat) (t : Reading) (s : State) : Plan :=
  if !s.isListed .card card && s.jobEntry hold gen place then { idleJob hold t with holdOps := [.requeue hold] }
  else idleJob hold t

/-- A job under its card lock (R88). -/
def runJob (w hold gen card : Nat) (k : Work) (s : State) : State :=
  let t := s.clock.reading
  let k := { k with cardReading := some t }
  let a := if s.isListed .card card then (s, none) else readCard s card
  match a.2 with
  | none => prepareCommit w k (unreadableCardJob hold gen card k.place t a.1) a.1
  | some row =>
    let d := decideJob hold gen k.place t row a.1
    prepareCommit w k d.2 d.1

/-- A job just handed out asks for its card lock (R88). -/
def beginJob (w : Nat) (s : State) : State :=
  match s.worker w with
  | some k =>
    match k.task, k.phase with
    | .expiry hold gen card, .taken =>
      match requestLock (.card card) k.place s with
      | (s, true) => runJob w hold gen card { k with cardLock := some card } s
      | (s, false) => enterPool w k (.card card) s
    | _, _ => s
  | none => s

/-- A worker whose work received its till lock goes on with the second reading (R115). -/
def resumeTill (w : Nat) (s : State) : State :=
  let s := resumeFrom isGotTill w s
  match s.worker w with
  | some k =>
    if isGotTill k.phase then
      match k.kind? with
      | some kd => afterTillLock w kd { k with phase := .taken } s
      | none => s
    else s
  | none => s

/-- A worker whose work received its card lock goes on with the card row read (R115). -/
def resumeCard (w : Nat) (s : State) : State :=
  let s := resumeFrom isGotCard w s
  match s.worker w with
  | some k =>
    if isGotCard k.phase then
      let k := { k with phase := .taken }
      match k.task, k.kind? with
      | .expiry hold gen card, _ => runJob w hold gen card k s
      | _, some kd => afterCardLock w kd k s
      | _, none => s
    else s
  | none => s

/-- A BALANCE that waited for room: a free entry is granted to waiting requests first, and one granted goes on to its commit (R46,
R170). -/
def roomGranted (w : Nat) (s : State) : State :=
  let s := grantBalances s
  match s.worker w with
  | some k => match k.phase with | .roomGranted p => commitWork w { k with phase := .taken } p s | _ => s
  | none => s

/-- A commit that waited for the trail entry at the write place goes on when it owes nothing (R142). -/
def trailFreed (w : Nat) (s : State) : State :=
  match s.worker w with
  | some k =>
    match k.phase with
    | .awaitTrail p => if s.trailOwing s.store.trailPlace then s else commitNow w { k with phase := .taken } p s
    | _ => s
  | none => s

end Sys2Proof.Machine
end

