-- ==== Sys2Proof/Machine/Take.lean ====
section
/-! DEFINITION. The dispatch of a FREE worker (spec/06, R114): ready queue, due handout (spec/04, R87), lane grant with its arbitration and
take attempts (spec/08, R152 to R155). -/

namespace Sys2Proof.Machine

/-! ### Due handouts (R87) -/

/-- Room for `n` entries is free, after a refresh when it is short (R170); nothing is reserved. -/
def seekRoom (n : Nat) (s : State) : State × Bool :=
  if s.roomFits n then (s, true)
  else
    let s := refreshDrained s
    (s, s.roomFits n)

/-- The handout of a row: EXPIRY entry, pool place and journal entry together, and the worker receives the job (R87). -/
def giveJob (w place i : Nat) (h : HoldRow) (s : State) : State :=
  let s := reserveRoom 1 (reservePlace place s)
  let s := s.setHolds { s.holds with
    hand := s.holds.hand ++ [{ kind := .expiry, hold := i, gen := h.gen, card := h.card, place := place }] }
  s.setWorker w (some { task := .expiry i h.gen h.card, place := place, room := 1 })

/-- What a handout or a grant came to. -/
inductive Grant where
  | made
  | notMade
  | lost
  deriving DecidableEq, Repr

/-- A due handout: a free place, room for one entry and an eligible row, tried in this order (R87, log 23). -/
def dueHandout (w : Nat) (s : State) : State × Grant :=
  match s.freePlace with
  | none => (s, .notMade)
  | some place =>
    match seekRoom 1 s with
    | (s, false) => (s, .notMade)
    | (s, true) =>
      match dueSearch s.holds.due.count s.holds.due.head s with
      | (s, .lost) => (s, .lost)
      | (s, .exhausted) => (s, .notMade)
      | (s, .found i h) => (giveJob w place i h s, .made)

/-! ### Lane order (R152) -/

/-- Lane numbers upward from the lane after the last one served, wrapping from the lane count - 1 to 0. -/
def rotation (count : Nat) (last : Option Nat) : List Nat :=
  let start := match last with | none => 0 | some l => l + 1
  (List.range count).map (fun k => (start + k) % count)

/-- The ready lanes in the order they are tried: PRIORITY is arbitration mode 1, ROTATION 2 (R152). -/
def laneOrder (s : State) : List Nat :=
  let r := (rotation s.dir.laneCount s.lanes.lastServed).filter (fun n => (s.laneState n).ready)
  if s.dir.arbitration = 1 then
    (List.range 8).flatMap (fun p => r.filter (fun n => decide ((s.laneEntry n).map (·.priority) = some p)))
  else r

/-! ### Take attempts (R153 to R155) -/

/-- A piece of work came from this lane and slot. -/
def Work.isFrom (lane slot : Nat) (k : Work) : Bool := decide (k.source = some (lane, slot))

/-- The slot's request is still in flight (R154). -/
def State.inFlight (s : State) (lane slot : Nat) : Bool :=
  (List.range Config.workers).any (fun w => (s.worker w).any (Work.isFrom lane slot)) ||
    s.units.waiting.any (fun x => x.work.isFrom lane slot) || s.units.ready.any (Work.isFrom lane slot)

/-- The lane's ready mark is cleared. -/
def clearReady (n : Nat) (s : State) : State := s.setLaneState n { s.laneState n with ready := false }

/-- Points 3 to 6 of a take: the TAKEN write, which may fail, the scan position, the last lane served, the look (R154). -/
def advanceLane (n : Nat) (e : LaneEntry) (s : State) : State :=
  let l := s.laneState n
  let s := (linkPut s (e.slotAddr l.scan) [slotTaken]).1
  let s := s.setLaneState n { s.laneState n with scan := nextScan e l.scan }
  look n (s.setLanes { s.lanes with lastServed := some n })

/-- A withdrawn take (R155); the worker's next dispatch is another command (log 36). -/
def withdraw (n : Nat) (e : LaneEntry) (s : State) : State :=
  let slot := (s.laneState n).scan
  let s := advanceLane n e s
  s.setNotices { s.notices with answers := s.notices.answers ++
    [{ lane := n, slot := slot, entry := e, half := withdrawnAnswer.bytes e.embed, tillCause := false, worker := none,
       trail := none }] }

/-- A take (R154). -/
def takeSlot (w place room n : Nat) (e : LaneEntry) (half : List Byte) (s : State) : State :=
  let slot := (s.laneState n).scan
  let s := (reservePlace place s).setWorker w
    (some { task := .request n slot e half, place := place, room := room })
  advanceLane n e s

/-- The journal room a take reserves, by the kind code (R153). -/
def takeRoom (half : List Byte) : Nat := match (Req.ofBytes half).kind? with | none => 0 | some k => k.room

/-- A take attempt on a lane, by the first case of R153 that applies; the Bool says whether the slot was taken or withdrawn. -/
def attemptLane (w n : Nat) (s : State) : State × Bool :=
  match s.laneEntry n with
  | none => (s, false)
  | some e =>
    let slot := (s.laneState n).scan
    match linkRead s (e.slotAddr slot) 64 with
    | none => (clearReady n s, false)
    | some half =>
      if s.inFlight n slot || !decide (byteAt half 0 = slotPosted) then (clearReady n s, false)
      else if byteAt half 1 ≠ 0 then (withdraw n e s, true)
      else
        match s.freePlace with
        | none => (s, false)
        | some place =>
          match askRoom (takeRoom half) s with
          | (s, false) => (s, false)
          | (s, true) => (takeSlot w place (takeRoom half) n e half s, true)

/-- The lanes tried in order until one is taken (R152, R153). -/
def tryLanes (w : Nat) : List Nat → State → State
  | [], s => s
  | n :: ns, s =>
    match attemptLane w n s with
    | (s, true) => s
    | (s, false) => tryLanes w ns s

/-! ### Dispatch (R114) -/

/-- Some lane of the table holds a ready mark. -/
def State.anyReady (s : State) : Bool := (List.range s.dir.laneCount).any (fun n => (s.laneState n).ready)

/-- Cases 2 and 3 of R114. -/
def dispatchRunning (w : Nat) (s : State) : State :=
  if 64 ≤ s.holds.due.count ∨ s.anyReady = false then
    match dueHandout w s with
    | (s, .made) => s
    | (s, .notMade) => tryLanes w (laneOrder s) s
    | (s, .lost) => linkLost s
  else tryLanes w (laneOrder s) s

/-- The dispatch of a worker (R114): a BUSY worker, and any worker outside RUNNING and DRAINING, is left as it stands. -/
def dispatchWorker (w : Nat) (s : State) : State :=
  if w < Config.workers ∧ s.worker w = none then
    match s.control.engine with
    | .running => if s.units.ready.isEmpty then dispatchRunning w s else takeReady w s
    | .draining => takeReady w s
    | _ => s
  else s

end Sys2Proof.Machine
end

