-- ==== Sys2Proof/Machine/Answers.lean ====
section
/-! DEFINITION. What goes out to the host: answer writes (spec/08, R156, R159 to R162) with the end of the commit sequence (R123, R125), notice
hold timers (R161), and journal appends (spec/09, R169, R172). -/

namespace Sys2Proof.Machine

/-! ### Answer writes -/

/-- The oldest handed answer of a lane, and the others (R159). -/
def oldestAnswer (lane : Nat) : List HandedAnswer → Option (HandedAnswer × List HandedAnswer)
  | [] => none
  | a :: r => if a.lane = lane then some (a, r) else (oldestAnswer lane r).map (fun p => (p.1, a :: p.2))

/-- The withdraw mark as read again just before the answer write, for a take that reached a worker (R156). -/
def lateMark (a : HandedAnswer) (s : State) : Bool :=
  a.worker.isSome &&
    (match linkRead s (a.entry.slotAddr a.slot + 1) 1 with
      | some [m] => !decide (m = 0)
      | _ => false)

/-- The half and the ANSWERED state written; false when either write fails (R159, R162). -/
def writeAnswer (a : HandedAnswer) (s : State) : State × Bool :=
  let half := sealHalf a.entry.embed s.clock.reading (lateMark a s) a.half
  match linkBlock s (a.entry.slotAddr a.slot + 64) half with
  | (s, false) => (s, false)
  | (s, true) => linkPut s (a.entry.slotAddr a.slot) [slotAnswered]

/-- The lane's tally raised and its word written; a failed word write keeps the increment (R159, R162). THE MODEL'S CHOICE (log 50): lane state and
word are those of the directory in force at the write, whatever its lane count. -/
def raiseTally (n : Nat) (s : State) : State :=
  let l := s.laneState n
  let t := l.tally + 1
  (linkPut (s.setLaneState n { l with tally := t }) (s.dir.engineWords + 4 * n) (leBytes 4 t.toNat)).1

/-- The answer status of the commit's trail entry (R142). -/
def settleTrail (a : HandedAnswer) (v : TrailStatus) (s : State) : State :=
  match a.trail with | none => s | some k => setAnswerStatus k v s

/-- Steps 6 and 7 of the commit sequence for the worker whose answer was handled (R123, R125). -/
def finishAnswer (a : HandedAnswer) (s : State) : State :=
  match a.worker with
  | none => s
  | some w => match s.worker w with | none => s | some k => finishWork w k s

/-- The handling of a handed answer: the TILL cause (R102, log 22), the writes, tally and trail status, the notice accounting, and
the worker's steps 6 and 7. -/
def handleAnswer (a : HandedAnswer) (s : State) : State :=
  let s := if a.tillCause then raiseCause .till s else s
  match writeAnswer a s with
  | (s, true) => finishAnswer a (gatherAnswer a.lane a.entry (settleTrail a .done (raiseTally a.lane s)))
  | (s, false) => finishAnswer a (settleTrail a .abandoned s)

/-- The oldest answer handed for a lane is written (R159). -/
def writeNextAnswer (lane : Nat) (s : State) : State :=
  match oldestAnswer lane s.notices.answers with
  | none => s
  | some (a, rest) => handleAnswer a (s.setNotices { s.notices with answers := rest })

/-- A lane's notice hold timer expires (R161). -/
def holdTimerExpires (n : Nat) (s : State) : State :=
  let l := s.laneState n
  if l.holdTimer.isSome then
    let s' := s.setLaneState n { l with pendingAnswers := 0, holdTimer := none }
    if 0 < l.pendingAnswers then raiseCause .answers s' else s'
  else s

/-! ### Journal appends (R169) -/

/-- The host address of the place of entry number `n` (R164). -/
def Directory.journalPlace (d : Directory) (n : Nat) : Nat := d.journalBase + 64 * (n % d.journalCount)

/-- Points 2 to 5 of an append: counts, the written count word, the mark, the trail status (R169, R172, R142). THE MODEL'S CHOICE (log 60): word and
mark are those of the directory in force, in a STARTING that follows a DRAIN the old one. -/
def countAppend (q : Queued) (rest : List Queued) (s : State) : State :=
  let n := s.journal.written + 1
  let s := s.setJournal { s.journal with
    written := n, reserved := s.journal.reserved - 1, queue := rest, retry := false }
  let s := testMark (linkPut s (s.dir.engineWords + 256) (leBytes 8 n)).1
  match q.last with | none => s | some k => setJournalStatus k .done s

/-- The head entry of the append queue is written; a failed write leaves it at the head, to be made again at the next tick
(R169). -/
def appendHead (s : State) : State :=
  match s.journal.queue with
  | [] => s
  | q :: rest =>
    match linkBlock s (s.dir.journalPlace s.journal.written) q.entry.bytes with
    | (s, true) => countAppend q rest s
    | (s, false) => s.setJournal { s.journal with retry := true }

/-- The next append (R169): the part has passed STARTING, and no failed write waits for its tick. In a later STARTING the ring is that
of the directory in force (log 20). -/
def appendNext (s : State) : State :=
  if s.control.directory.isSome ∧ s.journal.retry = false then appendHead s else s

/-- A failed entry write is made again (R169). -/
def retryAppend (s : State) : State :=
  if s.control.directory.isSome ∧ s.journal.retry = true then appendHead s else s

end Sys2Proof.Machine
end

