-- ==== Sys2Proof/Machine/Start.lean ====
section
/-! DEFINITION. STARTING (spec/10, R183, R184): the directory read, the twelve checks, the clock take, the partition record, the rebuild, the
programme examination, and the entry to RUNNING. -/

namespace Sys2Proof.Machine

/-! ### The checks (R131, R147, R164, R183) -/

/-- The store header read (R131): copy one, else copy two, from which copy one is rewritten; none when both are lost, which raises
STORE. -/
def readHeader (s : State) : State × Option Header :=
  let h := s.store.header
  match h.one.outcome, h.two.outcome with
  | .clean, _ => (s, some h.header)
  | .corrected, _ => (s.setStore { s.store with header := { h with one := .clean } }, some h.header)
  | .uncorrectable, .uncorrectable => (raiseCause .store s, none)
  | .uncorrectable, _ => (s.putHeader h.header, some h.header)

/-- Check 3: the partition (R131, R183). A P above 15 fails before the header is read (log 19). -/
def checkPartition (d : Directory) (s : State) : State × Bool :=
  if 15 < d.partition then (s, false)
  else
    match readHeader s with
    | (s, none) => (s, false)
    | (s, some h) => (s, match h.partition with | none => true | some p => decide (p = d.partition))

/-- Every field of a lane entry, apart from base and the number of kinds of the embed set, is in its range (R146, R147 test 3). -/
def LaneEntry.rangesOk (e : LaneEntry) : Bool :=
  decide (16 ≤ e.slotCount ∧ e.slotCount ≤ 1024) && decide (e.startPosition < e.slotCount) &&
  decide (e.kind = 1 ∨ e.kind = 2) && decide (e.priority ≤ 7) && decide (1 ≤ e.lookInterval) && !e.embed.getLsbD 7 &&
  decide (1 ≤ e.threshold) && decide (1 ≤ e.holdTime) && decide (e.startMode = 1 ∨ e.startMode = 2)

/-- Two address ranges, each a base and a length, share a byte. -/
def shareByte (a b : Nat × Nat) : Bool := decide (a.1 < b.1 + b.2) && decide (b.1 < a.1 + a.2)

/-- The bytes of a lane's slots (R147). -/
def LaneEntry.range (e : LaneEntry) : Nat × Nat := (e.base, e.slotCount * 128)

/-- Two lanes of a list share a byte (R147 test 4). -/
def anyOverlap : List LaneEntry → Bool
  | [] => false
  | e :: es => es.any (fun f => shareByte e.range f.range) || anyOverlap es

/-- A lane entry's embed set names more than 4 kinds (R147 test 5). -/
def LaneEntry.embedTooMany (e : LaneEntry) : Bool := decide (4 < (chosenItems e.embed).length)

/-- A journal entry count is a power of two in 1,024..1,048,576 (R164). -/
def journalCountOk (n : Nat) : Bool := (List.range 11).any (fun k => decide (n = 1024 * 2 ^ k))

/-- The journal tests (R164). -/
def Directory.journalOk (d : Directory) : Bool :=
  decide (d.journalBase % 4096 = 0) && journalCountOk d.journalCount && decide (1 ≤ d.mark ∧ d.mark ≤ d.journalCount)

/-- The bytes of the journal ring. -/
def Directory.ring (d : Directory) : Nat × Nat := (d.journalBase, d.journalCount * 64)

/-- The bytes of the engine-word block (11.2). -/
def Directory.engineBlock (d : Directory) : Nat × Nat := (d.engineWords, 4096)

/-- The bytes of the host-word block (11.2). -/
def Directory.hostBlock (d : Directory) : Nat × Nat := (d.hostWords, 8)

/-- Check 12 (R183). -/
def Directory.valuesOk (d : Directory) : Bool :=
  decide (d.clockTake ≤ 1) && decide (d.recovery = 1 ∨ d.recovery = 2) && decide (d.arbitration = 1 ∨ d.arbitration = 2) &&
  decide (d.enable.toNat < 32) && decide (d.engineWords % 4096 = 0) && decide (d.hostWords % 8 = 0) &&
  d.lanes.all (fun e => !shareByte d.engineBlock e.range && !shareByte d.hostBlock e.range && !shareByte d.ring e.range) &&
  !shareByte d.engineBlock d.ring && !shareByte d.hostBlock d.ring && !shareByte d.engineBlock d.hostBlock

/-- Checks 4 to 12 in their order: the fault code of the first that fails (R147, R164, R183). -/
def checkDirectory (d : Directory) (clockSet : Bool) : Option FaultCode :=
  if d.clockTake = 0 ∧ clockSet = false then some .clockUnset
  else if d.clockTake = 1 ∧ 1439 < d.startMinute then some .clockRange
  else if ¬ (1 ≤ d.laneCount ∧ d.laneCount ≤ 64) then some .laneCount
  else if d.lanes.any (fun e => !decide (e.base % 4096 = 0)) then some .laneAlign
  else if d.lanes.any (fun e => !e.rangesOk) then some .laneSize
  else if anyOverlap d.lanes then some .laneOverlap
  else if d.lanes.any LaneEntry.embedTooMany then some .embedTooMany
  else if !d.journalOk then some .journalSize
  else if !d.valuesOk then some .valueRange
  else none

/-- The directory read at an anchor: checks 1 and 2 (R183). -/
def readDirectory (s : State) (anchor : Nat) : Except FaultCode Directory :=
  if anchor = 0 ∨ anchor % 4096 ≠ 0 then .error .badRevision
  else
    match linkRead s anchor 64 with
    | none => .error .badRevision
    | some h =>
      if directoryRevision h ≠ 1 then .error .badRevision
      else
        match linkRead s (anchor + 64) (32 * directoryLanesRead h) with
        | none => .error .readFailed
        | some t => .ok (Directory.ofBytes h t)

/-- The engine enters FAULTED from STARTING, raising ENGINE (R182, R183). -/
def enterFaulted (c : FaultCode) (s : State) : State :=
  raiseCause .engine (s.setControl { s.control with engine := .faulted, fault := c, starting := none })

/-! ### Steps 1 to 4 of R184 -/

/-- The clock take (R176): a first setting of the clock, or a step that the sweep follows. -/
def clockTake (d : Directory) (s : State) : State :=
  if d.clockTake = 1 then
    let old := s.clock.now
    let first := !s.clock.set
    let s := s.setClock { phase := 0, tick := 0, second := 0, minute := d.startMinute, day := d.startDay, set := true }
    if first then startSweep s else followStep old s
  else s

/-- The partition record, with the free chain's ends and count (R92, R131): the last hold row's next link and row 0's previous link become none
(R139). -/
def recordPartition (d : Directory) (s : State) : State :=
  match s.header.partition with
  | some _ => s
  | none =>
    let n := Config.holdRows d.partition
    let s := s.putHeader { s.header with partition := some d.partition }
    let s := joinPrev 0 none (joinNext (n - 1) none s)
    s.setHolds { s.holds with free := { head := some 0, tail := some (n - 1), count := n } }

/-- A programme record whose range leaves the card region loses its enabled flag (R36). -/
def examineProgramme (rows : Nat) (p : Programme) : Programme :=
  if p.enabled ∧ rows < p.rowBase + p.rowCount then { p with enabled := false } else p

/-- The programme examination (R36). -/
def examineProgrammes (s : State) : State :=
  (List.range 16).foldl (fun s n =>
    s.setTables { s.tables with
      programmes := Sparse.set {} s.tables.programmes n (examineProgramme s.cardRows (Sparse.get {} s.tables.programmes n)) }) s

/-- Steps 1 to 4 of R184; the directory copy waits for the append queue to empty. -/
def startingSteps (d : Directory) (s : State) : State :=
  let s := recordPartition d (clockTake d s)
  let s := if s.header.damaged then rebuildChains s else s
  let s := examineProgrammes s
  s.setControl { s.control with starting := some d }

/-- STARTING's reading of the directory and its checks, then steps 1 to 4 (R183, R184). -/
def runStarting (s : State) : State :=
  match readDirectory s s.control.startAnchor with
  | .error c => enterFaulted c s
  | .ok d =>
    let s := s.setControl { s.control with engineWords := some d.engineWords }
    match checkPartition d s with
    | (s, false) => enterFaulted .partitionMismatch s
    | (s, true) =>
      match checkDirectory d s.clock.set with
      | some c => enterFaulted c s
      | none => startingSteps d s

/-- The engine enters STARTING, which begins at the anchor as it then stands (R181, R185). Its checks wait for the completing
writes of a reset (R128, log 9). -/
def enterStarting (s : State) : State :=
  let s := s.setControl { s.control with engine := .starting, startPending := false, startAnchor := s.anchor, starting := none }
  if s.control.resetting then s else runStarting s

/-! ### Steps 5 to 8 of R184 -/

/-- The lane state of a directory entry (R148): start mode 1 is OPEN. -/
def LaneEntry.startState (e : LaneEntry) : LaneState := { scan := e.startPosition, isOpen := decide (e.startMode = 1) }

/-- The lanes a directory sets (R148). -/
def startLanes (es : List LaneEntry) : List (Nat × LaneState) :=
  (List.range es.length).foldl (fun m n => Sparse.set {} m n ((es[n]?.getD {}).startState)) []

/-- The engine words of step 7 (R184): tallies, written count, quarantine count, capability record. Each field is a write of its
own, and one that fails is not made. The bytes of the 4 KiB block that the table of 11.2 does not name are written 0, as the opening of 11 says of
every place; THE MODEL'S CHOICE (log 61) is that they are written at this step and at no other, each byte that the link lets through. -/
def writeEngineWords (d : Directory) (s : State) : State :=
  let s := (List.range 64).foldl (fun s n => (linkPut s (d.engineWords + 4 * n) (leBytes 4 0)).1) s
  let s := (linkPut s (d.engineWords + 256) (leBytes 8 0)).1
  let s := (linkPut s (d.engineWords + 264) (leBytes 4 s.store.quarantine.length)).1
  let c := capabilityBytes d.partition
  let put (s : State) (f : Nat × Nat) : State := (linkPut s (d.engineWords + 272 + f.1) ((c.drop f.1).take f.2)).1
  let s := [(0, 4), (4, 4), (8, 4), (12, 1), (13, 1), (14, 1), (15, 1), (16, 1), (17, 1)].foldl put s
  linkZero (linkZero s (d.engineWords + 268) 4) (d.engineWords + 290) 3806

/-- The enable set replaced, with an MSI when it now includes a cause already raised and the old one included none (R178, R179). -/
def replaceEnable (e : CauseSet) (s : State) : State :=
  let s' := s.setNotices { s.notices with enable := e }
  if !s.notices.raised.anyEnabled s.notices.enable && s.notices.raised.anyEnabled e then sendMsi s' else s'

/-- Steps 5 to 8 of R184, and the looks on entry to RUNNING (R151, R165). THE MODEL'S CHOICE (log 51): the next movement number is loaded as the
header holds it, without a further read of its copies. -/
def enterRunning (d : Directory) (s : State) : State :=
  let s := s.setJournal { next := some s.header.next }
  let s := s.setLanes { lane := startLanes d.lanes, lastServed := some (d.laneCount - 1) }
  let s := writeEngineWords d s
  let s := s.setControl { s.control with engine := .running, fault := .none, starting := none, directory := some d }
  lookAll (replaceEnable (CauseSet.ofBits d.enable) s)

/-- STARTING completes once the append queue is empty (R165, R184). -/
def completeStarting (s : State) : State :=
  if s.control.engine = .starting ∧ s.journal.queue = [] ∧ s.control.resetting = false then
    match s.control.starting with
    | some d => enterRunning d s
    | none => s
  else s

end Sys2Proof.Machine
end

