-- ==== Sys2Proof/Machine/Control.lean ====
section
/-! DEFINITION. The resets (spec/06, R128; spec/10, R181, R186), the control, nudge and anchor registers (R181, R185, R189), notice reads
(R180), the scrub's end (R140), drain (R127), and the clock's minute event (R175). -/

namespace Sys2Proof.Machine

/-! ### Resets -/

/-- Power-on reset (R139, R186): every on-chip state at its power-on value and the store at its scrubbed contents (log 8). Host
memory, the link's condition and the model's outputs are not the part's to clear; the MSI capability is (log 10). -/
def powerOn (s : State) : State :=
  (State.reset.setPending s.pending).setLink { s.link with anchorLow := 0, anchorHigh := 0, msi := {} }

/-- What a link reset and an engine reset do alike (R128, R145, R148, R163, R181, R186): the engine is IDLE, or stays SCRUBBING (log 9).
The Journal Writer (R173), the trail statuses (R142) and ENGINE wait for the end of the completing writes. -/
def engineReset (s : State) : State :=
  let s := dropWork s
  let s := s.setLanes {}
  let s := s.setStore { s.store with overflow := false }
  let s := s.setNotices { raised := {}, enable := { engine := true }, answers := [] }
  s.setControl { s.control with
    engine := if s.control.engine = .scrubbing then .scrubbing else .idle
    startPending := false, controlIgnored := false, resetting := true, starting := none, engineWords := none }

/-- A link reset also sets the anchor registers to 0 and leaves MSI as the link's reset does (R181, R186, log 10). -/
def linkResetAll (s : State) : State :=
  let s := engineReset s
  s.setLink { s.link with anchorLow := 0, anchorHigh := 0, msi := {} }

/-- The completing writes of a reset have ended (R128, R142, R173, R181): the Journal Writer gives up what it has not appended, PENDING
statuses then become ABANDONED, ENGINE is raised unless the engine is SCRUBBING, and a START taken meanwhile makes its checks. -/
def endReset (s : State) : State :=
  if s.control.resetting then
    let s := abandonPending (dropJournal (s.setControl { s.control with resetting := false }))
    let s := if s.control.engine = .scrubbing then s else raiseCause .engine s
    if s.control.engine = .starting then runStarting s else s
  else s

/-- The scrub's end (R140): ENGINE is raised, and the engine enters STARTING or IDLE. -/
def endScrub (s : State) : State :=
  if s.control.engine = .scrubbing then
    let s := raiseCause .engine s
    if s.control.startPending then enterStarting s else s.setControl { s.control with engine := .idle }
  else s

/-! ### Control commands (R181) -/

/-- A command ignored with the control-ignored flag (R181). -/
def ignoreControl (s : State) : State := s.setControl { s.control with controlIgnored := true }

/-- START (R181). -/
def startCommand (s : State) : State :=
  match s.control.engine with
  | .scrubbing => s.setControl { s.control with startPending := true }
  | .idle => enterStarting s
  | .faulted => enterStarting s
  | _ => ignoreControl s

/-- A table of lanes whose look timers are stopped (R151). -/
def LaneState.stopLooks (l : LaneState) : LaneState := { l with lookTimer := none }

/-- DRAIN (R127, R151, R181). -/
def drainCommand (s : State) : State :=
  if s.control.engine = .running then
    let s := s.setLanes { s.lanes with lane := mapLanes LaneState.stopLooks s.lanes.lane }
    s.setControl { s.control with engine := .draining }
  else ignoreControl s

/-- A control write, by its value (R181, R189). -/
def controlWrite (v : Word32) (s : State) : State :=
  if v = 1 then startCommand s
  else if v = 2 then drainCommand s
  else if v = 3 then engineReset s
  else ignoreControl s

/-- No work is in flight (R127). -/
def State.noWork (s : State) : Bool :=
  (List.range Config.workers).all (fun w => (s.worker w).isNone) && s.units.ready.isEmpty && s.units.places.isEmpty

/-- DRAINING ends in IDLE, raising ENGINE, when no work is in flight (R127). -/
def endDrain (s : State) : State :=
  if s.control.engine = .draining ∧ s.noWork = true then
    raiseCause .engine (s.setControl { s.control with engine := .idle })
  else s

/-! ### Nudges (R151, R189) -/

/-- A nudge of 255 (R151, R171). -/
def nudgeAll (s : State) : State :=
  match s.control.engine with
  | .running => refreshDrained (lookAll s)
  | .draining => refreshDrained s
  | _ => s

/-- A nudge write of a value (R151, R189): one with bits 8 to 31 not 0 names no lane below 64 and is ignored. -/
def nudgeWrite (v : Word32) (s : State) : State :=
  if v.toNat = 255 then nudgeAll s
  else if v.toNat < s.dir.laneCount then look v.toNat s
  else s

/-! ### Register writes (R185, R189) -/

/-- A write of a whole register, by its window offset (R180, R185, R189). -/
def writeRegister (s : State) (r : Nat × Word32) : State :=
  match r.1 with
  | 0x00 => s.setLink { s.link with anchorLow := r.2 }
  | 0x04 => s.setLink { s.link with anchorHigh := r.2 }
  | 0x08 => controlWrite r.2 s
  | 0x10 => nudgeWrite r.2 s
  | _ => s

/-- The window offsets of the six registers (11.6). -/
def registerOffsets : List Nat := [0x00, 0x04, 0x08, 0x0C, 0x10, 0x14]

/-- The byte an access writes at a window offset; none where it does not reach. -/
def writtenByte (offset : Nat) (data : List Byte) (i : Nat) : Option Byte := if i < offset then none else data[i - offset]?

/-- The register writes an access makes: one for each register it touches, bytes not written taken as 0 (R189), in ascending order
(log 31). -/
def registerWrites (offset : Nat) (data : List Byte) : List (Nat × Word32) :=
  registerOffsets.filterMap (fun r =>
    let bs := (List.range 4).map (fun i => writtenByte offset data (r + i))
    if bs.any Option.isSome then some (r, BitVec.ofNat 32 (leNat (bs.map (·.getD 0)))) else none)

/-- A write to the register window (R189). -/
def registerAccess (offset : Nat) (data : List Byte) (s : State) : State := (registerWrites offset data).foldl writeRegister s

/-! ### Notice reads (R180, R189) -/

/-- A read of bytes of the notice register: the raised set in the bytes read, and the whole set emptied (R180, R189). A read of no
byte is no read. -/
def readNotice (bytes : BitVec 4) (s : State) : State :=
  if bytes = 0 then s
  else
    let v := s.notices.raised.bits
    let s := s.setLink { s.link with readData := BitVec.ofNat 32 (if bytes.getLsbD 0 then v else 0) }
    s.setNotices { s.notices with raised := {} }

/-! ### The clock (R174, R175) -/

/-- The minute event (R175): none is made while the clock is not set, nor at the last minute index. -/
def minuteEvent (s : State) : State :=
  if s.clock.set ∧ s.clock.now < Config.lastMinuteIndex then
    if s.clock.minute < 1439 then s.setClock { s.clock with minute := s.clock.minute + 1 }
    else s.setClock { s.clock with minute := 0, day := s.clock.day + 1 }
  else s

/-- A lane's look-interval timer expires: the lane is looked at, which restarts the timer (R151). -/
def lookTimerExpires (n : Nat) (s : State) : State := if (s.laneState n).lookTimer.isSome then look n s else s

end Sys2Proof.Machine
end

