-- ==== Sys2Proof/Machine/EngineCommands.lean ====
section
/-! DEFINITION. The meanings of the commands to the engine: resets, control, registers, engine events and timers. Each applies what the
outside world did before it, then has its effect (log 2). -/

namespace Sys2Proof.Machine

/-- POWER_ON_RESET (R139, R186). -/
def execPowerOnReset (e : Outside) (s : State) : Host.Outcome State Fault Refusal :=
  .next (powerOn (s.outside e))

/-- SCRUB_END (R140). -/
def execScrubEnd (e : Outside) (s : State) : Host.Outcome State Fault Refusal :=
  .next (endScrub (s.outside e))

/-- LINK_RESET (R128, R181, R186). -/
def execLinkReset (e : Outside) (s : State) : Host.Outcome State Fault Refusal :=
  .next (linkResetAll (s.outside e))

/-- RESET (R128, R181). -/
def execReset (e : Outside) (s : State) : Host.Outcome State Fault Refusal :=
  .next (engineReset (s.outside e))

/-- RESET_END (R128, R142, R181). -/
def execResetEnd (e : Outside) (s : State) : Host.Outcome State Fault Refusal :=
  .next (endReset (s.outside e))

/-- START (R181, R183, R184 steps 1 to 4). -/
def execStart (e : Outside) (s : State) : Host.Outcome State Fault Refusal :=
  .next (startCommand (s.outside e))

/-- DRAIN (R127, R181). -/
def execDrain (e : Outside) (s : State) : Host.Outcome State Fault Refusal :=
  .next (drainCommand (s.outside e))

/-- CONTROL_UNKNOWN_COMMAND: a control write of a value that names no command (R181, R189). -/
def execControlUnknownCommand (value : Word32) (e : Outside) (s : State) : Host.Outcome State Fault Refusal :=
  .next (controlWrite value (s.outside e))

/-- REGISTER_WRITE (R185, R189). -/
def execRegisterWrite (offset : Nat) (data : List Byte) (e : Outside) (s : State) : Host.Outcome State Fault Refusal :=
  .next (registerAccess offset data (s.outside e))

/-- NUDGE (R151, R189). -/
def execNudge (value : Word32) (e : Outside) (s : State) : Host.Outcome State Fault Refusal :=
  .next (nudgeWrite value (s.outside e))

/-- NUDGE_255 (R151, R171). -/
def execNudge255 (e : Outside) (s : State) : Host.Outcome State Fault Refusal :=
  .next (nudgeAll (s.outside e))

/-- NOTICE_READ (R180, R189). -/
def execNoticeRead (bytes : BitVec 4) (e : Outside) (s : State) : Host.Outcome State Fault Refusal :=
  .next (readNotice bytes (s.outside e))

/-- STARTING_COMPLETE (R165, R184 steps 5 to 8). -/
def execStartingComplete (e : Outside) (s : State) : Host.Outcome State Fault Refusal :=
  .next (completeStarting (s.outside e))

/-- DRAIN_COMPLETE (R127). -/
def execDrainComplete (e : Outside) (s : State) : Host.Outcome State Fault Refusal :=
  .next (endDrain (s.outside e))

/-- MINUTE_EVENT (R175); the sweep's moves are SWEEP_MOVE commands (R84). -/
def execMinuteEvent (e : Outside) (s : State) : Host.Outcome State Fault Refusal :=
  .next (Machine.minuteEvent (s.outside e))

/-- SWEEP_MOVE (R84, R138). -/
def execSweepMove (e : Outside) (s : State) : Host.Outcome State Fault Refusal :=
  .next (sweepStep (s.outside e))

/-- LOOK_TIMER_EXPIRY (R151). -/
def execLookTimerExpiry (lane : Nat) (e : Outside) (s : State) : Host.Outcome State Fault Refusal :=
  .next (lookTimerExpires lane (s.outside e))

/-- NOTICE_HOLD_EXPIRY (R161). -/
def execNoticeHoldExpiry (lane : Nat) (e : Outside) (s : State) : Host.Outcome State Fault Refusal :=
  .next (holdTimerExpires lane (s.outside e))

end Sys2Proof.Machine
end

