-- ==== Sys2Proof/Machine/RequestCommands.lean ====
section
/-! DEFINITION. The meanings of the request commands: the request a worker holds at step 1 of R38 runs to its next wait or through its commit,
when it is of the command's row (log 5, log 7). -/

namespace Sys2Proof.Machine

/-- BALANCE (R47). -/
def execBalance (w : Nat) (e : Outside) (s : State) : Host.Outcome State Fault Refusal :=
  .next (beginRequest (ofKind .balance) w (s.outside e))

/-- ACTIVATE (R48, R49). -/
def execActivate (w : Nat) (e : Outside) (s : State) : Host.Outcome State Fault Refusal :=
  .next (beginRequest (ofKind .activate) w (s.outside e))

/-- LOAD (R50). -/
def execLoad (w : Nat) (e : Outside) (s : State) : Host.Outcome State Fault Refusal :=
  .next (beginRequest (ofKind .load) w (s.outside e))

/-- REDEEM (R53, R54). -/
def execRedeem (w : Nat) (e : Outside) (s : State) : Host.Outcome State Fault Refusal :=
  .next (beginRequest (ofKind .redeem) w (s.outside e))

/-- HOLD_OPEN (R56). -/
def execHoldOpen (w : Nat) (e : Outside) (s : State) : Host.Outcome State Fault Refusal :=
  .next (beginRequest (ofKind .holdOpen) w (s.outside e))

/-- HOLD_RENEW (R57). -/
def execHoldRenew (w : Nat) (e : Outside) (s : State) : Host.Outcome State Fault Refusal :=
  .next (beginRequest (ofKind .holdRenew) w (s.outside e))

/-- HOLD_CLOSE (R58, R59). -/
def execHoldClose (w : Nat) (e : Outside) (s : State) : Host.Outcome State Fault Refusal :=
  .next (beginRequest (ofKind .holdClose) w (s.outside e))

/-- HOLD_CANCEL (R60). -/
def execHoldCancel (w : Nat) (e : Outside) (s : State) : Host.Outcome State Fault Refusal :=
  .next (beginRequest (ofKind .holdCancel) w (s.outside e))

/-- REVERSE (R61). -/
def execReverse (w : Nat) (e : Outside) (s : State) : Host.Outcome State Fault Refusal :=
  .next (beginRequest (ofKind .reverse) w (s.outside e))

/-- CARD_STATUS SUSPEND (R66). -/
def execCardStatusSuspend (w : Nat) (e : Outside) (s : State) : Host.Outcome State Fault Refusal :=
  .next (beginRequest (ofAction .cardStatus 1) w (s.outside e))

/-- CARD_STATUS RESUME (R66). -/
def execCardStatusResume (w : Nat) (e : Outside) (s : State) : Host.Outcome State Fault Refusal :=
  .next (beginRequest (ofAction .cardStatus 2) w (s.outside e))

/-- CARD_STATUS UNLOCK (R66). -/
def execCardStatusUnlock (w : Nat) (e : Outside) (s : State) : Host.Outcome State Fault Refusal :=
  .next (beginRequest (ofAction .cardStatus 3) w (s.outside e))

/-- CARD_STATUS CLOSE (R67). -/
def execCardStatusClose (w : Nat) (e : Outside) (s : State) : Host.Outcome State Fault Refusal :=
  .next (beginRequest (ofAction .cardStatus 4) w (s.outside e))

/-- BONUS_GRANT (R68). -/
def execBonusGrant (w : Nat) (e : Outside) (s : State) : Host.Outcome State Fault Refusal :=
  .next (beginRequest (ofKind .bonusGrant) w (s.outside e))

/-- ROW_READ (R69). -/
def execRowRead (w : Nat) (e : Outside) (s : State) : Host.Outcome State Fault Refusal :=
  .next (beginRequest (ofKind .rowRead) w (s.outside e))

/-- ROW_WRITE (R70, R71). -/
def execRowWrite (w : Nat) (e : Outside) (s : State) : Host.Outcome State Fault Refusal :=
  .next (beginRequest (ofKind .rowWrite) w (s.outside e))

/-- TILL_WRITE REGISTER (R96). -/
def execTillWriteRegister (w : Nat) (e : Outside) (s : State) : Host.Outcome State Fault Refusal :=
  .next (beginRequest (ofAction .tillWrite 1) w (s.outside e))

/-- TILL_WRITE REMOVE (R96). -/
def execTillWriteRemove (w : Nat) (e : Outside) (s : State) : Host.Outcome State Fault Refusal :=
  .next (beginRequest (ofAction .tillWrite 2) w (s.outside e))

/-- TILL_RELEASE (R104). -/
def execTillRelease (w : Nat) (e : Outside) (s : State) : Host.Outcome State Fault Refusal :=
  .next (beginRequest (ofKind .tillRelease) w (s.outside e))

/-- RULE_WRITE (R33). -/
def execRuleWrite (w : Nat) (e : Outside) (s : State) : Host.Outcome State Fault Refusal :=
  .next (beginRequest (ofKind .ruleWrite) w (s.outside e))

/-- PROGRAMME_WRITE (R34). -/
def execProgrammeWrite (w : Nat) (e : Outside) (s : State) : Host.Outcome State Fault Refusal :=
  .next (beginRequest (ofKind .programmeWrite) w (s.outside e))

/-- LANE_MODE OPEN (R157, R158). -/
def execLaneModeOpen (w : Nat) (e : Outside) (s : State) : Host.Outcome State Fault Refusal :=
  .next (beginRequest (ofAction .laneMode 1) w (s.outside e))

/-- LANE_MODE PAUSED (R157, R158). -/
def execLaneModePaused (w : Nat) (e : Outside) (s : State) : Host.Outcome State Fault Refusal :=
  .next (beginRequest (ofAction .laneMode 2) w (s.outside e))

/-- CLOCK_SET (R177). -/
def execClockSet (w : Nat) (e : Outside) (s : State) : Host.Outcome State Fault Refusal :=
  .next (beginRequest (ofKind .clockSet) w (s.outside e))

/-- TRAIL_READ (R143). -/
def execTrailRead (w : Nat) (e : Outside) (s : State) : Host.Outcome State Fault Refusal :=
  .next (beginRequest (ofKind .trailRead) w (s.outside e))

/-- QUARANTINE_READ (R144). -/
def execQuarantineRead (w : Nat) (e : Outside) (s : State) : Host.Outcome State Fault Refusal :=
  .next (beginRequest (ofKind .quarantineRead) w (s.outside e))

/-- A request of no known kind or action (R39, R187). -/
def execUnknownKindRequest (w : Nat) (e : Outside) (s : State) : Host.Outcome State Fault Refusal :=
  .next (beginRequest ofUnknownKind w (s.outside e))

end Sys2Proof.Machine
end

