-- ==== Sys2Proof/Machine/UnitCommands.lean ====
section
/-! DEFINITION. The meanings of the commands of the Authorisation Units, the Answer and Notice Unit and the Journal Writer: dispatches,
resumptions, expiry jobs, answer writes and appends. -/

namespace Sys2Proof.Machine

/-- WORKER_DISPATCH (R114). -/
def execWorkerDispatch (w : Nat) (e : Outside) (s : State) : Host.Outcome State Fault Refusal :=
  .next (dispatchWorker w (s.outside e))

/-- RESUME_AFTER_TILL_LOCK (R115). -/
def execResumeAfterTillLock (w : Nat) (e : Outside) (s : State) : Host.Outcome State Fault Refusal :=
  .next (resumeTill w (s.outside e))

/-- RESUME_AFTER_CARD_LOCK (R115). -/
def execResumeAfterCardLock (w : Nat) (e : Outside) (s : State) : Host.Outcome State Fault Refusal :=
  .next (resumeCard w (s.outside e))

/-- BALANCE_ROOM_GRANTED (R46, R170). -/
def execBalanceRoomGranted (w : Nat) (e : Outside) (s : State) : Host.Outcome State Fault Refusal :=
  .next (roomGranted w (s.outside e))

/-- TRAIL_PLACE_FREED (R142). -/
def execTrailPlaceFreed (w : Nat) (e : Outside) (s : State) : Host.Outcome State Fault Refusal :=
  .next (trailFreed w (s.outside e))

/-- EXPIRY_JOB (R88). -/
def execExpiryJob (w : Nat) (e : Outside) (s : State) : Host.Outcome State Fault Refusal :=
  .next (beginJob w (s.outside e))

/-- ANSWER_WRITE (R159). -/
def execAnswerWrite (lane : Nat) (e : Outside) (s : State) : Host.Outcome State Fault Refusal :=
  .next (writeNextAnswer lane (s.outside e))

/-- JOURNAL_APPEND (R169). -/
def execJournalAppend (e : Outside) (s : State) : Host.Outcome State Fault Refusal :=
  .next (appendNext (s.outside e))

/-- JOURNAL_WRITE_RETRY (R169). -/
def execJournalWriteRetry (e : Outside) (s : State) : Host.Outcome State Fault Refusal :=
  .next (retryAppend (s.outside e))

end Sys2Proof.Machine
end

