-- ==== Sys2Proof/Machine/Dispatch.lean ====
section
/-! DEFINITION. The dispatch of every command to its meaning. -/

namespace Sys2Proof.Machine

def exec (i : Instr) (s : State) : Host.Outcome State Fault Refusal :=
  match i with
  | .powerOnReset e => Sys2Proof.Machine.execPowerOnReset e s
  | .scrubEnd e => Sys2Proof.Machine.execScrubEnd e s
  | .linkReset e => Sys2Proof.Machine.execLinkReset e s
  | .reset e => Sys2Proof.Machine.execReset e s
  | .resetEnd e => Sys2Proof.Machine.execResetEnd e s
  | .start e => Sys2Proof.Machine.execStart e s
  | .drain e => Sys2Proof.Machine.execDrain e s
  | .controlUnknownCommand value e => Sys2Proof.Machine.execControlUnknownCommand value e s
  | .registerWrite offset data e => Sys2Proof.Machine.execRegisterWrite offset data e s
  | .nudge value e => Sys2Proof.Machine.execNudge value e s
  | .nudge255 e => Sys2Proof.Machine.execNudge255 e s
  | .noticeRead bytes e => Sys2Proof.Machine.execNoticeRead bytes e s
  | .startingComplete e => Sys2Proof.Machine.execStartingComplete e s
  | .drainComplete e => Sys2Proof.Machine.execDrainComplete e s
  | .minuteEvent e => Sys2Proof.Machine.execMinuteEvent e s
  | .sweepMove e => Sys2Proof.Machine.execSweepMove e s
  | .lookTimerExpiry lane e => Sys2Proof.Machine.execLookTimerExpiry lane e s
  | .noticeHoldExpiry lane e => Sys2Proof.Machine.execNoticeHoldExpiry lane e s
  | .workerDispatch w e => Sys2Proof.Machine.execWorkerDispatch w e s
  | .resumeAfterTillLock w e => Sys2Proof.Machine.execResumeAfterTillLock w e s
  | .resumeAfterCardLock w e => Sys2Proof.Machine.execResumeAfterCardLock w e s
  | .balanceRoomGranted w e => Sys2Proof.Machine.execBalanceRoomGranted w e s
  | .trailPlaceFreed w e => Sys2Proof.Machine.execTrailPlaceFreed w e s
  | .expiryJob w e => Sys2Proof.Machine.execExpiryJob w e s
  | .balance w e => Sys2Proof.Machine.execBalance w e s
  | .activate w e => Sys2Proof.Machine.execActivate w e s
  | .load w e => Sys2Proof.Machine.execLoad w e s
  | .redeem w e => Sys2Proof.Machine.execRedeem w e s
  | .holdOpen w e => Sys2Proof.Machine.execHoldOpen w e s
  | .holdRenew w e => Sys2Proof.Machine.execHoldRenew w e s
  | .holdClose w e => Sys2Proof.Machine.execHoldClose w e s
  | .holdCancel w e => Sys2Proof.Machine.execHoldCancel w e s
  | .reverse w e => Sys2Proof.Machine.execReverse w e s
  | .cardStatusSuspend w e => Sys2Proof.Machine.execCardStatusSuspend w e s
  | .cardStatusResume w e => Sys2Proof.Machine.execCardStatusResume w e s
  | .cardStatusUnlock w e => Sys2Proof.Machine.execCardStatusUnlock w e s
  | .cardStatusClose w e => Sys2Proof.Machine.execCardStatusClose w e s
  | .bonusGrant w e => Sys2Proof.Machine.execBonusGrant w e s
  | .rowRead w e => Sys2Proof.Machine.execRowRead w e s
  | .rowWrite w e => Sys2Proof.Machine.execRowWrite w e s
  | .tillWriteRegister w e => Sys2Proof.Machine.execTillWriteRegister w e s
  | .tillWriteRemove w e => Sys2Proof.Machine.execTillWriteRemove w e s
  | .tillRelease w e => Sys2Proof.Machine.execTillRelease w e s
  | .ruleWrite w e => Sys2Proof.Machine.execRuleWrite w e s
  | .programmeWrite w e => Sys2Proof.Machine.execProgrammeWrite w e s
  | .laneModeOpen w e => Sys2Proof.Machine.execLaneModeOpen w e s
  | .laneModePaused w e => Sys2Proof.Machine.execLaneModePaused w e s
  | .clockSet w e => Sys2Proof.Machine.execClockSet w e s
  | .trailRead w e => Sys2Proof.Machine.execTrailRead w e s
  | .quarantineRead w e => Sys2Proof.Machine.execQuarantineRead w e s
  | .unknownKindRequest w e => Sys2Proof.Machine.execUnknownKindRequest w e s
  | .answerWrite lane e => Sys2Proof.Machine.execAnswerWrite lane e s
  | .journalAppend e => Sys2Proof.Machine.execJournalAppend e s
  | .journalWriteRetry e => Sys2Proof.Machine.execJournalWriteRetry e s

end Sys2Proof.Machine
end

