-- ==== Sys2Proof/Machine/Cycle.lean ====
section
/-! DEFINITION. One cycle of the 100 MHz reference clock (R174): what the block does when no command waits (log 6). -/

namespace Sys2Proof.Machine

/-- A timer one tick on: stopped stays stopped, and one that has run out stays at 0 until its event is taken. -/
def countDown (t : Option Nat) : Option Nat := t.map (fun n => n - 1)

/-- A timer runs out at this tick. -/
def runsOut (t : Option Nat) : Bool := decide (t = some 1)

/-- The lanes' timers one tick on (R151, R161, R174). -/
def tickLanes (m : List (Nat × LaneState)) : List (Nat × LaneState) :=
  mapLanes (fun l => { l with lookTimer := countDown l.lookTimer, holdTimer := countDown l.holdTimer }) m

/-- The commands of a tick event: the timers that run out and the retry of a failed entry write (R174). -/
def tickEvents (s : State) : List Instr :=
  s.lanes.lane.flatMap (fun p =>
    (if runsOut p.2.lookTimer then [Instr.lookTimerExpiry p.1 Outside.quiet] else []) ++
    (if runsOut p.2.holdTimer then [Instr.noticeHoldExpiry p.1 Outside.quiet] else [])) ++
  (if s.journal.retry then [Instr.journalWriteRetry Outside.quiet] else [])

/-- The commands of a minute event: the minute itself, then the sweep's move (R84, R174, R175). -/
def minuteEvents : List Instr := [Instr.minuteEvent Outside.quiet, Instr.sweepMove Outside.quiet]

/-- A second event (R174): at 59 the second returns to 0 and makes a minute event. -/
def secondEvent (s : State) : State :=
  if s.clock.second < 59 then s.setClock { s.clock with second := s.clock.second + 1 }
  else (s.setClock { s.clock with second := 0 }).setPending (s.pending ++ minuteEvents)

/-- A tick event (R174): the tick count advances, and at 99,999 it returns to 0 and makes a second event. -/
def tickEvent (s : State) : State :=
  let s := (s.setPending (s.pending ++ tickEvents s)).setLanes { s.lanes with lane := tickLanes s.lanes.lane }
  if s.clock.tick < 99999 then s.setClock { s.clock with tick := s.clock.tick + 1 }
  else secondEvent (s.setClock { s.clock with tick := 0 })

/-- One reference cycle (R174): nothing while the clock is not set; at 999 the phase returns to 0 and makes a tick event. -/
def cycle (s : State) : State :=
  if s.clock.set then
    if s.clock.phase < 999 then s.setClock { s.clock with phase := s.clock.phase + 1 }
    else tickEvent (s.setClock { s.clock with phase := 0 })
  else s

/-- A sweep that has fallen behind now (R84, R85, R86). -/
def State.sweepBehind (s : State) : Bool := match s.holds.sweep with | none => false | some p => decide (p < (s.clock.now : Int))

/-- The block with no command waiting (log 6): a sweep behind now makes its next move; else one reference cycle passes. -/
def idle (s : State) : State := if s.sweepBehind then s.setPending [Instr.sweepMove Outside.quiet] else cycle s

end Sys2Proof.Machine
end

