-- ==== Sys2Proof/Safety.lean ====
section
/-! DEFINITION. The terms in which statements speak: the invariants every step keeps, a request that reaches its own step 16, and what a
commit leaves. -/

namespace Sys2Proof.Machine

/-! ### Invariants -/

/-- Host memory and every sparse table of the state is in canonical form. -/
def State.canonical (s : State) : Bool :=
  Memory.wf s.link.mem && Sparse.wf {} s.lanes.lane && Sparse.wf none s.units.workers &&
  Sparse.wf {} s.tables.rules && Sparse.wf {} s.tables.programmes && Sparse.wf scrubbedCard s.store.cards &&
  Sparse.wf scrubbedTill s.store.tills && Sparse.wf scrubbedHold s.store.holds && Sparse.wf {} s.store.links &&
  Sparse.wf {} s.store.trail && Sparse.wf {} s.store.trailStatus && Sparse.wf {} s.holds.buckets

/-- Every counter of the clock chain is in its range (R174, R175). -/
def State.clockOk (s : State) : Bool :=
  decide (s.clock.phase < 1000) && decide (s.clock.tick < 100000) && decide (s.clock.second < 60) &&
  decide (s.clock.minute < 1440) && decide (s.clock.day ≤ Config.lastDay)

/-- The quarantine list holds at most 64 rows, with no duplicates (R135). -/
def State.quarantineOk (s : State) : Prop :=
  s.store.quarantine.length ≤ Config.quarantineCapacity ∧ (s.store.quarantine.map (fun q => (q.kind, q.index))).Nodup

/-- Each bank of the lock table has at most 8 entries in use, no two naming one row (R116). -/
def State.locksOk (s : State) : Prop :=
  s.locks.till.length ≤ Config.bankSize ∧ (s.locks.till.map (·.row)).Nodup ∧
  s.locks.card.length ≤ Config.bankSize ∧ (s.locks.card.map (·.row)).Nodup

/-- A till row's standing follows from its score and barred mark, the score is at most 255 and is 255 while barred, and the recent
list has at most 8 entries (R98, R106). -/
def TillRow.ok (t : TillRow) : Bool :=
  decide (t.standing = standingOf t.barred t.score) && decide (t.score ≤ 255) && (!t.barred || decide (t.score = 255)) &&
  decide (t.recent.length ≤ Config.recentCapacity)

/-- The till rows a prepared commit writes are in order. -/
def Phase.tillOk : Phase → Bool
  | .taken => true
  | .gotTill => true
  | .gotCard => true
  | .awaitRoom p => p.tillNew.all TillRow.ok
  | .roomGranted p => p.tillNew.all TillRow.ok
  | .awaitTrail p => p.tillNew.all TillRow.ok
  | .answering => true

/-- The till rows a piece of work carries are in order. -/
def Work.tillOk (k : Work) : Bool := k.till.all TillRow.ok && k.phase.tillOk

/-- Every till row, in the store and in the work in flight, is in order (R98, R106). -/
def State.tillsOk (s : State) : Prop :=
  (∀ i, (s.tillRow i).val.ok = true) ∧ (∀ w k, s.worker w = some k → k.tillOk = true) ∧
  (∀ x ∈ s.units.waiting, x.work.tillOk = true) ∧ (∀ k ∈ s.units.ready, k.tillOk = true)

/-! ### A request that reaches its own step 16 -/

/-- The worker holds, at step 1, a well-formed request of a kind, on a lane with authority for it (R38 steps 1 and 2). -/
structure Posted (kd : RequestKind) (w : Nat) (k : Work) (s : State) : Prop where
  held : s.atStepOne w = some k
  kind : k.kind? = some kd
  wellFormed : requestWellFormed k.half = true
  authority : kd.isTill = true ∨ k.onOfficeLane = true
  /-- the trail entry at the write place owes nothing (R142) -/
  trail : s.trailOwing s.store.trailPlace = false

/-- Till row `t` admits the request at steps 3 to 6 (R38, R95, R107, R100): it is in the table, readable without an error and the
till's own; its lock is free; the sequence is new; the standing gate admits the kind. -/
structure TillPasses (kd : RequestKind) (k : Work) (t : TillRow) (s : State) : Prop where
  inTable : k.req.tillIndex < Config.tills
  unlisted : s.isListed .till k.req.tillIndex = false
  stored : s.tillRow k.req.tillIndex = { val := t, ecc := .clean }
  admits : t.admits k.req = true
  free : s.lockHeld (.till k.req.tillIndex) = false
  bank : s.locks.till.length < Config.bankSize
  fresh : findRecent k.req.seq t.recent = none
  gate : standingGate kd (t.atSecondReading s.dir.recovery s.clock.reading.index).standing = none

/-- The card number passes steps 7 to 13: check digit, selection, allowed kind, serial, an unlisted row, a free card lock, and a row
`row` that reads without an error (R24, R26, R27, R30). -/
structure CardPasses (kd : RequestKind) (k : Work) (sel : Selection) (i : Nat) (row : CardRow) (s : State) : Prop where
  digit : checkDigitOk k.req.digits = true
  selected : selectProgramme s.tables k.req.digits = some sel
  allowed : kindAllowed kd sel = true
  serial : rowIndex sel k.req.serial = some i
  unlisted : s.isListed .card i = false
  free : s.lockHeld (.card i) = false
  bank : s.locks.card.length < Config.bankSize
  stored : s.card i = { val := row, ecc := .clean }

/-- The card row passes steps 14 and 15: it is the programme's own, its state admits the kind after upkeep, and the code check
passes (R3, R4, R5, R16, R17). -/
structure RowPasses (kd : RequestKind) (k : Work) (sel : Selection) (row : CardRow) (s : State) : Prop where
  owned : owned row sel.programmeNo = true
  gate : cardGate kd (upkeep kd sel s.clock.reading row).state = none
  code : (codeCheck kd k.req sel (upkeep kd sel s.clock.reading row)).reason = none

/-- A till request all of whose admission checks pass. -/
structure TillReady (kd : RequestKind) (w : Nat) (k : Work) (t : TillRow) (sel : Selection) (i : Nat) (row : CardRow) (s : State) :
    Prop where
  posted : Posted kd w k s
  isTill : kd.isTill = true
  till : TillPasses kd k t s
  card : CardPasses kd k sel i row s
  row : RowPasses kd k sel row s

/-- An office card request all of whose admission checks pass. -/
structure OfficeReady (kd : RequestKind) (w : Nat) (k : Work) (sel : Selection) (i : Nat) (row : CardRow) (s : State) : Prop where
  posted : Posted kd w k s
  office : kd = .cardStatus ∨ kd = .bonusGrant
  card : CardPasses kd k sel i row s
  row : RowPasses kd k sel row s

/-- A ROW_READ or ROW_WRITE request that comes to its step 16 with its row readable (R38, R40, R69, R70). -/
structure RowReady (kd : RequestKind) (w : Nat) (k : Work) (sel : Selection) (i : Nat) (row : CardRow) (s : State) : Prop where
  posted : Posted kd w k s
  kindOk : kd = .rowRead ∨ kd = .rowWrite
  card : CardPasses kd k sel i row s

/-- The work of a till request at step 16: both locks, both readings, the till row as read and its working copy, the selection. -/
def Work.tillServed (k : Work) (t : TillRow) (sel : Selection) (i : Nat) (s : State) : Work :=
  { k with
    tillLock := some k.req.tillIndex, tillReading := some s.clock.reading, tillRead := some t,
    till := some (t.atSecondReading s.dir.recovery s.clock.reading.index), selection := some sel, rowIndex := some i,
    cardLock := some i, cardReading := some s.clock.reading }

/-- The work of an office card request at step 16. -/
def Work.officeServed (k : Work) (sel : Selection) (i : Nat) (s : State) : Work :=
  { k with selection := some sel, rowIndex := some i, cardLock := some i, cardReading := some s.clock.reading }

/-- The state with the till lock of a request placed. -/
def State.tillLocked (s : State) (k : Work) : State :=
  s.setLocks { s.locks with till := s.locks.till ++ [{ row := k.req.tillIndex, holder := k.place }] }

/-- The state with a card lock placed. -/
def State.cardLocked (s : State) (k : Work) (i : Nat) : State :=
  s.setLocks { s.locks with card := s.locks.card ++ [{ row := i, holder := k.place }] }

/-- The state with both locks of a till request placed. -/
def State.bothLocked (s : State) (k : Work) (i : Nat) : State := (s.tillLocked k).cardLocked k i

/-- The card's working copy at step 16: upkeep and the code check made (R3, R17). -/
def workingRow (kd : RequestKind) (k : Work) (sel : Selection) (row : CardRow) (s : State) : CardRow :=
  (codeCheck kd k.req sel (upkeep kd sel s.clock.reading row)).card

/-- The plan a request brings to step 16: figures of the working copy, and the lapsed sum of its upkeep. -/
def servedPlan (kd : RequestKind) (k : Work) (sel : Selection) (row : CardRow) (s : State) : Plan :=
  { today := s.clock.day, card := some (workingRow kd k sel row s), cardRead := some row,
    lapsed := upkeepLapsed kd s.clock.reading row, seen := true }

/-- An office request without a card number that takes a till lock, at step 16. -/
structure TillTableReady (kd : RequestKind) (w : Nat) (k : Work) (s : State) : Prop where
  posted : Posted kd w k s
  kindOk : kd = .tillWrite ∨ kd = .tillRelease
  free : s.lockHeld (.till k.req.tillIndex) = false
  bank : s.locks.till.length < Config.bankSize

/-- An office request that takes no lock. -/
structure TableReady (kd : RequestKind) (w : Nat) (k : Work) (s : State) : Prop where
  posted : Posted kd w k s
  kindOk : kd = .ruleWrite ∨ kd = .programmeWrite ∨ kd = .laneMode ∨ kd = .clockSet ∨ kd = .trailRead ∨ kd = .quarantineRead

/-! ### What a commit leaves -/

/-- The hold row a hold operation acts on. -/
def HoldOp.row : HoldOp → Nat
  | .openRow i _ => i
  | .renewRow i _ => i
  | .freeRow i _ _ => i
  | .refile i => i
  | .requeue i => i

/-- The content a hold operation writes in a row (R80, R81, R82). -/
def HoldOp.contentOf (i : Nat) : HoldOp → Option HoldRow
  | .openRow j h => if j = i then some h else none
  | .renewRow j h => if j = i then some h else none
  | .freeRow j h _ => if j = i then some h else none
  | .refile _ => none
  | .requeue _ => none

/-- A hold operation writes a row FREE for an office, and so takes it out of the quarantine list (R136). -/
def HoldOp.unlists (i : Nat) : HoldOp → Bool
  | .openRow _ _ => false
  | .renewRow _ _ => false
  | .freeRow j _ u => u && decide (j = i)
  | .refile _ => false
  | .requeue _ => false

/-- The commit of a plan takes a row out of the quarantine list (R136). -/
def Plan.unlists (p : Plan) (q : Listed) : Bool :=
  p.leaves.contains (q.kind, q.index) || (decide (q.kind = .hold) && p.holdOps.any (HoldOp.unlists q.index))

/-- What a commit of work `k`, sealed as `x`, leaves of the store, the Hold Table and the journal (R123 steps 1 to 3, R124): the rows, the hold
rows' contents, the chains as its operations alone make them of `s` (state `m`) with the work's entries out of the hand list, the quarantine list
and its count word (R136), the header's next movement number (R131), the trail entry with serial and place (R142), the numbers and the queued
entries. -/
structure StoresCommitted (k : Work) (x : Sealed) (m s t : State) : Prop where
  card : ∀ i, k.cardLock = some i → x.writesCard = true → t.card i = { val := x.card.getD {}, ecc := .clean }
  otherCards : ∀ j, (k.cardLock ≠ some j ∨ x.writesCard = false) → t.card j = s.card j
  till : ∀ i r, k.tillLock = some i → x.till = some r → t.tillRow i = { val := r, ecc := .clean }
  otherTills : ∀ j, (k.tillLock ≠ some j ∨ x.till = none) → t.tillRow j = s.tillRow j
  holdRows : ∀ i, t.hold i = (match x.plan.holdOps.findSome? (HoldOp.contentOf i) with
    | some h => { val := h, ecc := .clean }
    | none => s.hold i)
  links : t.store.links = m.store.links
  holds : t.holds = { m.holds with hand := m.holds.hand.filter (fun h => decide (h.place ≠ k.place)) }
  quarantine : t.store.quarantine = s.store.quarantine.filter (fun q => !x.plan.unlists q)
  countWord : (∃ q ∈ s.store.quarantine, x.plan.unlists q = true) → ∀ a, s.control.engineWords = some a →
    (∀ i, i < 4 → s.link.writeFailsAt (a + 264 + i) = false) →
    memBytes t.link.mem (a + 264) 4 = leBytes 4 t.store.quarantine.length
  memory : ∀ y, (∀ a, s.control.engineWords = some a → y < a + 264 ∨ a + 268 ≤ y) →
    Memory.read t.link.mem y = Memory.read s.link.mem y
  link : (∀ q ∈ s.store.quarantine, x.plan.unlists q = false) → t.link = s.link
  header : ∀ y, x.entries.getLast? = some y →
    (let n := nextMovement y.number
    t.store.header =
      { header := { s.header with next := if movementLater n s.header.next then s.header.next else n }, one := .clean, two := .clean })
  headerKept : x.entries = [] → t.store.header = s.store.header
  trail : t.trailCell s.store.trailPlace = { entry := x.trailEntry k s.store.trailSerial, ecc := .clean }
  otherTrail : ∀ n, n ≠ s.store.trailPlace → t.trailCell n = s.trailCell n ∧ t.trailStatusAt n = s.trailStatusAt n
  onChip : t.trailStatusAt s.store.trailPlace =
    { journal := if x.entries = [] then .none else .pending, answer := if k.isRequest then .pending else .none }
  trailNext : t.store.trailSerial = s.store.trailSerial + 1 ∧ t.store.trailPlace = (s.store.trailPlace + 1) % 32
  store : { t.store with
    cards := s.store.cards, tills := s.store.tills, holds := s.store.holds, links := s.store.links, header := s.store.header
    trail := s.store.trail, trailStatus := s.store.trailStatus, trailSerial := s.store.trailSerial, trailPlace := s.store.trailPlace
    quarantine := s.store.quarantine } = s.store
  numbers : t.journal.next = s.journal.next.map (fun n => movementAfter n x.entries.length)
  queue : t.journal.queue = s.journal.queue ++ queued s.store.trailPlace x.entries
  rest : { t with
    store := s.store, holds := s.holds, journal := s.journal, locks := s.locks, units := s.units, notices := s.notices
    link := { t.link with mem := s.link.mem } } = s

/-- What the commit of a request leaves beside its stores (R123 steps 4 and 5): the card lock is released (R119), the answer handed with its TILL
cause (R102), and the worker waits for it. -/
structure Committed (w : Nat) (k : Work) (x : Sealed) (m s t : State) : Prop where
  stores : StoresCommitted k x m s t
  journal : { t.journal with next := s.journal.next, queue := s.journal.queue } = s.journal
  released : t.locks = (releaseCard k.cardLock s).locks ∧ t.units.waiting = (releaseCard k.cardLock s).units.waiting ∧
    t.units.ready = (releaseCard k.cardLock s).units.ready ∧ t.locks.till = s.locks.till
  answer : ∃ a : HandedAnswer, t.notices = { s.notices with answers := s.notices.answers ++ [a] } ∧ a.half = x.half ∧
    (∃ h, k.task = .request a.lane a.slot a.entry h) ∧ a.worker = some w ∧ a.trail = some s.store.trailPlace ∧
    (a.tillCause = true ↔ k.till ≠ none ∧ ∃ r q, k.tillRead = some r ∧ x.till = some q ∧
      ((r.standing = .good ∧ q.standing = .watched) ∨ (r.barred = false ∧ q.barred = true)))
  worker : t.worker w = some { k with room := k.room - x.entries.length, cardLock := none, phase := .answering }
  otherWorkers : ∀ v, v ≠ w → t.worker v = s.worker v
  pool : t.units.places = s.units.places ∧ t.units.roomWaiters = s.units.roomWaiters

/-- What the commit of an expiry job leaves beside its stores (R88, R123 steps 4, 6 and 7): the card lock is released, the place and the room not
handed over are returned, the worker is FREE, and no answer is handed. -/
structure JobCommitted (w : Nat) (k : Work) (x : Sealed) (m s t : State) : Prop where
  stores : StoresCommitted k x m s t
  journal : { t.journal with next := s.journal.next, queue := s.journal.queue } =
    { s.journal with reserved := s.journal.reserved - (k.room - x.entries.length) }
  released : t.locks = (releaseCard k.cardLock s).locks ∧ t.units.waiting = (releaseCard k.cardLock s).units.waiting ∧
    t.units.ready = (releaseCard k.cardLock s).units.ready ∧ t.locks.till = s.locks.till
  notices : t.notices = s.notices
  worker : t.worker w = none
  otherWorkers : ∀ v, v ≠ w → t.worker v = s.worker v
  pool : t.units.places = s.units.places.filter (fun q => decide (q ≠ k.place)) ∧ t.units.roomWaiters = []

/-- Worker `w` has put its work into the pool behind the other waiters and is FREE; nothing else has moved (R121). -/
structure Pooled (w : Nat) (l : LockName) (k : Work) (s t : State) : Prop where
  worker : t.worker w = none
  others : ∀ v, v ≠ w → t.worker v = s.worker v
  waiting : t.units.waiting = s.units.waiting ++ [{ lock := l, work := k }]
  units : { t.units with workers := s.units.workers, waiting := s.units.waiting } = s.units
  rest : { t with units := s.units } = s

/-- Hold row `i` gives its content `h`, and reading it leaves `t` of `s`: a read that is corrected writes the row back (R132, R133). -/
def HoldRead (i : Nat) (h : HoldRow) (s t : State) : Prop :=
  s.isListed .hold i = false ∧ (s.hold i).val = h ∧
  (((s.hold i).ecc = .clean ∧ t = s) ∨ ((s.hold i).ecc.outcome = .corrected ∧ t = s.putHold i h))

/-- State `v` is `s` but for wrong bits in till row `i` and card row `j`, which a read of the row puts right (R132). -/
structure Corrupted (i j : Nat) (s v : State) : Prop where
  till : (v.tillRow i).val = (s.tillRow i).val ∧ (v.tillRow i).ecc.outcome ≠ .uncorrectable
  otherTills : ∀ n, n ≠ i → v.tillRow n = s.tillRow n
  card : (v.card j).val = (s.card j).val ∧ (v.card j).ecc.outcome ≠ .uncorrectable
  otherCards : ∀ n, n ≠ j → v.card n = s.card n
  store : { v.store with tills := s.store.tills, cards := s.store.cards } = s.store
  rest : { v with store := s.store } = s

/-- State `u` reads as `s` in every till row and every card row, and is `s` in all else. -/
structure ReadsAs (s u : State) : Prop where
  tills : ∀ n, u.tillRow n = s.tillRow n
  cards : ∀ n, u.card n = s.card n
  store : { u.store with tills := s.store.tills, cards := s.store.cards } = s.store
  rest : { u with store := s.store } = s

/-- Hold row `i` gives no data, and reading it leaves `t` of `s`: it is in the quarantine list and is not read, or its read is uncorrectable
and it joins the list (R83, R134, R135). -/
def HoldUnread (i : Nat) (s t : State) : Prop :=
  (s.isListed .hold i = true ∧ t = s) ∨
  (s.isListed .hold i = false ∧ (s.hold i).ecc.outcome = .uncorrectable ∧ t = quarantineJoin .hold i s)

/-- The link word of row `i` is read, from copy one or else from copy two, and names `n` as the next row; reading it leaves `t` of `s`, copy one put
right (R137). -/
def LinkRead (i : Nat) (n : Option Nat) (s t : State) : Prop :=
  n = nextTarget i (s.linkWord i).word ∧
  (((s.linkWord i).one.outcome = .clean ∧ t = s) ∨
    ((s.linkWord i).one.outcome = .corrected ∧ t = s.putLinkStored i { s.linkWord i with one := .clean }) ∨
    ((s.linkWord i).one.outcome = .uncorrectable ∧ (s.linkWord i).two.outcome ≠ .uncorrectable ∧
      t = s.putLinkStored i { word := (s.linkWord i).word, one := .clean, two := .clean }))

/-- A claim search passes over free row `i`, which leaves `t` of `s`: a CLAIM entry names the row, or it gives no data (R79). -/
def ClaimPassed (i : Nat) (s t : State) : Prop := (s.isClaimed i = true ∧ t = s) ∨ (s.isClaimed i = false ∧ HoldUnread i s t)

/-- A handout search passes over due row `i`, which leaves `t` of `s`: the hand list names the row, or it gives no data, or its card row is in the
quarantine list (R87). -/
def DuePassed (i : Nat) (s t : State) : Prop :=
  (s.inHand i = true ∧ t = s) ∨
  (s.inHand i = false ∧ (HoldUnread i s t ∨ ∃ h, HoldRead i h s t ∧ s.isListed .card h.card = true))

/-- A search along a chain passes over some rows, in their order, and comes to the row after them, or to the chain's end: it takes state `s` to `t`
(R79, R87). `passed` says what one row passed over leaves, and each one's link word is read to go on (log 54). -/
inductive RowsPassed (passed : Nat → State → State → Prop) : Option Nat → List Nat → Option Nat → State → State → Prop where
  | here (c : Option Nat) (s : State) : RowsPassed passed c [] c s s
  | on (i : Nat) (n : Option Nat) (js : List Nat) (c : Option Nat) (s u v t : State) :
      passed i s u → LinkRead i n u v → RowsPassed passed n js c v t → RowsPassed passed (some i) (i :: js) c s t

/-- What an expiry job `k` that holds its card lock decides in state `s`, by the first case that applies (R88, R89, R90): its command answers
`out`. -/
def JobDecides (w hold gen card : Nat) (k : Work) (s : State) (out : Host.Outcome State Fault Refusal) : Prop :=
  let base : Plan := { today := s.clock.day, holdIndex := some hold }
  let entry : Prop := ∃ x ∈ s.holds.hand, x.kind = .expiry ∧ x.hold = hold ∧ x.gen = gen ∧ x.place = k.place
  (s.isListed .card card = true → out = .next (commitNow w k base s)) ∧
  (∀ row t, s.isListed .card card = false → s.card card = { val := row, ecc := .clean } → HoldUnread hold s t →
    out = .next (commitNow w k base t)) ∧
  (∀ row h, s.isListed .card card = false → s.card card = { val := row, ecc := .clean } → s.isListed .hold hold = false →
    s.hold hold = { val := h, ecc := .clean } →
    (¬ entry ∨ h.isOpen = false ∨ h.gen ≠ gen → out = .next (commitNow w k base s)) ∧
    (entry → h.isOpen = true → h.gen = gen → s.clock.now < h.deadline →
      out = .next (commitNow w k { base with holdOps := [.refile hold] } s)) ∧
    (entry → h.isOpen = true → h.gen = gen → h.deadline ≤ s.clock.now →
      (∀ a, findRef { index := hold, gen := gen } row = some { index := hold, gen := gen, amount := a } →
        out = .next (commitNow w k { base with
          card := some { row with
            refs := row.refs.filter (fun q => !(decide (q.index = hold) && decide (q.gen = gen))), held := row.held - a }
          cardRead := some row, own := [(.holdExpire, [hold, gen, h.seq, h.amount, a, h.deadline])]
          holdOps := [.freeRow hold { h with isOpen := false, gen := (gen + 1) % 256 } false], openedBy := some (h.till, h.seq) } s)) ∧
      (findRef { index := hold, gen := gen } row = none →
        out = .next (commitNow w k { base with
          card := some row, cardRead := some row, own := [(.holdExpire, [hold, gen, h.seq, h.amount, 0, h.deadline])]
          holdOps := [.freeRow hold { h with isOpen := false, gen := (gen + 1) % 256 } false], openedBy := some (h.till, h.seq) } s)))) ∧
  (s.isListed .card card = false → (s.card card).ecc.outcome = .uncorrectable → 64 ≤ s.store.quarantine.length →
    (let t := quarantineJoin .card card s
    (s.store.overflow = true → t = s) ∧
    (s.store.overflow = false → t.store = { s.store with overflow := true } ∧ t.notices = { s.notices with raised := s.notices.raised.add .store } ∧
      { t with store := s.store, notices := s.notices, link := { t.link with msiSent := s.link.msiSent } } = s) ∧
    (entry → out = .next (commitNow w k { base with holdOps := [.requeue hold] } t)) ∧ (¬ entry → out = .next (commitNow w k base t)))) ∧
  (s.isListed .card card = false → (s.card card).ecc.outcome = .uncorrectable → s.store.quarantine.length < 64 →
    out = .next (commitNow w k base (quarantineJoin .card card s)))

/-- The engine has met a lost link word in state `s` (R138): the chain-damaged mark, STORE and ENGINE, FAULTED with LINK_LOST, the work in flight
gone, the lanes still but for what their answers wait on, and the chains, flags, registers and clock kept. -/
structure LinkLost (s t : State) : Prop where
  control : t.control = { s.control with engine := .faulted, fault := .linkLost }
  header : t.header.damaged = true ∧ t.header.partition = s.header.partition
  notices : t.notices = { s.notices with raised := (s.notices.raised.add .store).add .engine, answers := [] }
  units : t.units = { workers := [], waiting := [], ready := [], places := [], roomWaiters := [] }
  locks : t.locks = { till := [], card := [] }
  holds : t.holds = { s.holds with hand := [] }
  journal : t.journal = { s.journal with queue := [], reserved := 0, next := none, retry := false }
  lanes : s.canonical = true → ∀ n, t.laneState n =
    { scan := 0, isOpen := false, lookTimer := none, ready := false, tally := (s.laneState n).tally
      pendingAnswers := (s.laneState n).pendingAnswers, holdTimer := (s.laneState n).holdTimer }
  lastServed : t.lanes.lastServed = none
  trail : ∀ n, n < 32 → (t.trailStatusAt n).journal ≠ .pending ∧ (t.trailStatusAt n).answer ≠ .pending
  links : t.store.links = s.store.links
  overflow : t.store.overflow = s.store.overflow
  clock : t.clock = s.clock
  tables : t.tables = s.tables
  pending : t.pending = s.pending
  link : { t.link with mem := s.link.mem, msiSent := s.link.msiSent } = s.link

/-- Both copies of the link word of row `i` are lost (R137, R138). -/
def State.linkIsLost (s : State) (i : Nat) : Prop :=
  (s.linkWord i).one.outcome = .uncorrectable ∧ (s.linkWord i).two.outcome = .uncorrectable

/-! ### Words of the statements -/

/-- The card state gate declines till kind `kd` on a card in state `st` with reason `r` (R4's table). A REVERSE on an
ISSUED card is declined as the table has it (log 53). -/
def GateDeclines (kd : RequestKind) (st : CardState) (r : Reason) : Prop :=
  (st = .issued ∧ kd ≠ .activate ∧ kd ≠ .balance ∧ r = .notActive) ∨
  (st = .suspended ∧ kd ≠ .balance ∧ kd ≠ .holdCancel ∧ kd ≠ .reverse ∧ r = .suspended) ∨
  (st = .locked ∧ kd ≠ .reverse ∧ r = .locked) ∨
  (st = .closed ∧ r = .notActive)

/-- What a trail status becomes at the end of a reset: PENDING becomes ABANDONED (R142). -/
def TrailStatus.settled : TrailStatus → TrailStatus
  | .none => .none
  | .pending => .abandoned
  | .done => .done
  | .abandoned => .abandoned

/-- A lane as a look leaves it (R150, R151). -/
def State.lookedAt (s : State) (n : Nat) (e : LaneEntry) : LaneState :=
  { s.laneState n with ready := slotIsPosted s e (s.laneState n).scan, lookTimer := some e.lookInterval }

/-- A lane's slot at its scan position reads `half`, and no work in flight came from it (R153, R154). -/
def State.slotReads (s : State) (n : Nat) (l : LaneEntry) (half : List Byte) : Prop :=
  s.laneEntry n = some l ∧ linkRead s (l.base + (s.laneState n).scan * 128) 64 = some half ∧ s.inFlight n (s.laneState n).scan = false

/-- The take attempts on some lanes, in their order, that give the worker no request and withdraw none: they take state `s` to `t` (R153). A slot
that cannot be read, is not POSTED or is still in flight clears its lane's ready mark (cases 1 and 2, R154); a missing pool place leaves all as it
was, and missing room leaves what the refresh of R170 left (case 5). -/
inductive PassedOver : List Nat → State → State → Prop where
  | nil (s : State) : PassedOver [] s s
  | cleared (n : Nat) (ns : List Nat) (s t : State) (l : LaneEntry) :
      s.laneEntry n = some l →
      (linkRead s (l.base + (s.laneState n).scan * 128) 64 = none ∨
        ∃ half, linkRead s (l.base + (s.laneState n).scan * 128) 64 = some half ∧
          (byteAt half 0 ≠ 1 ∨ s.inFlight n (s.laneState n).scan = true)) →
      PassedOver ns (s.setLaneState n { s.laneState n with ready := false }) t → PassedOver (n :: ns) s t
  | noPlace (n : Nat) (ns : List Nat) (s t : State) (l : LaneEntry) (half : List Byte) :
      s.slotReads n l half → byteAt half 0 = 1 → byteAt half 1 = 0 → (∀ p, p < 32 → p ∈ s.units.places) →
      PassedOver ns s t → PassedOver (n :: ns) s t
  | noRoom (n : Nat) (ns : List Nat) (s t : State) (l : LaneEntry) (half : List Byte) :
      s.slotReads n l half → byteAt half 0 = 1 → byteAt half 1 = 0 → (∃ p, p < 32 ∧ p ∉ s.units.places) → 0 < takeRoom half →
      s.dir.journalCount < s.journal.written - s.journal.cached + s.journal.reserved + takeRoom half →
      (let u := refreshDrained s
      u.dir.journalCount < u.journal.written - u.journal.cached + u.journal.reserved + takeRoom half) →
      PassedOver ns (refreshDrained s) t → PassedOver (n :: ns) s t

/-- Worker `w` has taken the slot at the scan position of lane `n` in state `s`, with a pool place and journal room (R154). -/
structure Taken (w n p room : Nat) (l : LaneEntry) (half : List Byte) (s t : State) : Prop where
  worker : t.worker w = some { task := .request n (s.laneState n).scan l half, place := p, room := room }
  others : ∀ v, v ≠ w → t.worker v = s.worker v
  place : p < 32 ∧ p ∉ s.units.places ∧ t.units.places = s.units.places ++ [p]
  journal : t.journal = { s.journal with reserved := s.journal.reserved + room }
  link : (let a := l.base + (s.laneState n).scan * 128
    t.link = { s.link with mem := if s.link.writeFailsAt a then s.link.mem else Memory.write s.link.mem a 2 })
  lane : (let next := if (s.laneState n).scan + 1 < l.slotCount then (s.laneState n).scan + 1 else 0
    t.laneState n = { s.laneState n with scan := next, ready := slotIsPosted t l next, lookTimer := some l.lookInterval })
  otherLanes : ∀ m, m ≠ n → t.laneState m = s.laneState m
  served : t.lanes.lastServed = some n
  rest : { t with units := s.units, journal := s.journal, link := s.link, lanes := s.lanes } = s
  units : { t.units with workers := s.units.workers, places := s.units.places } = s.units

/-- The value of trailer item `n` + 1, in the fixed order of R160, in the answer of work `k` that commits plan `p`, sealed as `x`; none where it does
not apply (R28, R44, R101). The service stamp is filled in at the answer write (R174). -/
def answerItem (k : Work) (p : Plan) (x : Sealed) (n : Nat) : Option (List Byte) :=
  match n with
  | 0 => some (zeroBytes 8)
  | 1 => (match p.repeated with
    | some y => y.movement
    | none => x.entries.getLast?.map JournalEntry.number).map (fun m => leBytes 6 m ++ zeroBytes 2)
  | 2 => k.selection.map (fun sel => leBytes 2 sel.rule.label ++ leBytes 1 sel.programmeNo ++ zeroBytes 5)
  | 3 => (if k.till.isSome then x.till else none).map (fun r => leBytes 1 r.standing.code ++ leBytes 1 r.score ++ zeroBytes 6)
  | 4 => (if p.seen then p.card else none).bind (fun c => k.selection.bind (fun sel =>
    if c.code = none then none else some (leBytes 1 (sel.programme.triesLimit - c.tries) ++ zeroBytes 7)))
  | 5 => p.holdItem.map (fun h => leBytes 8 (h.2.2 + 2 ^ 27 * h.2.1 + 2 ^ 35 * h.1))
  | _ => (if p.seen then p.card else none).bind (fun c =>
    (c.lots.find? (fun l => match l.expiry with | some d => decide (p.today ≤ d) | none => false)).map
      (fun l => leBytes 2 (l.expiry.getD 0) ++ leBytes 4 l.amount ++ zeroBytes 2))

/-! ### Buckets that join the due chain (R78, R84, R85) -/

/-- Bucket `b` of state `s` has joined the tail of the due chain in its own order, which gives `t` (R78). An empty bucket changes nothing. -/
structure BucketJoined (b : Nat) (s t : State) : Prop where
  empty : (s.chain (.bucket b)).head = none → t = s
  due : ∀ h, (s.chain (.bucket b)).head = some h → t.holds.due =
    { head := match s.holds.due.head with | some y => some y | none => some h
      tail := (s.chain (.bucket b)).tail, count := s.holds.due.count + (s.chain (.bucket b)).count }
  bucket : (s.chain (.bucket b)).head ≠ none → t.chain (.bucket b) = { head := none, tail := none, count := 0 }
  otherBuckets : ∀ c, c ≠ b → t.chain (.bucket c) = s.chain (.bucket c)
  link : ∀ h x, (s.chain (.bucket b)).head = some h → s.holds.due.tail = some x →
    nextTarget x (t.linkWord x).word = some h ∧ prevTarget h (t.linkWord h).word = some x ∧
    (h ≠ x → (t.linkWord x).word.prev = (s.linkWord x).word.prev ∧ (t.linkWord h).word.next = (s.linkWord h).word.next)
  otherLinks : ∀ i, (s.holds.due.tail = none ∨ (s.holds.due.tail ≠ some i ∧ (s.chain (.bucket b)).head ≠ some i)) →
    t.linkWord i = s.linkWord i
  holds : { t.holds with due := s.holds.due, buckets := s.holds.buckets } = s.holds
  store : { t.store with links := s.store.links } = s.store
  rest : { t with holds := s.holds, store := s.store } = s

/-- All 4096 buckets of `s` have joined the due chain, one after the other from bucket (`p` + 1) modulo 4096 on and going round (R85). -/
def AllBucketsJoined (p : Int) (s t : State) : Prop :=
  (∃ at_ : Nat → State, at_ 0 = s ∧ at_ 4096 = t ∧
    ∀ (k b : Nat), k < 4096 → (b : Int) = (p + 1 + k) % 4096 → BucketJoined b (at_ k) (at_ (k + 1))) ∧
  (∀ b, b < 4096 → (t.chain (.bucket b)).head = none)

/-! ### The rebuild of the hold chains (R138) -/

/-- The chain in which the rebuild places a row, the sweep position being `p` (R77, R138): the free chain for a FREE row and for one that is listed
or cannot be read, and by the filing rule for an OPEN one. -/
def State.rebuiltIn (s : State) (p : Option Int) (i : Nat) : ChainId :=
  if s.isListed .hold i = true ∨ (s.hold i).ecc.outcome = .uncorrectable ∨ (s.hold i).val.isOpen = false then .free
  else match p with
    | none => .due
    | some p => if p < ((s.hold i).val.deadline : Int) then .bucket ((s.hold i).val.deadline % 4096) else .due

/-- The rows 0 to `n` - 1 of `s` that the rebuild places in a chain, in index order. -/
def State.rebuiltRows (s : State) (p : Option Int) (n : Nat) (c : ChainId) : List Nat :=
  (List.range n).filter (fun i => decide (s.rebuiltIn p i = c))

/-- The rebuild has made the chains of `t` from the `n` hold rows of `s` (R138): each chain holds its rows in index order, linked both ways, every
link word fresh in both copies; a row that cannot be read is listed where the list has room (R135); contents are kept. -/
structure ChainsRebuilt (n : Nat) (s t : State) : Prop where
  chains : ∀ c, (let l := s.rebuiltRows t.holds.sweep n c
    t.chain c = { head := l.head?, tail := l.getLast?, count := l.length } ∧
    ∀ j x, l[j]? = some x → nextTarget x (t.linkWord x).word = l[j + 1]? ∧
      prevTarget x (t.linkWord x).word = (if j = 0 then none else l[j - 1]?))
  fresh : ∀ i, i < n → (t.linkWord i).one = .clean ∧ (t.linkWord i).two = .clean
  contents : ∀ i, (t.hold i).val = (s.hold i).val
  hand : t.holds.hand = s.holds.hand
  kept : ∀ q ∈ s.store.quarantine, q ∈ t.store.quarantine
  listed : ∀ i, i < n → (s.hold i).ecc.outcome = .uncorrectable → t.isListed .hold i = true ∨ t.store.overflow = true
  allRead : (∀ i, i < n → s.isListed .hold i = true ∨ (s.hold i).ecc.outcome ≠ .uncorrectable) →
    t.store.quarantine = s.store.quarantine ∧ t.store.overflow = s.store.overflow ∧ t.notices = s.notices ∧ t.link = s.link
  raised : t.notices = s.notices ∨ t.notices = { s.notices with raised := s.notices.raised.add .store }
  memory : ∀ y, (∀ a, t.control.engineWords = some a → y < a + 264 ∨ a + 268 ≤ y) →
    Memory.read t.link.mem y = Memory.read s.link.mem y
  link : { t.link with mem := s.link.mem, msiSent := s.link.msiSent } = s.link

/-- The request commands, each with the requests that are of its row. -/
def requestCommands : List ((Nat → Outside → Instr) × (Req → Bool)) :=
  [(.balance, ofKind .balance), (.activate, ofKind .activate), (.load, ofKind .load), (.redeem, ofKind .redeem),
   (.holdOpen, ofKind .holdOpen), (.holdRenew, ofKind .holdRenew), (.holdClose, ofKind .holdClose),
   (.holdCancel, ofKind .holdCancel), (.reverse, ofKind .reverse), (.cardStatusSuspend, ofAction .cardStatus 1),
   (.cardStatusResume, ofAction .cardStatus 2), (.cardStatusUnlock, ofAction .cardStatus 3),
   (.cardStatusClose, ofAction .cardStatus 4), (.bonusGrant, ofKind .bonusGrant), (.rowRead, ofKind .rowRead),
   (.rowWrite, ofKind .rowWrite), (.tillWriteRegister, ofAction .tillWrite 1), (.tillWriteRemove, ofAction .tillWrite 2),
   (.tillRelease, ofKind .tillRelease), (.ruleWrite, ofKind .ruleWrite), (.programmeWrite, ofKind .programmeWrite),
   (.laneModeOpen, ofAction .laneMode 1), (.laneModePaused, ofAction .laneMode 2), (.clockSet, ofKind .clockSet),
   (.trailRead, ofKind .trailRead), (.quarantineRead, ofKind .quarantineRead), (.unknownKindRequest, ofUnknownKind)]

/-- The commands of the till kinds. -/
def tillCommands : List ((Nat → Outside → Instr) × RequestKind) :=
  [(.balance, .balance), (.activate, .activate), (.load, .load), (.redeem, .redeem), (.holdOpen, .holdOpen),
   (.holdRenew, .holdRenew), (.holdClose, .holdClose), (.holdCancel, .holdCancel), (.reverse, .reverse)]

/-- Till row `t` admits the request's two readings (R95): it is in the table, readable without an error and the till's own, and its lock
is free. -/
structure TillReads (k : Work) (t : TillRow) (s : State) : Prop where
  inTable : k.req.tillIndex < Config.tills
  unlisted : s.isListed .till k.req.tillIndex = false
  stored : s.tillRow k.req.tillIndex = { val := t, ecc := .clean }
  admits : t.admits k.req = true
  free : s.lockHeld (.till k.req.tillIndex) = false
  bank : s.locks.till.length < Config.bankSize

/-- The work of a till request at step 5: the till lock, the till reading, the row as read and its working copy. -/
def Work.tillRowRead (k : Work) (t : TillRow) (s : State) : Work :=
  { k with
    tillLock := some k.req.tillIndex, tillReading := some s.clock.reading, tillRead := some t,
    till := some (t.atSecondReading s.dir.recovery s.clock.reading.index) }

/-- The plan of an approved ACTIVATE or LOAD of amount `a` (R49 to R52): `c` is the working copy with its state changes, `paid` its lots with
the paid value added. The bonus due is cut to the programme's cap on bonuses and then to the headroom; it is added to the lots when there is
room for it. -/
def LoadPlan (g : Programme) (kind : JournalKind) (a : Nat) (c : CardRow) (paid : List Lot) (p q : Plan) : Prop :=
  let due := if g.bonusRate = 0 ∨ a < g.bonusThreshold then 0 else min (a * g.bonusRate / 1000) g.bonusCap
  let headroom := g.cap - balance p.today paid
  let bonus := min due headroom
  let day := min (p.today + g.bonusLife) 65535
  ∃ (lots : List Lot) (granted : Nat) (withheld : Bool),
    (bonus = 0 → lots = paid ∧ granted = 0 ∧ withheld = false) ∧
    (∀ ls, 1 ≤ bonus → addBonus bonus day paid = some ls → lots = ls ∧ granted = bonus ∧ withheld = false) ∧
    (1 ≤ bonus → addBonus bonus day paid = none → lots = paid ∧ granted = 0 ∧ withheld = true) ∧
    q = { p with
      result := .approved, reason := .none, approved := a, bonus := granted
      card := some { c with lots := lots, lastUseDay := some p.today }
      flags := { p.flags with bonusClamped := decide (headroom < due), bonusWithheld := withheld }
      own := (kind, [a]) :: (if granted = 0 then [] else [(.bonus, [granted, day])])
      parts := if granted = 0 then [] else [{ expiry := some day, amount := granted }] }

/-- The engine has entered FAULTED from STARTING with a fault code, raising ENGINE; the store (but for a header copy put right), tables, clock and
enable set are as they were (R183). -/
structure EngineFaulted (c : FaultCode) (s t : State) : Prop where
  engine : t.control.engine = .faulted
  fault : t.control.fault = c
  startPending : t.control.startPending = false
  raised : t.notices.raised = s.notices.raised.add .engine
  enable : t.notices.enable = s.notices.enable
  header : t.header = s.header
  store : { t.store with header := s.store.header } = s.store
  clock : t.clock = s.clock
  tables : t.tables = s.tables
  holds : t.holds = s.holds
  memory : t.link.mem = s.link.mem

/-- The part as the end of a reset leaves it: the append queue is empty, the reserved count 0 and the next movement number given up (R173); PENDING
statuses are ABANDONED, in the store and on-chip (R142); ENGINE is raised unless the engine is scrubbing (R178, R181); everything else is as it was. -/
structure ResetEnded (s t : State) : Prop where
  control : t.control = { s.control with resetting := false }
  journal : t.journal = { s.journal with queue := [], reserved := 0, next := none, retry := false }
  onChip : ∀ k, k < 32 → t.trailStatusAt k =
    { journal := (s.trailStatusAt k).journal.settled, answer := (s.trailStatusAt k).answer.settled }
  stored : ∀ k, k < 32 → (t.trailCell k).entry = { (s.trailCell k).entry with
    journalStatus := if (s.trailStatusAt k).journal = .pending then .abandoned else (s.trailCell k).entry.journalStatus
    answerStatus := if (s.trailStatusAt k).answer = .pending then .abandoned else (s.trailCell k).entry.answerStatus }
  notices : t.notices =
    { s.notices with raised := if s.control.engine = .scrubbing then s.notices.raised else s.notices.raised.add .engine }
  store : { t.store with trail := s.store.trail, trailStatus := s.store.trailStatus } = s.store
  rest : { t with
    control := s.control, store := s.store, notices := s.notices, journal := s.journal
    link := { t.link with msiSent := s.link.msiSent } } = s

/-- None of `n` bytes of host memory from `a` fails to be written. -/
def Link.writable (l : Link) (a n : Nat) : Prop := ∀ i, i < n → l.writeFailsAt (a + i) = false

end Sys2Proof.Machine
end

