-- ==== Sys2Proof/WellFormed.lean ====
section
/-! DEFINITION. Well-formed commands: every operand lies in the range the manual gives it. A command that is not well-formed still
has its meaning; it stands for nothing that can happen to the part. -/

namespace Sys2Proof

/-- The unit is one the store has under some partition (R129, R130, R141). -/
def StoreUnit.wf : StoreUnit → Bool
  | .cardRow i => decide (i < Config.cardRows 15)
  | .tillRow i => decide (i < Config.tills)
  | .holdContent i => decide (i < Config.holdRows 0)
  | .linkCopyOne i => decide (i < Config.holdRows 0)
  | .linkCopyTwo i => decide (i < Config.holdRows 0)
  | .headerCopyOne => true
  | .headerCopyTwo => true
  | .trailEntry k => decide (k < Config.trailEntries)

/-- The bit is one of a code word that the unit has (R132). -/
def BitFlip.wf (f : BitFlip) : Bool := f.unit.wf && decide (f.word < f.unit.codeWords) && decide (f.bit < codeWordBits)

/-- Host addresses are 64-bit, and flipped bits are in the store. -/
def Outside.wf (e : Outside) : Bool :=
  e.writes.all (fun c => decide (c.1 < Config.hostAddresses)) &&
  (e.readsFail.getD []).all (fun r => decide (r.1 < Config.hostAddresses)) &&
  (e.writesFail.getD []).all (fun r => decide (r.1 < Config.hostAddresses)) && e.flips.all BitFlip.wf

/-- A worker number is 0..7 (R113). -/
def workerWf (w : Nat) : Bool := decide (w < Config.workers)

/-- A lane number is 0..63 (R146). -/
def laneWf (n : Nat) : Bool := decide (n < Config.lanes)

/-- The operands of a command besides its Outside operand: a control write of no named command (R181), a nudge other than 255, which
has its own row (R151), a register write of at least one byte, a notice read of at least one byte (R189). -/
def Instr.operandsWf : Instr → Bool
  | .powerOnReset _ => true
  | .scrubEnd _ => true
  | .linkReset _ => true
  | .reset _ => true
  | .resetEnd _ => true
  | .start _ => true
  | .drain _ => true
  | .controlUnknownCommand v _ => !decide (v = 1) && !decide (v = 2) && !decide (v = 3)
  | .registerWrite _ data _ => !data.isEmpty
  | .nudge v _ => !decide (v = 255)
  | .nudge255 _ => true
  | .noticeRead b _ => !decide (b = 0)
  | .startingComplete _ => true
  | .drainComplete _ => true
  | .minuteEvent _ => true
  | .sweepMove _ => true
  | .lookTimerExpiry n _ => laneWf n
  | .noticeHoldExpiry n _ => laneWf n
  | .workerDispatch w _ => workerWf w
  | .resumeAfterTillLock w _ => workerWf w
  | .resumeAfterCardLock w _ => workerWf w
  | .balanceRoomGranted w _ => workerWf w
  | .trailPlaceFreed w _ => workerWf w
  | .expiryJob w _ => workerWf w
  | .balance w _ => workerWf w
  | .activate w _ => workerWf w
  | .load w _ => workerWf w
  | .redeem w _ => workerWf w
  | .holdOpen w _ => workerWf w
  | .holdRenew w _ => workerWf w
  | .holdClose w _ => workerWf w
  | .holdCancel w _ => workerWf w
  | .reverse w _ => workerWf w
  | .cardStatusSuspend w _ => workerWf w
  | .cardStatusResume w _ => workerWf w
  | .cardStatusUnlock w _ => workerWf w
  | .cardStatusClose w _ => workerWf w
  | .bonusGrant w _ => workerWf w
  | .rowRead w _ => workerWf w
  | .rowWrite w _ => workerWf w
  | .tillWriteRegister w _ => workerWf w
  | .tillWriteRemove w _ => workerWf w
  | .tillRelease w _ => workerWf w
  | .ruleWrite w _ => workerWf w
  | .programmeWrite w _ => workerWf w
  | .laneModeOpen w _ => workerWf w
  | .laneModePaused w _ => workerWf w
  | .clockSet w _ => workerWf w
  | .trailRead w _ => workerWf w
  | .quarantineRead w _ => workerWf w
  | .unknownKindRequest w _ => workerWf w
  | .answerWrite n _ => laneWf n
  | .journalAppend _ => true
  | .journalWriteRetry _ => true

/-- What the outside world did before a command. -/
def Instr.outside : Instr → Outside
  | .powerOnReset e => e
  | .scrubEnd e => e
  | .linkReset e => e
  | .reset e => e
  | .resetEnd e => e
  | .start e => e
  | .drain e => e
  | .controlUnknownCommand _ e => e
  | .registerWrite _ _ e => e
  | .nudge _ e => e
  | .nudge255 e => e
  | .noticeRead _ e => e
  | .startingComplete e => e
  | .drainComplete e => e
  | .minuteEvent e => e
  | .sweepMove e => e
  | .lookTimerExpiry _ e => e
  | .noticeHoldExpiry _ e => e
  | .workerDispatch _ e => e
  | .resumeAfterTillLock _ e => e
  | .resumeAfterCardLock _ e => e
  | .balanceRoomGranted _ e => e
  | .trailPlaceFreed _ e => e
  | .expiryJob _ e => e
  | .balance _ e => e
  | .activate _ e => e
  | .load _ e => e
  | .redeem _ e => e
  | .holdOpen _ e => e
  | .holdRenew _ e => e
  | .holdClose _ e => e
  | .holdCancel _ e => e
  | .reverse _ e => e
  | .cardStatusSuspend _ e => e
  | .cardStatusResume _ e => e
  | .cardStatusUnlock _ e => e
  | .cardStatusClose _ e => e
  | .bonusGrant _ e => e
  | .rowRead _ e => e
  | .rowWrite _ e => e
  | .tillWriteRegister _ e => e
  | .tillWriteRemove _ e => e
  | .tillRelease _ e => e
  | .ruleWrite _ e => e
  | .programmeWrite _ e => e
  | .laneModeOpen _ e => e
  | .laneModePaused _ e => e
  | .clockSet _ e => e
  | .trailRead _ e => e
  | .quarantineRead _ e => e
  | .unknownKindRequest _ e => e
  | .answerWrite _ e => e
  | .journalAppend e => e
  | .journalWriteRetry e => e

/-- A well-formed command. -/
def Instr.wf (i : Instr) : Bool := i.operandsWf && i.outside.wf

end Sys2Proof
end

