-- ==== Sys2Proof/Certificates/Slice0/Obligations.lean ====
section
/-! DEFINITION. The statements for the provers. In each, `s₀` is the state before a command and `s` that state with what the outside world did
before the command's own effect (log 2). -/

open Sys2Proof Sys2Proof.Machine

/-! ### The queue, the reset state and the invariants -/

/-- A command at the front of the queue is run on the state with the queue's rest. -/
def Obligations.StepRunsTheFrontCommand : Prop :=
  ∀ (c : Instr) (q : List Instr) (s : State), s.pending = c :: q → step s = exec c { s with pending := q }

/-- With no command waiting one reference cycle passes (R174). THE MODEL'S CHOICE (log 6): a sweep behind now sends its next move first, and
events are sent as commands: a timer that runs out, the retry of a failed entry write, a minute event with the sweep's move. -/
def Obligations.EmptyQueueCountsOneCycle : Prop :=
  ∀ s : State, s.canonical = true → s.pending = [] →
    (∀ p, s.holds.sweep = some p → p < (s.clock.now : Int) → step s = .next { s with pending := [.sweepMove .quiet] }) ∧
    ((∀ p, s.holds.sweep = some p → (s.clock.now : Int) ≤ p) →
      (s.clock.set = false → step s = .next s) ∧
      (s.clock.set = true → s.clock.phase < 999 →
        step s = .next { s with clock := { s.clock with phase := s.clock.phase + 1 } }) ∧
      (s.clock.set = true → s.clock.phase = 999 → ∃ t, step s = .next t ∧
        t.clock =
          (if s.clock.tick < 99999 then { s.clock with phase := 0, tick := s.clock.tick + 1 }
          else if s.clock.second < 59 then { s.clock with phase := 0, tick := 0, second := s.clock.second + 1 }
          else { s.clock with phase := 0, tick := 0, second := 0 }) ∧
        (∀ n, t.laneState n =
          { s.laneState n with
            lookTimer := (s.laneState n).lookTimer.map (· - 1), holdTimer := (s.laneState n).holdTimer.map (· - 1) }) ∧
        (∀ n, Instr.lookTimerExpiry n .quiet ∈ t.pending ↔ (s.laneState n).lookTimer = some 1) ∧
        (∀ n, Instr.noticeHoldExpiry n .quiet ∈ t.pending ↔ (s.laneState n).holdTimer = some 1) ∧
        (Instr.journalWriteRetry .quiet ∈ t.pending ↔ s.journal.retry = true) ∧
        (99999 ≤ s.clock.tick → 59 ≤ s.clock.second →
          ∃ q, t.pending = q ++ [Instr.minuteEvent .quiet, Instr.sweepMove .quiet]) ∧
        ((s.clock.tick < 99999 ∨ s.clock.second < 59) → Instr.minuteEvent .quiet ∉ t.pending) ∧
        t.lanes.lastServed = s.lanes.lastServed ∧ { t with clock := s.clock, lanes := s.lanes, pending := s.pending } = s))

/-- The state after reset meets every invariant the steps keep. -/
def Obligations.ResetHoldsTheInvariants : Prop :=
  State.reset.canonical = true ∧ State.reset.clockOk = true ∧ State.reset.quarantineOk ∧ State.reset.locksOk ∧ State.reset.tillsOk

/-- After power-on the engine is scrubbing with no fault, ENGINE alone is enabled and nothing is raised, the clock is not set, the lanes are
paused and still, every row reads as scrubbed, the header holds no partition and next movement number 1, the trail is unwritten with serial
1 and place 0, and the tables are cleared (R22, R37, R92, R112, R139, R148, R165, R174, R178, R186). THE MODEL'S CHOICE: the bits of the status
register that 11.6 does not name read 0 (log 34), and the free chain, which R92 leaves not set, has no ends and count 0 (log 46). -/
def Obligations.ResetValues : Prop :=
  let s := State.reset
  statusWord s = 0 ∧ s.anchor = 0 ∧ s.notices.raised = {} ∧ s.notices.enable = { engine := true } ∧
  s.clock = { phase := 0, tick := 0, second := 0, minute := 0, day := 0, set := false } ∧
  (∀ n, s.laneState n =
    { scan := 0, isOpen := false, lookTimer := none, ready := false, tally := 0, pendingAnswers := 0, holdTimer := none }) ∧
  s.lanes.lastServed = none ∧
  (∀ i, (s.card i).ecc = .clean ∧ (s.card i).val =
    { state := .empty, programme := 0, code := none, tries := 0, lots := [], refs := [], held := 0
      windowIndex := 0, windowCount := 0, lastMovement := 0, activationDay := none, lastUseDay := none }) ∧
  (∀ i, (s.tillRow i).ecc = .clean ∧ (s.tillRow i).val =
    { registered := false, storeNo := 0, tillNo := 0, standing := .good, score := 0, barred := false
      lastMinute := none, recent := [] }) ∧
  (∀ i, (s.hold i).ecc = .clean ∧ (s.hold i).val =
    { isOpen := false, gen := 0, card := 0, till := 0, seq := 0, amount := 0, deadline := 0, renewals := 0 }) ∧
  (∀ i, (s.linkWord i).word = { prev := some 0, next := some 0 }) ∧
  s.header = { partition := none, next := 1, damaged := false } ∧ s.store.trailSerial = 1 ∧ s.store.trailPlace = 0 ∧
  (∀ k, (s.trailCell k).bytes = zeroBytes 512) ∧ s.store.quarantine = [] ∧ s.store.overflow = false ∧
  (∀ k, (Sparse.get {} s.tables.rules k).enabled = false) ∧ (∀ k, (Sparse.get {} s.tables.programmes k).enabled = false) ∧
  s.holds.free = { head := none, tail := none, count := 0 } ∧ (∀ b, s.chain (.bucket b) = { head := none, tail := none, count := 0 }) ∧
  s.holds.due = { head := none, tail := none, count := 0 } ∧ s.holds.sweep = none ∧ s.holds.hand = [] ∧
  s.journal = { written := 0, cached := 0, reserved := 0, next := none, queue := [], fillTested := 0, retry := false } ∧
  (∀ w, s.worker w = none) ∧ s.locks = { till := [], card := [] } ∧ s.pending = []

/-- Every step keeps host memory and every sparse table in canonical form. -/
def Obligations.StepsKeepTablesCanonical : Prop :=
  ∀ s t : State, s.canonical = true → step s = .next t → t.canonical = true

/-- Every step keeps the counters of the clock chain in their ranges (R174, R175), the quarantine list at most 64 rows long with no duplicates
(R135), and each bank of the lock table at most 8 entries, no two naming one row (R116). -/
def Obligations.StepsKeepClockQuarantineListAndLocks : Prop :=
  (∀ s t : State, s.clockOk = true → step s = .next t → t.clockOk = true) ∧
  (∀ s t : State, s.quarantineOk → step s = .next t → t.quarantineOk) ∧
  (∀ s t : State, s.locksOk → step s = .next t → t.locksOk)

/-- A till's standing follows from its score and its barred mark, in every till row of the store and every copy a piece of work carries, and every
step keeps it so (R98); the recent list keeps to 8 entries (R106). The second part is R98's table. -/
def Obligations.StepsKeepTillStandings : Prop :=
  (∀ s t : State, s.tillsOk → step s = .next t → t.tillsOk) ∧
  (∀ t : TillRow, t.ok = true ↔
    t.score ≤ 255 ∧ t.recent.length ≤ 8 ∧
    (t.barred = true → t.score = 255 ∧ t.standing = .barred) ∧
    (t.barred = false →
      (t.score ≤ 95 → t.standing = .good) ∧ (96 ≤ t.score → t.score ≤ 127 → t.standing = .watched) ∧
      (128 ≤ t.score → t.standing = .restricted)))

/-- What no other command reaches: no command's effect reaches the queue of waiting commands; the anchor registers change only by a register
write, a link reset and a power-on reset; a recorded partition is given up by a power-on reset alone (R131, R181, R185, R186). -/
def Obligations.QueueAnchorsAndPartitionChangeOnlyByTheirCommands : Prop :=
  ∀ (c : Instr) (s t : State), exec c s = .next t →
    t.pending = s.pending ∧
    ((∀ e, c ≠ .powerOnReset e) →
      ((∀ e, c ≠ .linkReset e) → (∀ o d e, c ≠ .registerWrite o d e) →
        t.link.anchorLow = s.link.anchorLow ∧ t.link.anchorHigh = s.link.anchorHigh) ∧
      (∀ p, s.header.partition = some p → t.header.partition = some p))

/-! ### Resets, scrub, control -/

/-- The three resets (R128, R139, R145, R148, R163, R173, R174, R178, R181, R186). A power-on reset leaves the power-on contents of every register,
row and table. A link reset and an engine reset clear the work in flight, the locks, the pool, the hand list, the lanes, the answers not
written, the raised set, the flags; they keep the store, the chains, the clock, the tables, the fault code and the directory, and the Journal
Writer as it stands until the completing writes have ended. An engine reset keeps the anchors, a link reset clears them. THE MODEL'S CHOICE (log 9, log 10): the engine reads IDLE from the reset's first
moment, the two resets of the link leave the MSI capability cleared, and State.reset, which a power-on reset gives, has a free chain with no ends and
count 0 (log 46) and the anchor of a STARTING at 0 (log 11). -/
def Obligations.ResetsLeaveTheirValues : Prop :=
  ∀ (e : Outside) (s₀ s : State), s₀.outside e = s →
    (let t : State :=
      { s with
        units := {}, locks := {}, lanes := {}, holds := { s.holds with hand := [] }
        store := { s.store with overflow := false }
        notices := { raised := {}, enable := { engine := true }, answers := [] }
        control := { s.control with
          engine := if s.control.engine = .scrubbing then .scrubbing else .idle
          startPending := false, controlIgnored := false, resetting := true, starting := none, engineWords := none } }
    exec (.reset e) s₀ = .next t ∧
    exec (.linkReset e) s₀ =
      .next { t with link := { s.link with anchorLow := 0, anchorHigh := 0, msi := { enabled := false, address := 0, data := 0 } } }) ∧
    exec (.powerOnReset e) s₀ = .next { State.reset with
      pending := s.pending, link := { s.link with anchorLow := 0, anchorHigh := 0, msi := { enabled := false, address := 0, data := 0 } } }

/-- The end of a reset: the append queue is cleared, the reserved count 0 and the next movement number given up; PENDING trail statuses become
ABANDONED, in the store and on-chip, and ENGINE is raised unless the engine is scrubbing (R128, R142, R173, R178, R181). THE MODEL'S CHOICE: a START taken during the reset has entered STARTING, and its checks begin after the reset's end,
ENGINE raised as well (log 9); with no reset going on nothing changes (log 5). -/
def Obligations.ResetEndSettlesTheTrail : Prop :=
  ∀ (e : Outside) (s₀ s : State), s₀.outside e = s →
    (s.control.resetting = false → exec (.resetEnd e) s₀ = .next s) ∧
    (s.control.resetting = true → s.control.engine ≠ .starting → ∃ t, exec (.resetEnd e) s₀ = .next t ∧ ResetEnded s t) ∧
    (s.control.resetting = true → s.control.engine = .starting → s.control.startAnchor = s.anchor → s.control.startPending = false →
      s.control.starting = none →
      ∃ t, ResetEnded s t ∧
        exec (.resetEnd e) s₀ = exec (.start .quiet) { t with control := { t.control with engine := .idle } })

/-- The end of the scrub raises ENGINE and enters IDLE, or STARTING when a START arrived in it (R140, R181). THE MODEL'S CHOICE (log 5): outside
SCRUBBING the command changes nothing. -/
def Obligations.ScrubEndEntersIdleOrStarting : Prop :=
  ∀ (e : Outside) (s₀ s : State), s₀.outside e = s →
    (s.control.engine ≠ .scrubbing → exec (.scrubEnd e) s₀ = .next s) ∧
    (s.control.engine = .scrubbing → s.control.startPending = false → ∃ t, exec (.scrubEnd e) s₀ = .next t ∧
      t.control = { s.control with engine := .idle } ∧ t.notices = { s.notices with raised := s.notices.raised.add .engine } ∧
      { t with control := s.control, notices := s.notices, link := { t.link with msiSent := s.link.msiSent } } = s) ∧
    (s.control.engine = .scrubbing → s.control.startPending = true → ∃ t,
      t.control = { s.control with engine := .idle } ∧ t.notices = { s.notices with raised := s.notices.raised.add .engine } ∧
      { t with control := s.control, notices := s.notices, link := { t.link with msiSent := s.link.msiSent } } = s ∧
      exec (.scrubEnd e) s₀ = exec (.start .quiet) t)

/-- Control writes that the engine state does not take (R181, R189): a START in SCRUBBING sets start-pending; a START in STARTING, RUNNING or
DRAINING, a DRAIN outside RUNNING and a value that names no command change no state and set the control-ignored flag. -/
def Obligations.ControlWritesPendOrAreIgnored : Prop :=
  ∀ (v : Word32) (e : Outside) (s₀ s : State), s₀.outside e = s →
    (let ignored : State := { s with control := { s.control with controlIgnored := true } }
    (s.control.engine = .scrubbing → exec (.start e) s₀ = .next { s with control := { s.control with startPending := true } }) ∧
    (s.control.engine = .starting ∨ s.control.engine = .running ∨ s.control.engine = .draining →
      exec (.start e) s₀ = .next ignored) ∧
    (s.control.engine ≠ .running → exec (.drain e) s₀ = .next ignored) ∧
    (v ≠ 1 → v ≠ 2 → v ≠ 3 → exec (.controlUnknownCommand v e) s₀ = .next ignored))

/-- A START in IDLE or FAULTED whose directory passes every check makes steps 1 to 4 of STARTING: the header's read, from either copy; the clock take,
with the sweep's part: a forward step that leaves now 4096 minutes or more past the sweep position joins all 4096 buckets to the due chain in order
(R85), and any other leaves the chains (R86); the record of the partition, with the free chain's ends; on a store with the chain-damaged mark, the
rebuild of the hold chains in index order, which clears the mark (R138); the examination of the programme records (R36, R86, R131, R139, R176, R181,
R183, R184, R185). Card and till rows, lanes, journal and tables of rules are as they were, and without a rebuild hold rows, notices and host memory
too. THE MODEL'S CHOICE: with the mark set a clock step moves the sweep position alone (log 37), the minute before minute index 0 is -1 (log 28), and
a neighbour's other link is kept without being read (log 25). -/
def Obligations.StartMakesTheStartingSteps : Prop :=
  ∀ (e : Outside) (s₀ s : State) (h tb : List Byte) (d : Directory), s₀.outside e = s →
    (s.control.engine = .idle ∨ s.control.engine = .faulted) → s.control.resetting = false →
    s.anchor ≠ 0 → s.anchor % 4096 = 0 → linkRead s s.anchor 64 = some h → directoryRevision h = 1 →
    linkRead s (s.anchor + 64) (32 * min (directoryLaneCount h) 64) = some tb → d = Directory.ofBytes h tb →
    d.partition ≤ 15 → (s.store.header.one.outcome ≠ .uncorrectable ∨ s.store.header.two.outcome ≠ .uncorrectable) →
    (s.header.partition = none ∨ s.header.partition = some d.partition) →
    checkDirectory d s.clock.set = none →
    ∃ t, exec (.start e) s₀ = .next t ∧
      t.control = { s.control with
        engine := .starting, startPending := false, startAnchor := s.anchor, starting := some d, engineWords := some d.engineWords } ∧
      (d.clockTake = 0 → t.clock = s.clock ∧ t.holds.sweep = s.holds.sweep) ∧
      (d.clockTake = 1 →
        t.clock = { phase := 0, tick := 0, second := 0, minute := d.startMinute, day := d.startDay, set := true } ∧
        (s.clock.set = false → t.holds.sweep = some (t.clock.now : Int)) ∧
        (∀ p : Int, s.clock.set = true → s.holds.sweep = some p → t.holds.sweep =
          some (if t.clock.now < s.clock.now then min p ((t.clock.now : Int) - 1)
            else if s.clock.now < t.clock.now ∧ 4096 ≤ (t.clock.now : Int) - p then (t.clock.now : Int) else p))) ∧
      t.header = { s.header with partition := some d.partition, damaged := false } ∧ t.store.header.one = .clean ∧
      (s.header.damaged = true → ChainsRebuilt (Config.holdRows d.partition) s t) ∧
      (s.header.damaged = false →
        (s.header.partition = none →
          t.holds.free = { head := some 0, tail := some (Config.holdRows d.partition - 1), count := Config.holdRows d.partition } ∧
          (t.linkWord 0).word.prev = none ∧ (t.linkWord (Config.holdRows d.partition - 1)).word.next = none) ∧
        (s.header.partition = some d.partition → t.holds.free = s.holds.free) ∧
        (let far := fun (p : Int) => d.clockTake = 1 ∧ s.clock.set = true ∧ s.holds.sweep = some p ∧ s.clock.now < t.clock.now ∧
          4096 ≤ (t.clock.now : Int) - p
        ∃ u, ((∀ p, ¬ far p) → u = s) ∧ (∀ p, far p → AllBucketsJoined p s u) ∧
          t.holds.due = u.holds.due ∧ t.holds.buckets = u.holds.buckets ∧
          (s.header.partition = some d.partition → t.store.links = u.store.links) ∧
          (s.header.partition = none →
            (∀ i, i ≠ 0 → i ≠ Config.holdRows d.partition - 1 → t.linkWord i = u.linkWord i) ∧
            (t.linkWord 0).word.next = (u.linkWord 0).word.next ∧
            (t.linkWord (Config.holdRows d.partition - 1)).word.prev = (u.linkWord (Config.holdRows d.partition - 1)).word.prev)) ∧
        t.store.holds = s.store.holds ∧ t.store.quarantine = s.store.quarantine ∧ t.link = s.link ∧ t.notices = s.notices) ∧
      (∀ n, n < 16 →
        (let p := Sparse.get {} s.tables.programmes n
        Sparse.get {} t.tables.programmes n =
          { p with enabled := p.enabled && decide (p.rowBase + p.rowCount ≤ Config.cardRows d.partition) })) ∧
      t.tables.rules = s.tables.rules ∧ t.store.cards = s.store.cards ∧ t.store.tills = s.store.tills ∧
      t.store.trail = s.store.trail ∧ t.store.trailStatus = s.store.trailStatus ∧
      t.lanes = s.lanes ∧ t.units = s.units ∧ t.locks = s.locks ∧ t.journal = s.journal ∧
      t.holds.hand = s.holds.hand ∧ t.pending = s.pending

/-- A START in IDLE or FAULTED whose directory fails a check enters FAULTED with the code of the first that fails, raising ENGINE, and
changes nothing of the store but for a header copy put right (R131, R183); with both copies of the store header lost it raises STORE too, and changes
nothing of the store. THE MODEL'S CHOICE (log 19): a P above 15 fails its check before the header is read, so that no STORE is raised then. -/
def Obligations.StartFaultsByTheFirstFailedCheck : Prop :=
  ∀ (e : Outside) (s₀ s : State), s₀.outside e = s →
    (s.control.engine = .idle ∨ s.control.engine = .faulted) → s.control.resetting = false →
    (s.anchor = 0 ∨ s.anchor % 4096 ≠ 0 ∨ linkRead s s.anchor 64 = none ∨
        (∃ h, linkRead s s.anchor 64 = some h ∧ directoryRevision h ≠ 1) →
      ∃ t, exec (.start e) s₀ = .next t ∧ EngineFaulted .badRevision s t) ∧
    (∀ h, s.anchor ≠ 0 → s.anchor % 4096 = 0 → linkRead s s.anchor 64 = some h → directoryRevision h = 1 →
      (linkRead s (s.anchor + 64) (32 * min (directoryLaneCount h) 64) = none →
        ∃ t, exec (.start e) s₀ = .next t ∧ EngineFaulted .readFailed s t) ∧
      (∀ tb d, linkRead s (s.anchor + 64) (32 * min (directoryLaneCount h) 64) = some tb → d = Directory.ofBytes h tb →
        (15 < d.partition ∨ ((s.store.header.one.outcome ≠ .uncorrectable ∨ s.store.header.two.outcome ≠ .uncorrectable) ∧
            ∃ p, s.header.partition = some p ∧ p ≠ d.partition) →
          ∃ t, exec (.start e) s₀ = .next t ∧ EngineFaulted .partitionMismatch s t) ∧
        (d.partition ≤ 15 → s.store.header.one.outcome = .uncorrectable → s.store.header.two.outcome = .uncorrectable →
          ∃ t, exec (.start e) s₀ = .next t ∧ t.store = s.store ∧
            EngineFaulted .partitionMismatch { s with notices := { s.notices with raised := s.notices.raised.add .store } } t) ∧
        (∀ c, d.partition ≤ 15 → (s.store.header.one.outcome ≠ .uncorrectable ∨ s.store.header.two.outcome ≠ .uncorrectable) →
          (s.header.partition = none ∨ s.header.partition = some d.partition) → checkDirectory d s.clock.set = some c →
          ∃ t, exec (.start e) s₀ = .next t ∧ EngineFaulted c s t)))

/-- DRAIN in RUNNING takes the engine to DRAINING and stops every look timer (R127, R151, R181); the engine reaches IDLE, raising ENGINE,
once no worker is busy, the ready queue is empty and every pool place is free, and not before (R127). THE MODEL'S CHOICE (log 5): a DRAIN_COMPLETE
sent outside DRAINING, or before that moment, changes nothing. -/
def Obligations.DrainAndItsEnd : Prop :=
  ∀ (e : Outside) (s₀ s : State), s₀.outside e = s →
    (s.control.engine = .running → s.canonical = true → ∃ t, exec (.drain e) s₀ = .next t ∧
      t.control = { s.control with engine := .draining } ∧ (∀ n, t.laneState n = { s.laneState n with lookTimer := none }) ∧
      t.lanes.lastServed = s.lanes.lastServed ∧ { t with control := s.control, lanes := s.lanes } = s) ∧
    (s.control.engine = .draining → (∀ w, w < 8 → s.worker w = none) → s.units.ready = [] → s.units.places = [] →
      ∃ t, exec (.drainComplete e) s₀ = .next t ∧ t.control = { s.control with engine := .idle } ∧
        t.notices = { s.notices with raised := s.notices.raised.add .engine } ∧
        { t with control := s.control, notices := s.notices, link := { t.link with msiSent := s.link.msiSent } } = s) ∧
    ((s.control.engine ≠ .draining ∨ (∃ w, w < 8 ∧ s.worker w ≠ none) ∨ s.units.ready ≠ [] ∨ s.units.places ≠ []) →
      exec (.drainComplete e) s₀ = .next s)

/-- STARTING completes once the append queue is empty: the Journal Writer is set, each lane from its directory entry, the engine words are
written, the fault code and the enable set are replaced, the engine enters RUNNING and every OPEN lane is looked at (R148, R151, R165, R178, R184).
THE MODEL'S CHOICE: the next movement number is loaded as the store holds it, without a further read of the header's copies (log 51), and the bytes of
the engine-word block that its table does not name are written 0 at this moment (log 61). -/
def Obligations.StartingCompletesIntoRunning : Prop :=
  ∀ (e : Outside) (s₀ s : State) (d : Directory), s₀.outside e = s → s.control.engine = .starting → s.control.resetting = false →
    (s.journal.queue ≠ [] → exec (.startingComplete e) s₀ = .next s) ∧
    (s.journal.queue = [] → s.control.starting = some d → d.laneCount = d.lanes.length → d.laneCount ≤ 64 →
      s.link.writable d.engineWords 4096 →
      ∃ t, exec (.startingComplete e) s₀ = .next t ∧
        t.control = { s.control with engine := .running, fault := .none, starting := none, directory := some d } ∧
        t.journal = { written := 0, cached := 0, reserved := 0, next := some s.header.next, queue := [], fillTested := 0, retry := false } ∧
        (∀ n l, d.lanes[n]? = some l → t.laneState n =
          { scan := l.startPosition, isOpen := decide (l.startMode = 1), tally := 0, pendingAnswers := 0, holdTimer := none
            lookTimer := if l.startMode = 1 then some l.lookInterval else none
            ready := decide (l.startMode = 1) && slotIsPosted t l l.startPosition }) ∧
        (∀ n, d.lanes[n]? = none → t.laneState n = {}) ∧ t.lanes.lastServed = some (d.laneCount - 1) ∧
        memBytes t.link.mem d.engineWords 268 = zeroBytes 264 ++ leBytes 4 s.store.quarantine.length ∧
        memBytes t.link.mem (d.engineWords + 272) 18 = capabilityBytes d.partition ∧
        (∀ i, (268 ≤ i ∧ i < 272) ∨ (290 ≤ i ∧ i < 4096) → Memory.read t.link.mem (d.engineWords + i) = 0) ∧
        (∀ a, (a < d.engineWords ∨ d.engineWords + 4096 ≤ a) → Memory.read t.link.mem a = Memory.read s.link.mem a) ∧
        t.notices = { s.notices with enable := CauseSet.ofBits d.enable } ∧ t.clock = s.clock ∧ t.tables = s.tables ∧
        t.store = s.store ∧ t.holds = s.holds ∧ t.units = s.units ∧ t.locks = s.locks ∧ t.pending = s.pending)

/-! ### Registers, notices, timers, clock -/

/-- A write to the window goes to the register whose bytes it touches, the bytes not written taken as 0: an anchor register is replaced, a
control write is the command of its value, a nudge write is a nudge, and writes to the status and notice registers and to unused offsets are
ignored; a write across several registers is one to each: cut at any register boundary, it is the write of the bytes below and then the write of
the bytes above (R180, R181, R185, R189). THE MODEL'S CHOICE (log 31): a write of the control or the nudge register acts as the command its value
names, and of two registers the one at the lower offset is written first. -/
def Obligations.RegisterWritesByTheMap : Prop :=
  ∀ (e : Outside) (s₀ s : State) (o : Nat) (data : List Byte), s₀.outside e = s → data ≠ [] →
    (o + data.length ≤ 4 →
      (let v : Word32 := BitVec.ofNat 32 (leNat data * 256 ^ o)
      exec (.registerWrite (0x00 + o) data e) s₀ = .next { s with link := { s.link with anchorLow := v } } ∧
      exec (.registerWrite (0x04 + o) data e) s₀ = .next { s with link := { s.link with anchorHigh := v } } ∧
      exec (.registerWrite (0x08 + o) data e) s₀ =
        exec (if v = 1 then .start e else if v = 2 then .drain e else if v = 3 then .reset e else .controlUnknownCommand v e) s₀ ∧
      exec (.registerWrite (0x0C + o) data e) s₀ = .next s ∧
      exec (.registerWrite (0x10 + o) data e) s₀ = exec (if v = 255 then .nudge255 e else .nudge v e) s₀ ∧
      exec (.registerWrite (0x14 + o) data e) s₀ = .next s)) ∧
    exec (.registerWrite (0x18 + o) data e) s₀ = .next s ∧
    (data.length = 8 → exec (.registerWrite 0x00 data e) s₀ =
      .next { s with link := { s.link with
        anchorLow := BitVec.ofNat 32 (leNat (data.take 4)), anchorHigh := BitVec.ofNat 32 (leNat (data.drop 4)) } }) ∧
    (∀ b, b % 4 = 0 → o < b → b < o + data.length →
      ∃ t, exec (.registerWrite o (data.take (b - o)) e) s₀ = .next t ∧
        exec (.registerWrite o data e) s₀ = exec (.registerWrite b (data.drop (b - o)) .quiet) t)

/-- A read of the notice register returns the raised set, enabled or not, and empties it; a raise just before is returned and cleared, a raise
just after stays and sends an MSI, the message data to the message address, when it is enabled (R179, R180); a write to the register is ignored,
and a read of some of its bytes returns those and empties the whole set (R189). THE MODEL'S CHOICE: the bits 11.6 does not name read 0
(log 34), and a message is an output of the model (log 10) that counts as sent also where writes to its address fail (log 55). -/
def Obligations.NoticeReadReturnsAndEmptiesTheRaisedSet : Prop :=
  ∀ (b : BitVec 4) (e : Outside) (s₀ s : State), s₀.outside e = s → b ≠ 0 →
    ∃ t, exec (.noticeRead b e) s₀ = .next t ∧
      t.link.readData = (if b.getLsbD 0 then BitVec.ofNat 32 s.notices.raised.bits else 0) ∧
      t.notices = { s.notices with raised := {} } ∧ { t with link := { t.link with readData := s.link.readData }, notices := s.notices } = s ∧
      (∀ (c : Cause) (n : Nat), ({} : CauseSet).add c = CauseSet.ofBits (BitVec.ofNat 8 (2 ^ n)) → n < 5 →
        (∃ u, exec (.noticeRead b .quiet) (raiseCause c s) = .next u ∧ u.link.readData.getLsbD n = b.getLsbD 0 ∧
          u.notices.raised = {}) ∧
        (raiseCause c t).notices = { t.notices with raised := ({} : CauseSet).add c } ∧
        (raiseCause c t).link.msiSent = t.link.msiSent ++
          (if t.notices.enable.mem c && t.link.msi.enabled then [(t.link.msi.address, t.link.msi.data)] else [])) ∧
      (∀ data : List Byte, data.length = 4 → exec (.registerWrite 0x14 data e) s₀ = .next s)

/-- Nudges (R151, R170, R171, R172, R189). A lane's number has it looked at when it is OPEN, in RUNNING; 255 has every OPEN lane looked at in
RUNNING, and the drained count read again in RUNNING and DRAINING; every other value or state is ignored. A refresh that raises the cached
count tests the mark, and grants one entry each to the waiting BALANCE requests, oldest first, while room remains; one whose read fails leaves
the counts. -/
def Obligations.NudgesLookAndReadTheDrainedCount : Prop :=
  ∀ (e : Outside) (s₀ s : State), s₀.outside e = s →
    (∀ (n : Nat) (l : LaneEntry), n < 64 → s.laneEntry n = some l → s.control.engine = .running → (s.laneState n).isOpen = true →
      exec (.nudge (BitVec.ofNat 32 n) e) s₀ = .next (s.setLaneState n (s.lookedAt n l))) ∧
    (∀ v : Word32, v ≠ 255 → (s.control.engine ≠ .running ∨ s.dir.laneCount ≤ v.toNat ∨ (s.laneState v.toNat).isOpen = false) →
      exec (.nudge v e) s₀ = .next s) ∧
    (s.control.engine = .running ∨ s.control.engine = .draining →
      (let looked := fun (t : State) =>
        (∀ n l, s.laneEntry n = some l → s.control.engine = .running → (s.laneState n).isOpen = true →
          t.laneState n = s.lookedAt n l) ∧
        (∀ n, (s.laneEntry n = none ∨ s.control.engine = .draining ∨ (s.laneState n).isOpen = false) →
          t.laneState n = s.laneState n) ∧
        t.lanes.lastServed = s.lanes.lastServed
      (linkRead s s.dir.hostWords 8 = none →
        ∃ t, exec (.nudge255 e) s₀ = .next t ∧ looked t ∧ { t with lanes := s.lanes } = s) ∧
      (∀ (bs : List Byte) (ks : List (Nat × Work × Plan)), linkRead s s.dir.hostWords 8 = some bs →
        s.units.roomWaiters = ks.map (·.1) → (ks.map (·.1)).Nodup →
        (∀ x ∈ ks, s.worker x.1 = some x.2.1 ∧ x.2.1.phase = .awaitRoom x.2.2) →
        (let c := max s.journal.cached (min (leNat bs) s.journal.written)
        let fill := s.journal.written - c
        let granted := if s.journal.cached < c then min ks.length (s.dir.journalCount - (fill + s.journal.reserved)) else 0
        ∃ t, exec (.nudge255 e) s₀ = .next t ∧ looked t ∧
          t.journal = { s.journal with
            cached := c, fillTested := if s.journal.cached < c then fill else s.journal.fillTested
            reserved := s.journal.reserved + granted } ∧
          t.notices = { s.notices with raised :=
            if s.journal.cached < c ∧ s.journal.fillTested < s.dir.mark ∧ s.dir.mark ≤ fill then s.notices.raised.add .journal
            else s.notices.raised } ∧
          t.units.roomWaiters = (ks.drop granted).map (·.1) ∧
          (∀ x ∈ ks.take granted, t.worker x.1 = some { x.2.1 with phase := .roomGranted x.2.2, room := x.2.1.room + 1 }) ∧
          (∀ w, (∀ x ∈ ks.take granted, x.1 ≠ w) → t.worker w = s.worker w) ∧
          { t.units with workers := s.units.workers, roomWaiters := s.units.roomWaiters } = s.units ∧
          { t.link with msiSent := s.link.msiSent } = s.link ∧
          { t with lanes := s.lanes, journal := s.journal, notices := s.notices, link := s.link, units := s.units } = s)))) ∧
    (s.control.engine = .draining → exec (.nudge255 e) s₀ = .next (refreshDrained s)) ∧
    (s.control.engine ≠ .running → s.control.engine ≠ .draining → exec (.nudge255 e) s₀ = .next s)

/-- A lane's look timer expires: the lane is looked at and its timer started again (R150, R151). A lane's hold timer expires: the lane's
count and timer are cleared, and ANSWERS is raised when the count was above 0 (R161). THE MODEL'S CHOICE (log 5): the expiry of a running timer acts
whatever its count, and the expiry of a stopped one changes nothing. -/
def Obligations.TimersExpire : Prop :=
  ∀ (e : Outside) (s₀ s : State) (n : Nat), s₀.outside e = s →
    (∀ l, s.laneEntry n = some l → s.control.engine = .running → (s.laneState n).isOpen = true → (s.laneState n).lookTimer.isSome →
      exec (.lookTimerExpiry n e) s₀ = .next (s.setLaneState n (s.lookedAt n l))) ∧
    ((s.laneState n).lookTimer = none → exec (.lookTimerExpiry n e) s₀ = .next s) ∧
    ((s.laneState n).holdTimer.isSome → ∃ t, exec (.noticeHoldExpiry n e) s₀ = .next t ∧
      t.laneState n = { s.laneState n with pendingAnswers := 0, holdTimer := none } ∧
      (∀ m, m ≠ n → t.laneState m = s.laneState m) ∧
      t.notices = { s.notices with raised :=
        if 0 < (s.laneState n).pendingAnswers then s.notices.raised.add .answers else s.notices.raised } ∧
      { t with lanes := s.lanes, notices := s.notices, link := { t.link with msiSent := s.link.msiSent } } = s) ∧
    ((s.laneState n).holdTimer = none → exec (.noticeHoldExpiry n e) s₀ = .next s)

/-- A minute event raises the minute of day by one, or after 1439 makes it 0 and the day one higher; none is made while the clock is not set
or at the last minute index (R174, R175). THE MODEL'S CHOICE: the command advances day and minute alone, and the bucket moves of the minute are SWEEP_MOVE
commands (log 6); sent while no minute event is made, it changes nothing (log 5). -/
def Obligations.MinuteEventAdvancesTheClock : Prop :=
  ∀ (e : Outside) (s₀ s : State), s₀.outside e = s → s.clockOk = true →
    (s.clock.set = true → s.clock.now < 94371839 → ∃ t, exec (.minuteEvent e) s₀ = .next t ∧
      t.clock.now = s.clock.now + 1 ∧ t.clock.minute = (s.clock.minute + 1) % 1440 ∧
      t.clock.day = s.clock.day + (if s.clock.minute = 1439 then 1 else 0) ∧
      t.clock = { s.clock with minute := t.clock.minute, day := t.clock.day } ∧ { t with clock := s.clock } = s) ∧
    ((s.clock.set = false ∨ s.clock.now = 94371839) → exec (.minuteEvent e) s₀ = .next s)

/-- One move of the sweep below now: bucket (sweep position + 1) modulo 4096 joins the tail of the due chain in its own order, and the sweep
position rises by one. An empty bucket, or the chain-damaged mark, leaves only the rise; at now nothing moves (R78, R84, R138), and a SWEEP_MOVE
sent then changes nothing (THE MODEL'S CHOICE, log 5, as is the other link of a neighbour, kept without being read, log 25). -/
def Obligations.SweepMovesOneBucket : Prop :=
  ∀ (e : Outside) (s₀ s : State) (p : Int) (b : Nat), s₀.outside e = s → s.holds.sweep = some p → (b : Int) = (p + 1) % 4096 →
    ((s.clock.now : Int) ≤ p → exec (.sweepMove e) s₀ = .next s) ∧
    (p < (s.clock.now : Int) → (s.header.damaged = true ∨ (s.chain (.bucket b)).head = none) →
      exec (.sweepMove e) s₀ = .next { s with holds := { s.holds with sweep := some (p + 1) } }) ∧
    (p < (s.clock.now : Int) → s.header.damaged = false → (s.chain (.bucket b)).head ≠ none → s.holds.due.tail = none →
      ∃ t, exec (.sweepMove e) s₀ = .next t ∧ t.holds.sweep = some (p + 1) ∧
        t.holds.due =
          { head := (match s.holds.due.head with | some y => some y | none => (s.chain (.bucket b)).head)
            tail := (s.chain (.bucket b)).tail, count := s.holds.due.count + (s.chain (.bucket b)).count } ∧
        t.chain (.bucket b) = { head := none, tail := none, count := 0 } ∧ t.store = s.store) ∧
    (∀ h x, p < (s.clock.now : Int) → s.header.damaged = false → (s.chain (.bucket b)).head = some h →
      s.holds.due.tail = some x → h ≠ x →
      ∃ t, exec (.sweepMove e) s₀ = .next t ∧ t.holds.sweep = some (p + 1) ∧
        t.holds.due.head = (match s.holds.due.head with | some y => some y | none => some h) ∧
        t.holds.due.tail = (s.chain (.bucket b)).tail ∧ t.holds.due.count = s.holds.due.count + (s.chain (.bucket b)).count ∧
        t.chain (.bucket b) = { head := none, tail := none, count := 0 } ∧
        (∀ c, c ≠ b → t.chain (.bucket c) = s.chain (.bucket c)) ∧
        nextTarget x (t.linkWord x).word = some h ∧ prevTarget h (t.linkWord h).word = some x ∧
        (∀ i, i ≠ x → i ≠ h → t.linkWord i = s.linkWord i) ∧
        t.holds.free = s.holds.free ∧ t.holds.hand = s.holds.hand ∧ { t with holds := s.holds, store := s.store } = s ∧
        { t.store with links := s.store.links } = s.store)

/-! ### Dispatch, takes, handouts, resumptions, jobs -/

/-- A FREE worker takes the oldest ready-queue entry, in RUNNING and DRAINING (R114, R115). THE MODEL'S CHOICE (log 5): a dispatch of a BUSY worker, in
another engine state, or in DRAINING with no ready entry changes nothing. -/
def Obligations.DispatchTakesTheOldestReadyEntry : Prop :=
  ∀ (w : Nat) (e : Outside) (s₀ s : State), s₀.outside e = s → w < 8 →
    (∀ k r, s.worker w = none → (s.control.engine = .running ∨ s.control.engine = .draining) → s.units.ready = k :: r →
      ∃ t, exec (.workerDispatch w e) s₀ = .next t ∧ t.worker w = some k ∧ (∀ v, v ≠ w → t.worker v = s.worker v) ∧
        t.units.ready = r ∧ { t with units := s.units } = s ∧
        { t.units with ready := s.units.ready, workers := s.units.workers } = s.units) ∧
    ((s.worker w ≠ none ∨ (s.control.engine ≠ .running ∧ s.control.engine ≠ .draining) ∨
        (s.control.engine = .draining ∧ s.units.ready = [])) →
      exec (.workerDispatch w e) s₀ = .next s)

/-- The order in which the ready lanes are tried (R152): in PRIORITY mode by priority number, and among equals, as in ROTATION mode, by lane
number upward from the lane after the last one served, wrapping at the lane count. -/
def Obligations.LanesAreTriedInOrder : Prop :=
  ∀ (s : State) (p : Nat → Nat), (∀ l, s.lanes.lastServed = some l → l < s.dir.laneCount) →
    (∀ n, n < s.dir.laneCount → ∃ l, s.laneEntry n = some l ∧ l.priority = p n ∧ p n < 8) →
    (s.dir.arbitration = 1 ∨ s.dir.arbitration = 2) →
    (let away := fun n => (n + s.dir.laneCount - (match s.lanes.lastServed with | none => 0 | some l => l + 1)) % s.dir.laneCount
    (∀ n, n ∈ laneOrder s ↔ n < s.dir.laneCount ∧ (s.laneState n).ready = true) ∧
    (laneOrder s).Pairwise (fun a b =>
      if s.dir.arbitration = 1 then p a < p b ∨ (p a = p b ∧ away a < away b) else away a < away b))

/-- A take (R114, R152, R153 case 4, R154, R170): with no ready entry and no due handout first, the ready lanes are tried in their order. Where the
attempts on the lanes before it come to nothing, the lane whose slot reads POSTED with no withdraw mark is taken, room being asked for again after
a refresh where it is short: place and room reserved, the work given to the worker, the slot written TAKEN, the scan position moved on, the lane made
the last served and looked at. THE MODEL'S CHOICE (log 33): the place is the lowest free one. -/
def Obligations.TakeServesTheFirstLane : Prop :=
  ∀ (w n p : Nat) (e : Outside) (s₀ s s' u : State) (pre ns : List Nat) (l : LaneEntry) (half : List Byte), s₀.outside e = s →
    w < 8 → s.worker w = none → s.control.engine = .running → s.units.ready = [] → s.holds.due.count < 64 →
    laneOrder s = pre ++ n :: ns → PassedOver pre s s' →
    s'.slotReads n l half → (s'.laneState n).isOpen = true → byteAt half 0 = 1 → byteAt half 1 = 0 → s'.freePlace = some p →
    (let room := match (Req.ofBytes half).kind? with | some kd => kd.room | none => 0
    let fits := fun (v : State) =>
      room = 0 ∨ v.journal.written - v.journal.cached + v.journal.reserved + room ≤ v.dir.journalCount
    (fits s' ∧ u = s') ∨ (¬ fits s' ∧ u = refreshDrained s' ∧ fits u) →
    ∃ t, exec (.workerDispatch w e) s₀ = .next t ∧ Taken w n p room l half u t)

/-- Attempts that give the worker no request. A slot with a withdraw mark (R153 case 3, R155) is written TAKEN, the lane moves on and is looked
at, a WITHDRAWN answer is handed, no place or room is reserved and the worker stays FREE. The lanes before it, or all of them, are passed over:
a slot that cannot be read, is not POSTED or is still in flight clears its lane's ready mark, and a missing pool place, or room still short after
the refresh, leaves slot, mark and scan position (R152, R153 cases 1, 2 and 5, R154, R170). THE MODEL'S CHOICE: a missing pool place is found
before room is asked for, so that the cached drained count stays (log 23), and the command ends with a withdrawn take (log 36). -/
def Obligations.AttemptsThatReachNoWorker : Prop :=
  ∀ (w : Nat) (e : Outside) (s₀ s s' : State) (pre : List Nat), s₀.outside e = s →
    w < 8 → s.worker w = none → s.control.engine = .running → s.units.ready = [] → s.holds.due.count < 64 → PassedOver pre s s' →
    (∀ n ns l half, laneOrder s = pre ++ n :: ns → s'.slotReads n l half → (s'.laneState n).isOpen = true →
      byteAt half 0 = 1 → byteAt half 1 ≠ 0 →
      (let slot := (s'.laneState n).scan
      let next := if slot + 1 < l.slotCount then slot + 1 else 0
      let a := l.base + slot * 128
      let answer : Answer :=
        { result := .withdrawn, reason := .none, flags := {}, approved := 0, available := none, held := none, bonus := 0, ref := none
          items := { movement := none, label := none, standing := none, triesLeft := none, hold := none, lots := none } }
      ∃ t, exec (.workerDispatch w e) s₀ = .next t ∧
        t.notices = { s'.notices with answers := s'.notices.answers ++
          [{ lane := n, slot := slot, entry := l, half := answer.bytes l.embed, tillCause := false, worker := none, trail := none }] } ∧
        t.link = { s'.link with mem := if s'.link.writeFailsAt a then s'.link.mem else Memory.write s'.link.mem a 2 } ∧
        t.laneState n =
          { s'.laneState n with scan := next, ready := slotIsPosted t l next, lookTimer := some l.lookInterval } ∧
        (∀ m, m ≠ n → t.laneState m = s'.laneState m) ∧ t.lanes.lastServed = some n ∧
        { t with notices := s'.notices, link := s'.link, lanes := s'.lanes } = s')) ∧
    (laneOrder s = pre → pre ≠ [] → exec (.workerDispatch w e) s₀ = .next s' ∧ s'.worker w = none ∧
      s'.lanes.lastServed = s.lanes.lastServed ∧ s'.units.places = s.units.places)

/-- A due handout (R87, R114): with no ready entry, and 64 rows due or no lane ready, a free pool place, and room for one entry, found at once or after
a refresh (R170), the first eligible row from the due chain's head on is handed out. The rows before it are passed over: in the hand list, in the
quarantine list, unreadable (and listed where there is room), or of a listed card row. The row stays in the chain and the due count is unchanged. With
no place, no room or no eligible row no handout is made, nothing is reserved, and the worker is left for the lanes, here lanes that give it nothing.
THE MODEL'S CHOICE: place, room and row are tried in this order (log 23), the place is the lowest free one (log 33), and the link word of every row
passed over is read, the tail's too (log 54). -/
def Obligations.DueHandoutGivesAJob : Prop :=
  ∀ (w : Nat) (e : Outside) (s₀ s : State), s₀.outside e = s →
    w < 8 → s.worker w = none → s.control.engine = .running → s.units.ready = [] →
    (64 ≤ s.holds.due.count ∨ ∀ n, n < s.dir.laneCount → (s.laneState n).ready = false) →
    (let fits := fun (v : State) => v.journal.written - v.journal.cached + v.journal.reserved + 1 ≤ v.dir.journalCount
    let left := fun (v : State) => ∀ t, PassedOver (laneOrder v) v t → exec (.workerDispatch w e) s₀ = .next t ∧ t.worker w = none ∧
      t.units.places = s.units.places ∧ t.holds = s.holds
    (s.freePlace = none → left s) ∧
    (∀ p, s.freePlace = some p → ¬ fits s → ¬ fits (refreshDrained s) → left (refreshDrained s)) ∧
    (∀ (p : Nat) (u v : State) (js : List Nat) (c : Option Nat), s.freePlace = some p →
      ((fits s ∧ u = s) ∨ (¬ fits s ∧ u = refreshDrained s ∧ fits u)) → RowsPassed DuePassed s.holds.due.head js c u v →
      (js.length ≤ s.holds.due.count → (c = none ∨ js.length = s.holds.due.count) → left v) ∧
      (∀ i h x, c = some i → js.length < s.holds.due.count → v.inHand i = false → HoldRead i h v x → v.isListed .card h.card = false →
        ∃ t, exec (.workerDispatch w e) s₀ = .next t ∧
          t.worker w = some { task := .expiry i h.gen h.card, place := p, room := 1 } ∧ (∀ n, n ≠ w → t.worker n = u.worker n) ∧
          p < 32 ∧ p ∉ s.units.places ∧ t.units.places = s.units.places ++ [p] ∧
          t.journal = { u.journal with reserved := u.journal.reserved + 1 } ∧
          t.holds = { s.holds with hand := s.holds.hand ++ [{ kind := .expiry, hold := i, gen := h.gen, card := h.card, place := p }] } ∧
          { t.units with workers := u.units.workers, places := s.units.places } = u.units ∧
          { t with units := u.units, journal := u.journal, holds := s.holds } = x)))

/-- A request whose till lock, or whose card lock, is held or finds its bank full enters the pool's waiters behind the others and leaves its
worker FREE (R117, R118, R121): the till kinds wait for either, CARD_STATUS, BONUS_GRANT, ROW_READ and ROW_WRITE for their card lock,
TILL_WRITE and TILL_RELEASE for their till lock. A BONUS_GRANT outside the allowed
kinds is declined KIND_NOT_ALLOWED and does not come to its card lock (R27). -/
def Obligations.RequestsWaitForTheirLocks : Prop :=
  (∀ (mk : Nat → Outside → Instr) (kd : RequestKind) (w : Nat) (e : Outside) (s₀ s : State) (k : Work) (t : TillRow),
    (mk, kd) ∈ tillCommands → s₀.outside e = s → Posted kd w k s → k.req.tillIndex < 32768 → s.isListed .till k.req.tillIndex = false →
    s.tillRow k.req.tillIndex = { val := t, ecc := .clean } → t.admits k.req = true →
    (s.lockHeld (.till k.req.tillIndex) = true ∨ 8 ≤ s.locks.till.length →
      ∃ u, exec (mk w e) s₀ = .next u ∧ Pooled w (.till k.req.tillIndex) k s u) ∧
    (∀ sel i, TillPasses kd k t s → checkDigitOk k.req.digits = true → selectProgramme s.tables k.req.digits = some sel →
      kindAllowed kd sel = true → rowIndex sel k.req.serial = some i → s.isListed .card i = false →
      (s.lockHeld (.card i) = true ∨ 8 ≤ s.locks.card.length) →
      ∃ u, exec (mk w e) s₀ = .next u ∧
        Pooled w (.card i) { k.tillRowRead t s with selection := some sel, rowIndex := some i }
          { s with locks := { s.locks with till := s.locks.till ++ [{ row := k.req.tillIndex, holder := k.place }] } } u)) ∧
  (∀ (mk : Nat → Outside → Instr) (row : Req → Bool) (kd : RequestKind) (w : Nat) (e : Outside) (s₀ s : State) (k : Work),
    (mk, row) ∈ requestCommands → s₀.outside e = s → Posted kd w k s → row k.req = true →
    (∀ sel i, kd = .cardStatus ∨ kd = .bonusGrant ∨ kd = .rowRead ∨ kd = .rowWrite →
      checkDigitOk k.req.digits = true → selectProgramme s.tables k.req.digits = some sel → kindAllowed kd sel = true →
      rowIndex sel k.req.serial = some i → (s.isListed .card i = false ∨ kd = .rowWrite) → (s.lockHeld (.card i) = true ∨ 8 ≤ s.locks.card.length) →
      ∃ u, exec (mk w e) s₀ = .next u ∧ Pooled w (.card i) { k with selection := some sel, rowIndex := some i } s u) ∧
    (∀ sel, kd = .bonusGrant → checkDigitOk k.req.digits = true → selectProgramme s.tables k.req.digits = some sel →
      kindAllowed kd sel = false →
      exec (mk w e) s₀ = .next (commitNow w { k with selection := some sel } { result := .declined, reason := .kindNotAllowed } s)) ∧
    (kd = .tillWrite ∨ kd = .tillRelease → (s.lockHeld (.till k.req.tillIndex) = true ∨ 8 ≤ s.locks.till.length) →
      ∃ u, exec (mk w e) s₀ = .next u ∧ Pooled w (.till k.req.tillIndex) k s u))

/-- A FREE worker takes the oldest ready entry where the lock it received is the one asked for, and a worker that WORKER_DISPATCH gave the entry
goes on with it (R114, R115): a till request from its second reading of the till row (R95), TILL_WRITE and TILL_RELEASE from their step 16,
a request with its card lock from the card row read, an expiry job from its decision (R88); each request comes to its own step 16 and commits.
THE MODEL'S CHOICE (log 5): an entry of the other kind, an empty ready queue and an engine that dispatches nothing leave all as it was, and
the trail entry of a job that does nothing names its row (log 56). A job reads its hold row also where its EXPIRY entry is gone (log 38), and does not
make R90's move then (log 35), and a freed row keeps its other fields (log 26). A row that joined the quarantine list
while its request waited is read all the same, but for ROW_WRITE (log 59). -/
def Obligations.ReadyWorkGoesOnFromItsLock : Prop :=
  ∀ (w : Nat) (e : Outside) (s₀ s : State), s₀.outside e = s →
    (∀ (k : Work) (u : State),
      ((w < 8 ∧ s.worker w = none ∧ (s.control.engine = .running ∨ s.control.engine = .draining) ∧
          ∃ r, s.units.ready = k :: r ∧ u = (s.setUnits { s.units with ready := r }).setWorker w (some k)) ∨
        (s.worker w = some k ∧ u = s)) →
      (let k₁ : Work := { k with phase := .taken }
      let k₂ : Work := { k₁ with cardReading := some s.clock.reading }
      (∀ kd sel i row t q u₁, k.kind? = some kd → k.phase = .gotTill → kd.isTill = true → k.tillLock = some k.req.tillIndex →
        k.req.tillIndex < 32768 → s.isListed .till k.req.tillIndex = false → s.tillRow k.req.tillIndex = { val := t, ecc := .clean } →
        t.admits k.req = true → findRecent k.req.seq t.recent = none →
        standingGate kd (t.atSecondReading s.dir.recovery s.clock.reading.index).standing = none →
        CardPasses kd k sel i row s → RowPasses kd k sel row s →
        stepSixteen kd (k₁.tillServed t sel i s) (servedPlan kd k sel row s) (u.cardLocked k i) = (u₁, some q) → q.status = none →
        u₁.trailOwing u₁.store.trailPlace = false →
        exec (.resumeAfterTillLock w e) s₀ = .next (commitNow w (k₁.tillServed t sel i s) q u₁)) ∧
      (∀ kd q u₁, k.kind? = some kd → k.phase = .gotTill → kd = .tillWrite ∨ kd = .tillRelease →
        stepSixteen kd k₁ {} u = (u₁, some q) → u₁.trailOwing u₁.store.trailPlace = false →
        exec (.resumeAfterTillLock w e) s₀ = .next (commitNow w k₁ q u₁)) ∧
      (∀ kd sel i row q u₁, k.kind? = some kd → k.phase = .gotCard → kd.isTill = true ∨ kd = .cardStatus ∨ kd = .bonusGrant →
        k.selection = some sel → k.rowIndex = some i → s.card i = { val := row, ecc := .clean } → RowPasses kd k sel row s →
        stepSixteen kd k₂ (servedPlan kd k sel row s) u = (u₁, some q) → q.status = none → u₁.trailOwing u₁.store.trailPlace = false →
        exec (.resumeAfterCardLock w e) s₀ = .next (commitNow w k₂ q u₁)) ∧
      (∀ kd i row q u₁, k.kind? = some kd → k.phase = .gotCard → kd = .rowRead ∨ (kd = .rowWrite ∧ s.isListed .card i = false) →
        k.rowIndex = some i → s.card i = { val := row, ecc := .clean } →
        stepSixteen kd k₂ { today := s.clock.day, card := some row, cardRead := some row } u = (u₁, some q) →
        u₁.trailOwing u₁.store.trailPlace = false → exec (.resumeAfterCardLock w e) s₀ = .next (commitNow w k₂ q u₁)) ∧
      (∀ i q u₁, k.kind? = some .rowWrite → k.phase = .gotCard → k.rowIndex = some i → s.isListed .card i = true →
        stepSixteen .rowWrite k₂ { today := s.clock.day } u = (u₁, some q) →
        u₁.trailOwing u₁.store.trailPlace = false → exec (.resumeAfterCardLock w e) s₀ = .next (commitNow w k₂ q u₁)) ∧
      (∀ hold gen card, k.task = .expiry hold gen card → k.phase = .gotCard → s.trailOwing s.store.trailPlace = false →
        JobDecides w hold gen card k₂ u (exec (.resumeAfterCardLock w e) s₀)) ∧
      (k.phase ≠ .gotTill → exec (.resumeAfterTillLock w e) s₀ = .next s) ∧
      (k.phase ≠ .gotCard → exec (.resumeAfterCardLock w e) s₀ = .next s))) ∧
    (s.worker w = none → (8 ≤ w ∨ s.units.ready = [] ∨ (s.control.engine ≠ .running ∧ s.control.engine ≠ .draining)) →
      exec (.resumeAfterTillLock w e) s₀ = .next s ∧ exec (.resumeAfterCardLock w e) s₀ = .next s)

/-- A BALANCE that waits for room commits once one entry is free and granted to it, here or when the free room rose, and waits on while none is (R46,
R170); a commit that waits for the trail entry at the write place, a BALANCE whose room was granted among them, goes on once that entry owes
nothing, and waits on while it does (R142). -/
def Obligations.WaitingCommitsGoOn : Prop :=
  ∀ (w : Nat) (e : Outside) (s₀ s : State) (k : Work) (p : Plan), s₀.outside e = s → s.worker w = some k →
    (k.phase = .awaitRoom p → s.units.roomWaiters = [w] →
      (s.journal.written - s.journal.cached + s.journal.reserved + 1 ≤ s.dir.journalCount → s.trailOwing s.store.trailPlace = false →
        ∃ t, t.worker w = some { k with phase := .roomGranted p, room := k.room + 1 } ∧ (∀ v, v ≠ w → t.worker v = s.worker v) ∧
          t.journal = { s.journal with reserved := s.journal.reserved + 1 } ∧ t.units.roomWaiters = [] ∧
          { t with units := s.units, journal := s.journal } = s ∧ t.units.waiting = s.units.waiting ∧ t.units.ready = s.units.ready ∧
          t.units.places = s.units.places ∧
          exec (.balanceRoomGranted w e) s₀ = .next (commitNow w { k with phase := .taken, room := k.room + 1 } p t)) ∧
      (s.dir.journalCount < s.journal.written - s.journal.cached + s.journal.reserved + 1 →
        exec (.balanceRoomGranted w e) s₀ = .next s)) ∧
    (k.phase = .roomGranted p →
      (s.units.roomWaiters = [] ∨ s.dir.journalCount < s.journal.written - s.journal.cached + s.journal.reserved + 1) →
      (s.trailOwing s.store.trailPlace = false →
        exec (.balanceRoomGranted w e) s₀ = .next (commitNow w { k with phase := .taken } p s)) ∧
      (s.trailOwing s.store.trailPlace = true →
        exec (.balanceRoomGranted w e) s₀ = .next (s.setWorker w (some { k with phase := .awaitTrail p })))) ∧
    (k.phase = .awaitTrail p →
      ((s.trailStatusAt s.store.trailPlace).journal ≠ .pending → (s.trailStatusAt s.store.trailPlace).answer ≠ .pending →
        exec (.trailPlaceFreed w e) s₀ = .next (commitNow w { k with phase := .taken } p s)) ∧
      ((s.trailStatusAt s.store.trailPlace).journal = .pending ∨ (s.trailStatusAt s.store.trailPlace).answer = .pending →
        exec (.trailPlaceFreed w e) s₀ = .next s))

/-- An expiry job under its card lock (R88, R89, R90): by the first case that applies it does nothing, files the row again, or frees it, takes
its amount from the card's held total where a reference matches, and journals HOLD_EXPIRE; a card row that cannot be read, or a hold row that
cannot, ends it, and with the card row unreadable and no place in the quarantine list it moves the hold row to the tail of the due chain. A held
card lock is waited for (R121). THE MODEL'S CHOICE: the hold row is read, and may join the list, also where the EXPIRY entry is gone (log 38), and
that move is not made where it is gone (log 35); the trail entry of a job that does nothing names its row too (log 56); a freed row keeps its other
fields (log 26). -/
def Obligations.ExpiryJobDecides : Prop :=
  ∀ (w hold gen card : Nat) (e : Outside) (s₀ s : State) (k : Work), s₀.outside e = s → s.worker w = some k →
    k.task = .expiry hold gen card → k.phase = .taken → s.trailOwing s.store.trailPlace = false →
    (s.lockHeld (.card card) = true ∨ 8 ≤ s.locks.card.length →
      ∃ u, exec (.expiryJob w e) s₀ = .next u ∧ Pooled w (.card card) k s u) ∧
    (s.lockHeld (.card card) = false → s.locks.card.length < 8 →
      JobDecides w hold gen card { k with cardLock := some card, cardReading := some s.clock.reading } (s.cardLocked k card)
        (exec (.expiryJob w e) s₀))

/-! ### Admission -/

/-- Steps 1 and 2 of a request (R38, R39, R40, R41, R187): a malformed request is declined MALFORMED, an office kind on a lane that is not an
OFFICE lane NOT_PERMITTED, with no row read and no lock taken. THE MODEL'S CHOICE (log 5): a command of a row the held request is not of,
and one on a worker with no request at step 1, change nothing; a till id with a nibble above 9 is malformed here (log 12); a request whose action byte
names no action is run by UNKNOWN_KIND_REQUEST (log 14). -/
def Obligations.StepsOneAndTwoDecline : Prop :=
  ∀ (mk : Nat → Outside → Instr) (row : Req → Bool) (w : Nat) (e : Outside) (s₀ s : State), (mk, row) ∈ requestCommands →
    s₀.outside e = s →
    (s.atStepOne w = none → exec (mk w e) s₀ = .next s) ∧
    (∀ k, s.atStepOne w = some k →
      (row k.req = false → exec (mk w e) s₀ = .next s) ∧
      (row k.req = true → s.trailOwing s.store.trailPlace = false →
        (requestWellFormed k.half = false →
          exec (mk w e) s₀ = .next (commitNow w k { result := .declined, reason := .malformed } s)) ∧
        (∀ kd, k.kind? = some kd → requestWellFormed k.half = true → kd.isTill = false → k.onOfficeLane = false →
          exec (mk w e) s₀ = .next (commitNow w k { result := .declined, reason := .notPermitted } s))) ∧
      (ofUnknownKind k.req = true → s.trailOwing s.store.trailPlace = false →
        exec (.unknownKindRequest w e) s₀ = .next (commitNow w k { result := .declined, reason := .malformed } s)))

/-- Steps 3 to 14 of a till request (R3, R4, R24, R26, R27, R30, R38, R41, R95, R134): the first test that fails declines it with its reason. At step
3 no lock is held; from step 4 on the till lock is, with the till row's copies; a card row whose read fails joins the quarantine list; from step 14 on
the card's upkeep is kept. THE MODEL'S CHOICE: a REVERSE on an ISSUED card is declined as R4's table has it, though R61 says that only EMPTY and CLOSED
decline it (log 53), and the recent-list entry of a request declined UNKNOWN_CARD for its serial at step 10 has no card row (log 47). -/
def Obligations.TillAdmissionDeclinesByTheFirstFailedTest : Prop :=
  ∀ (mk : Nat → Outside → Instr) (kd : RequestKind) (w : Nat) (e : Outside) (s₀ s : State) (k : Work), (mk, kd) ∈ tillCommands →
    s₀.outside e = s → Posted kd w k s →
    (let no := fun (r : Reason) => ({ result := .declined, reason := r } : Plan)
    (32768 ≤ k.req.tillIndex ∨ s.isListed .till k.req.tillIndex = true →
      exec (mk w e) s₀ = .next (commitNow w k (no .tillUnknown) s)) ∧
    (∀ t, k.req.tillIndex < 32768 → s.isListed .till k.req.tillIndex = false →
      s.tillRow k.req.tillIndex = { val := t, ecc := .clean } →
      (t.registered = false ∨ t.storeNo ≠ k.req.storeNo ∨ t.tillNo ≠ k.req.tillNo) →
      exec (mk w e) s₀ = .next (commitNow w k (no .tillUnknown) s)) ∧
    (∀ t, TillPasses kd k t s →
      (let k₁ := k.tillRowRead t s
      let u := s.tillLocked k
      (checkDigitOk k.req.digits = false → exec (mk w e) s₀ = .next (commitNow w k₁ (no .checkDigit) u)) ∧
      (checkDigitOk k.req.digits = true → selectProgramme s.tables k.req.digits = none →
        exec (mk w e) s₀ = .next (commitNow w k₁ (no .noProgramme) u)) ∧
      (∀ sel, checkDigitOk k.req.digits = true → selectProgramme s.tables k.req.digits = some sel →
        (let k₂ : Work := { k₁ with selection := some sel }
        (kindAllowed kd sel = false → exec (mk w e) s₀ = .next (commitNow w k₂ (no .kindNotAllowed) u)) ∧
        (kindAllowed kd sel = true → sel.programme.rowCount ≤ k.req.serial →
          exec (mk w e) s₀ = .next (commitNow w k₂ (no .unknownCard) u)) ∧
        (∀ i, kindAllowed kd sel = true → k.req.serial < sel.programme.rowCount → i = sel.programme.rowBase + k.req.serial →
          (s.isListed .card i = true →
            exec (mk w e) s₀ = .next (commitNow w { k₂ with rowIndex := some i } (no .cardUnreadable) u)) ∧
          (s.isListed .card i = false → s.lockHeld (.card i) = false → s.locks.card.length < 8 →
            ((s.card i).ecc.outcome = .uncorrectable → exec (mk w e) s₀ =
              .next (commitNow w (k.tillServed t sel i s) (no .cardUnreadable) (quarantineJoin .card i (s.bothLocked k i)))) ∧
            (∀ row, s.card i = { val := row, ecc := .clean } →
              (row.state = .empty ∨ row.programme ≠ sel.programmeNo →
                exec (mk w e) s₀ = .next (commitNow w (k.tillServed t sel i s) (no .unknownCard) (s.bothLocked k i))) ∧
              (∀ r, row.state ≠ .empty → row.programme = sel.programmeNo →
                GateDeclines kd row.state r →
                exec (mk w e) s₀ = .next (commitNow w (k.tillServed t sel i s)
                  { result := .declined, reason := r, today := s.clock.day, card := some (upkeep kd sel s.clock.reading row)
                    cardRead := some row, lapsed := upkeepLapsed kd s.clock.reading row, seen := true } (s.bothLocked k i)))))))))))

/-- Step 7, the check digit test (R24): the 19 digits weighted from the right 1, 3, 1, 3 and so on must sum to a multiple of 10. A till request and
an office card request that fail it are declined CHECK_DIGIT, no rule consulted and no row read; one that passes it goes on to step 8, which
declines NO_PROGRAMME where no rule selects. The reason is a card fault. -/
def Obligations.CheckDigitTestAtStepSeven : Prop :=
  (∀ ds : List Nat, ds.length = 19 → (∀ d ∈ ds, d ≤ 9) →
    (let sum := ((List.range 19).map (fun i => ds.getD i 0 * (if i % 2 = 0 then 1 else 3))).sum
    (checkDigitOk ds = true ↔ sum % 10 = 0) ∧ sum ≤ 333)) ∧
  (∀ (mk : Nat → Outside → Instr) (kd : RequestKind) (w : Nat) (e : Outside) (s₀ s : State) (k : Work) (t : TillRow), (mk, kd) ∈ tillCommands →
    s₀.outside e = s → Posted kd w k s → TillPasses kd k t s →
    (checkDigitOk k.req.digits = false →
      exec (mk w e) s₀ = .next (commitNow w (k.tillRowRead t s) { result := .declined, reason := .checkDigit } (s.tillLocked k))) ∧
    (checkDigitOk k.req.digits = true → selectProgramme s.tables k.req.digits = none →
      exec (mk w e) s₀ = .next (commitNow w (k.tillRowRead t s) { result := .declined, reason := .noProgramme } (s.tillLocked k)))) ∧
  (∀ (mk : Nat → Outside → Instr) (row : Req → Bool) (kd : RequestKind) (w : Nat) (e : Outside) (s₀ s : State) (k : Work),
    (mk, row) ∈ requestCommands → s₀.outside e = s → Posted kd w k s → row k.req = true → kd.isTill = false → kd.hasCard = true →
    (checkDigitOk k.req.digits = false →
      exec (mk w e) s₀ = .next (commitNow w k { result := .declined, reason := .checkDigit } s)) ∧
    (checkDigitOk k.req.digits = true → selectProgramme s.tables k.req.digits = none →
      exec (mk w e) s₀ = .next (commitNow w k { result := .declined, reason := .noProgramme } s))) ∧
  (∀ t : TillRow, t.barred = false → t.score ≤ 247 → (t.scored .declined .checkDigit false).score = t.score + 8)

/-- Steps 5 and 6 of a till request (R100, R106, R107, R108): an entry of its sequence answers it as a repeat, or declines it ALREADY_REVERSED
or SEQUENCE_CLASH, adding no entry; with none, the standing gate declines a RESTRICTED or BARRED till. No card row is read or locked. -/
def Obligations.RepeatsClashesAndTheStandingGate : Prop :=
  ∀ (mk : Nat → Outside → Instr) (kd : RequestKind) (w : Nat) (e : Outside) (s₀ s : State) (k : Work) (t : TillRow),
    (mk, kd) ∈ tillCommands → s₀.outside e = s → Posted kd w k s → TillReads k t s →
    (let out := fun (p : Plan) => (Host.Outcome.next (commitNow w (k.tillRowRead t s) p (s.tillLocked k)) : Host.Outcome State Fault Refusal)
    let st := (t.atSecondReading s.dir.recovery s.clock.reading.index).standing
    (∀ x, findRecent k.req.seq t.recent = some x →
      (let same := x.kind = some kd ∧ x.digits = k.req.digits ∧
        x.requested = some (if kd = .reverse then k.req.target else k.req.amount)
      (x.state ≠ .reversedAhead → same → exec (mk w e) s₀ = out
        { result := x.result.getD .declined, reason := x.reason.getD .none, flags := { x.flags with isRepeat := true }
          approved := x.approved.getD 0, ref := x.ref, adds := false, repeated := some x
          bonus := if kd = .activate ∨ kd = .load ∨ kd = .reverse then lotSum (x.parts.filter Lot.isBonus) else 0 }) ∧
      (x.state = .reversedAhead → kd ≠ .reverse → exec (mk w e) s₀ = out { result := .declined, reason := .alreadyReversed, adds := false }) ∧
      (x.state = .reversedAhead → kd = .reverse → exec (mk w e) s₀ = out { result := .declined, reason := .sequenceClash, adds := false }) ∧
      (x.state ≠ .reversedAhead → ¬ same → exec (mk w e) s₀ = out { result := .declined, reason := .sequenceClash, adds := false }))) ∧
    (findRecent k.req.seq t.recent = none →
      (st = .restricted → kd ≠ .balance → kd ≠ .holdCancel → kd ≠ .reverse →
        exec (mk w e) s₀ = out { result := .declined, reason := .tillRestricted }) ∧
      (st = .barred → kd ≠ .reverse → exec (mk w e) s₀ = out { result := .declined, reason := .tillBarred })))

/-- The code check (R16, R17): where a code is required, an absent one declines CODE_MISSING; a wrong one raises tries, stopping at 7, and declines
WRONG_CODE, locking the card with CARD_LOCKED_NOW and a STATUS entry at the tries limit. A BALANCE that locks its card first asks one entry of
room (R46) and, with none free, waits on its worker. -/
def Obligations.CodeCheckDeclines : Prop :=
  ∀ (mk : Nat → Outside → Instr) (kd : RequestKind) (w i : Nat) (e : Outside) (s₀ s : State) (k : Work) (t : TillRow) (sel : Selection)
    (row : CardRow), (mk, kd) ∈ tillCommands → s₀.outside e = s → Posted kd w k s → TillPasses kd k t s → CardPasses kd k sel i row s →
    owned row sel.programmeNo = true →
    (let c := upkeep kd sel s.clock.reading row
    let k' := k.tillServed t sel i s
    let u := s.bothLocked k i
    let p : Plan :=
      { result := .declined, today := s.clock.day, card := some c, cardRead := some row, lapsed := upkeepLapsed kd s.clock.reading row, seen := true }
    let tries := min (c.tries + 1) 7
    cardGate kd c.state = none → (kd = .balance ∨ kd = .redeem ∨ kd = .holdOpen) → (c.state = .active ∨ c.state = .suspended) →
    c.code ≠ none → (sel.programme.codePolicy = .always ∨
      (sel.programme.codePolicy = .above ∧ sel.programme.codeThreshold ≤ k.req.amount)) →
    (k.req.code = [0xFF, 0xFF] → exec (mk w e) s₀ = .next (commitNow w k' { p with reason := .codeMissing } u)) ∧
    (k.req.code ≠ [0xFF, 0xFF] → c.code ≠ some k.req.codeValue → tries < sel.programme.triesLimit →
      exec (mk w e) s₀ = .next (commitNow w k' { p with reason := .wrongCode, card := some { c with tries := tries } } u)) ∧
    (k.req.code ≠ [0xFF, 0xFF] → c.code ≠ some k.req.codeValue → sel.programme.triesLimit ≤ tries →
      (let q : Plan := { p with
        reason := .wrongCode, card := some { c with tries := tries, state := .locked }, flags := { cardLockedNow := true }
        status := some (c.state, .locked) }
      (kd ≠ .balance → exec (mk w e) s₀ = .next (commitNow w k' q u)) ∧
      (kd = .balance → s.journal.written - s.journal.cached + s.journal.reserved + 1 ≤ s.dir.journalCount →
        exec (mk w e) s₀ = .next (commitNow w { k' with room := k.room + 1 } q
          { u with journal := { s.journal with reserved := s.journal.reserved + 1 } })) ∧
      (kd = .balance → s.dir.journalCount < s.journal.written - s.journal.cached + s.journal.reserved + 1 →
        linkRead s s.dir.hostWords 8 = none → ∃ v, exec (mk w e) s₀ = .next v ∧
          v.worker w = some { k' with phase := .awaitRoom q } ∧ v.units.roomWaiters = s.units.roomWaiters ++ [w] ∧
          v.locks = u.locks ∧ { v with units := s.units, locks := s.locks } = s))))

/-! ### The till kinds at step 16 -/

/-- BALANCE (R47): approved with amount 0 and the card's figures; the row is changed by a right code alone, which sets tries to 0, and lapsed lots
stay in it. A till or card row that reads corrected is served the same and written back (R132, R133). -/
def Obligations.BalanceReportsTheCard : Prop :=
  ∀ (w i : Nat) (e : Outside) (s₀ s : State) (k : Work) (t : TillRow) (sel : Selection) (row : CardRow), s₀.outside e = s →
    TillReady .balance w k t sel i row s →
    (let p : Plan :=
      { result := .approved, reason := .none, approved := 0, bonus := 0, ref := none, seen := true, today := s.clock.day
        card := some (if codeRequired .balance k.req.amount sel row then { row with tries := 0 } else row), cardRead := some row, lapsed := 0 }
    exec (.balance w e) s₀ = .next (commitNow w (k.tillServed t sel i s) p (s.bothLocked k i)) ∧
    (∀ v₀ v, v₀.outside e = v → Corrupted k.req.tillIndex i s v →
      ∃ u, ReadsAs (s.bothLocked k i) u ∧ exec (.balance w e) v₀ = .next (commitNow w (k.tillServed t sel i s) p u)))

/-- ACTIVATE (R10, R48, R49, R51, R52): its checks in order, then the paid value, the bonus, the state ACTIVE and the two days. -/
def Obligations.ActivateChecksAndLoads : Prop :=
  ∀ (w i : Nat) (e : Outside) (s₀ s : State) (k : Work) (t : TillRow) (sel : Selection) (row : CardRow), s₀.outside e = s →
    TillReady .activate w k t sel i row s →
    (let g := sel.programme
    let a := k.req.amount
    let p := servedPlan .activate k sel row s
    let c := workingRow .activate k sel row s
    let out := fun (q : Plan) =>
      (Host.Outcome.next (commitNow w (k.tillServed t sel i s) q (s.bothLocked k i)) : Host.Outcome State Fault Refusal)
    (c.state ≠ .issued → exec (.activate w e) s₀ = out { p with result := .declined, reason := .kindNotAllowed }) ∧
    (c.state = .issued →
      (a < g.activationMin → exec (.activate w e) s₀ = out { p with result := .declined, reason := .belowMinimum }) ∧
      (g.activationMin ≤ a →
        (g.cap < balance s.clock.day c.lots + a → exec (.activate w e) s₀ = out { p with result := .declined, reason := .overLimit }) ∧
        (balance s.clock.day c.lots + a ≤ g.cap →
          (addPaid a c.lots = none → exec (.activate w e) s₀ = out { p with result := .declined, reason := .cardFull }) ∧
          (∀ paid, addPaid a c.lots = some paid →
            ∃ q, LoadPlan g .activate a { c with state := .active, activationDay := some s.clock.day } paid p q ∧
              exec (.activate w e) s₀ = out q)))))

/-- LOAD (R10, R50, R51, R52): OVER_LIMIT, then CARD_FULL, then the paid value and the bonus: due by rate, threshold and cap, lowered to the headroom
with BONUS_CLAMPED, given up for want of a lot with BONUS_WITHHELD; the last-use day is today. -/
def Obligations.LoadAddsValueAndBonus : Prop :=
  ∀ (w i : Nat) (e : Outside) (s₀ s : State) (k : Work) (t : TillRow) (sel : Selection) (row : CardRow), s₀.outside e = s →
    TillReady .load w k t sel i row s →
    (let g := sel.programme
    let a := k.req.amount
    let p := servedPlan .load k sel row s
    let c := workingRow .load k sel row s
    let out := fun (q : Plan) =>
      (Host.Outcome.next (commitNow w (k.tillServed t sel i s) q (s.bothLocked k i)) : Host.Outcome State Fault Refusal)
    (g.cap < balance s.clock.day c.lots + a → exec (.load w e) s₀ = out { p with result := .declined, reason := .overLimit }) ∧
    (balance s.clock.day c.lots + a ≤ g.cap →
      (addPaid a c.lots = none → exec (.load w e) s₀ = out { p with result := .declined, reason := .cardFull }) ∧
      (∀ paid, addPaid a c.lots = some paid → ∃ q, LoadPlan g .load a c paid p q ∧ exec (.load w e) s₀ = out q)))

/-- REDEEM (R12, R18, R53, R54): VELOCITY, then the whole amount, a part of it where the programme allows one, or INSUFFICIENT. What is approved
is drawn from the front of the lots, counted in the window, dated, journalled and kept as draw parts. -/
def Obligations.RedeemDrawsTheLots : Prop :=
  ∀ (w i : Nat) (e : Outside) (s₀ s : State) (k : Work) (t : TillRow) (sel : Selection) (row : CardRow), s₀.outside e = s →
    TillReady .redeem w k t sel i row s →
    (let g := sel.programme
    let a := k.req.amount
    let p := servedPlan .redeem k sel row s
    let c := workingRow .redeem k sel row s
    let av := balance s.clock.day c.lots - c.held
    let out := fun (q : Plan) =>
      (Host.Outcome.next (commitNow w (k.tillServed t sel i s) q (s.bothLocked k i)) : Host.Outcome State Fault Refusal)
    let drawn := fun (d : Nat) => ({ p with
      result := if d < a then .partly else .approved, reason := .none, approved := d, own := [(.redeem, [a, d])], parts := (drawLots d c.lots).1
      card := some { c with
        lots := (drawLots d c.lots).2, windowCount := min (c.windowCount + 1) 255, lastUseDay := some s.clock.day } } : Plan)
    let reached := 0 < g.velocityLimit ∧ g.velocityLimit ≤ c.windowCount
    (reached → exec (.redeem w e) s₀ = out { p with result := .declined, reason := .velocity }) ∧
    (¬ reached →
      (a ≤ av → exec (.redeem w e) s₀ = out (drawn a)) ∧
      (av < a → g.partialAllowed = true → 1 ≤ av → exec (.redeem w e) s₀ = out (drawn av)) ∧
      (av < a → (g.partialAllowed = false ∨ av = 0) →
        exec (.redeem w e) s₀ = out { p with result := .declined, reason := .insufficient })))

/-- HOLD_OPEN (R56, R79, R80): VELOCITY, INSUFFICIENT, HOLD_LIMIT, HOLD_TABLE_FULL, then the first row from the free chain's head on that is unlisted,
unclaimed and readable is claimed and opened: the card takes a reference and the held amount, the hold row its deadline. The rows before it are passed
over, one that cannot be read joining the quarantine list where there is room; with all of them passed over, or none in the chain, the answer is
HOLD_TABLE_FULL. THE MODEL'S CHOICE (log 54): the link word of every row passed over is read, the tail's too. -/
def Obligations.HoldOpenClaimsARow : Prop :=
  ∀ (w i : Nat) (e : Outside) (s₀ s : State) (k : Work) (t : TillRow) (sel : Selection) (row : CardRow), s₀.outside e = s →
    TillReady .holdOpen w k t sel i row s →
    (let g := sel.programme
    let a := k.req.amount
    let p := servedPlan .holdOpen k sel row s
    let c := workingRow .holdOpen k sel row s
    let u := s.bothLocked k i
    let out := fun (q : Plan) (v : State) =>
      (Host.Outcome.next (commitNow w (k.tillServed t sel i s) q v) : Host.Outcome State Fault Refusal)
    let no := fun (r : Reason) => out { p with result := .declined, reason := r } u
    let reached := 0 < g.velocityLimit ∧ g.velocityLimit ≤ c.windowCount
    (reached → exec (.holdOpen w e) s₀ = no .velocity) ∧
    (¬ reached → balance s.clock.day c.lots - c.held < a → exec (.holdOpen w e) s₀ = no .insufficient) ∧
    (¬ reached → a ≤ balance s.clock.day c.lots - c.held →
      (g.holdsPerCard ≤ c.refs.length → exec (.holdOpen w e) s₀ = no .holdLimit) ∧
      (c.refs.length < g.holdsPerCard →
        (s.holds.free.count = 0 → exec (.holdOpen w e) s₀ = no .holdTableFull) ∧
        (∀ js v, RowsPassed ClaimPassed s.holds.free.head js none u v → js.length ≤ s.holds.free.count →
          exec (.holdOpen w e) s₀ = out { p with result := .declined, reason := .holdTableFull } v) ∧
        (∀ js j v, RowsPassed ClaimPassed s.holds.free.head js (some j) u v → js.length = s.holds.free.count →
          exec (.holdOpen w e) s₀ = out { p with result := .declined, reason := .holdTableFull } v) ∧
        (∀ js j h v x, RowsPassed ClaimPassed s.holds.free.head js (some j) u v → js.length < s.holds.free.count → v.isClaimed j = false →
          HoldRead j h v x →
          (let d := min (s.clock.now + g.holdLife) 94371839
          exec (.holdOpen w e) s₀ = out
            { p with
              result := .approved, reason := .none, approved := a, ref := some { index := j, gen := h.gen }
              own := [(.holdOpen, [j, h.gen, a, d])], holdIndex := some j, holdItem := some (j, h.gen, d)
              holdOps := [.openRow j
                { isOpen := true, gen := h.gen, card := i, till := k.req.tillIndex, seq := k.req.seq, amount := a, deadline := d, renewals := 0 }]
              card := some { c with
                refs := c.refs ++ [{ index := j, gen := h.gen, amount := a }], held := c.held + a
                windowCount := min (c.windowCount + 1) 255, lastUseDay := some s.clock.day } }
            { x with holds := { s.holds with
              hand := s.holds.hand ++ [{ kind := .claim, hold := j, gen := h.gen, card := i, place := k.place }] } })))))

/-- HOLD_RENEW (R55, R57, R81): NO_HOLD, CARD_UNREADABLE, HOLD_GONE, RENEW_LIMIT, then the hold row takes a new deadline and one more renewal; the
card keeps its references and held total and takes today as last-use day. A hold row that reads corrected is served the same and written back (R133).
THE MODEL'S CHOICE: a declined request's matched hold is the trail's hold index too (log 41), a row that cannot be read gives no HOLD_REF item (log
18), and the journal entry's renewals used is the figure after the rise (log 52). -/
def Obligations.HoldRenewMovesTheDeadline : Prop :=
  ∀ (w i : Nat) (e : Outside) (s₀ s : State) (k : Work) (t : TillRow) (sel : Selection) (row : CardRow), s₀.outside e = s →
    TillReady .holdRenew w k t sel i row s →
    (let p := servedPlan .holdRenew k sel row s
    let c := workingRow .holdRenew k sel row s
    let u := s.bothLocked k i
    let ends := fun (q : Plan) (v : State) =>
      (Host.Outcome.next (commitNow w (k.tillServed t sel i s) q v) : Host.Outcome State Fault Refusal)
    let out := fun (q : Plan) => ends q u
    (findRef k.req.hold c = none → exec (.holdRenew w e) s₀ = out { p with result := .declined, reason := .noHold }) ∧
    (∀ r, findRef k.req.hold c = some r →
      (let m : Plan := { p with ref := some { index := r.index, gen := r.gen }, holdIndex := some r.index }
      (∀ v, HoldUnread r.index u v → exec (.holdRenew w e) s₀ = ends { m with result := .declined, reason := .cardUnreadable } v) ∧
      (∀ h v, HoldRead r.index h u v →
        (let out := fun (q : Plan) => ends q v
        let kept : Plan := { m with holdItem := if h.isOpen then some (r.index, r.gen, h.deadline) else none }
        (h.deadline ≤ s.clock.now → exec (.holdRenew w e) s₀ = out { kept with result := .declined, reason := .holdGone }) ∧
        (s.clock.now < h.deadline → sel.programme.renewalLimit ≤ h.renewals →
          exec (.holdRenew w e) s₀ = out { kept with result := .declined, reason := .renewLimit }) ∧
        (s.clock.now < h.deadline → h.renewals < sel.programme.renewalLimit →
          (let d := min (s.clock.now + sel.programme.holdLife) 94371839
          exec (.holdRenew w e) s₀ = out { m with
            result := .approved, reason := .none, approved := 0, holdItem := some (r.index, r.gen, d)
            card := some { c with lastUseDay := some s.clock.day }, own := [(.holdRenew, [r.index, r.gen, d, h.renewals + 1])]
            holdOps := [.renewRow r.index { h with deadline := d, renewals := h.renewals + 1 }] })))))))

/-- HOLD_CLOSE (R55, R58, R59): after the checks of a reference, OVER_TOLERANCE, then the final amount, or a part of it where the programme allows
one, or INSUFFICIENT. The reference and its amount leave the card, the value is drawn, the row is freed with its next generation. THE MODEL'S CHOICE:
a declined request's matched hold is the trail's hold index too (log 41), a row that cannot be read gives no HOLD_REF item (log 18), and a freed row
keeps its other fields (log 26). -/
def Obligations.HoldCloseCaptures : Prop :=
  ∀ (w i : Nat) (e : Outside) (s₀ s : State) (k : Work) (t : TillRow) (sel : Selection) (row : CardRow), s₀.outside e = s →
    TillReady .holdClose w k t sel i row s →
    (let p := servedPlan .holdClose k sel row s
    let c := workingRow .holdClose k sel row s
    let f := k.req.amount
    let u := s.bothLocked k i
    let ends := fun (q : Plan) (v : State) =>
      (Host.Outcome.next (commitNow w (k.tillServed t sel i s) q v) : Host.Outcome State Fault Refusal)
    let out := fun (q : Plan) => ends q u
    (findRef k.req.hold c = none → exec (.holdClose w e) s₀ = out { p with result := .declined, reason := .noHold }) ∧
    (∀ r, findRef k.req.hold c = some r →
      (let m : Plan := { p with ref := some { index := r.index, gen := r.gen }, holdIndex := some r.index }
      (∀ v, HoldUnread r.index u v → exec (.holdClose w e) s₀ = ends { m with result := .declined, reason := .cardUnreadable } v) ∧
      (∀ h, s.isListed .hold r.index = false → s.hold r.index = { val := h, ecc := .clean } →
        (let kept : Plan := { m with holdItem := if h.isOpen then some (r.index, r.gen, h.deadline) else none }
        let funds : Int := (balance s.clock.day c.lots : Int) - c.held + r.amount
        let beyond := r.amount + r.amount * sel.programme.tipTolerance / 100 < f
        let taken := fun (d : Nat) => ({ m with
          result := if d < f then .partly else .approved, reason := .none, approved := d, own := [(.capture, [r.index, r.gen, r.amount, d])]
          parts := (drawLots d c.lots).1, holdOps := [.freeRow r.index { h with isOpen := false, gen := (h.gen + 1) % 256 } false]
          card := some { c with
            lots := (drawLots d c.lots).2, held := c.held - r.amount, lastUseDay := some s.clock.day
            refs := c.refs.filter (fun q => !(decide (q.index = r.index) && decide (q.gen = r.gen))) } } : Plan)
        (h.deadline ≤ s.clock.now → exec (.holdClose w e) s₀ = out { kept with result := .declined, reason := .holdGone }) ∧
        (s.clock.now < h.deadline →
          (beyond → exec (.holdClose w e) s₀ = out { kept with result := .declined, reason := .overTolerance }) ∧
          (¬ beyond →
            ((f : Int) ≤ funds → exec (.holdClose w e) s₀ = out (taken f)) ∧
            (funds < f → sel.programme.partialAllowed = true → 1 ≤ funds → exec (.holdClose w e) s₀ = out (taken funds.toNat)) ∧
            (funds < f → (sel.programme.partialAllowed = false ∨ funds < 1) →
              exec (.holdClose w e) s₀ = out { kept with result := .declined, reason := .insufficient }))))))))

/-- HOLD_CANCEL (R55, R60, R83): the reference and its amount leave the card and the row is freed; on an OFFICE lane a row that cannot be read is
freed too, with a content built from the reference, and leaves the quarantine list. THE MODEL'S CHOICE: a declined request's matched hold is the
trail's hold index too (log 41), a row that cannot be read gives no HOLD_REF item (log 18), and a readable row that is freed keeps its other fields
(log 26). -/
def Obligations.HoldCancelReleases : Prop :=
  ∀ (w i : Nat) (e : Outside) (s₀ s : State) (k : Work) (t : TillRow) (sel : Selection) (row : CardRow), s₀.outside e = s →
    TillReady .holdCancel w k t sel i row s →
    (let p := servedPlan .holdCancel k sel row s
    let c := workingRow .holdCancel k sel row s
    let u := s.bothLocked k i
    let ends := fun (q : Plan) (v : State) =>
      (Host.Outcome.next (commitNow w (k.tillServed t sel i s) q v) : Host.Outcome State Fault Refusal)
    let out := fun (q : Plan) => ends q u
    (findRef k.req.hold c = none → exec (.holdCancel w e) s₀ = out { p with result := .declined, reason := .noHold }) ∧
    (∀ r, findRef k.req.hold c = some r →
      (let m : Plan := { p with ref := some { index := r.index, gen := r.gen }, holdIndex := some r.index }
      let released := fun (x : HoldRow) => ({ m with
        result := .approved, reason := .none, approved := r.amount, own := [(.holdCancel, [r.index, r.gen, r.amount])]
        holdOps := [.freeRow r.index x k.onOfficeLane]
        card := some { c with
          held := c.held - r.amount, lastUseDay := some s.clock.day
          refs := c.refs.filter (fun q => !(decide (q.index = r.index) && decide (q.gen = r.gen))) } } : Plan)
      (∀ v, HoldUnread r.index u v → k.onOfficeLane = false →
        exec (.holdCancel w e) s₀ = ends { m with result := .declined, reason := .cardUnreadable } v) ∧
      (∀ v, HoldUnread r.index u v → k.onOfficeLane = true → exec (.holdCancel w e) s₀ = ends (released
        { isOpen := false, gen := (r.gen + 1) % 256, card := 0, till := 0, seq := 0, amount := 0, deadline := 0, renewals := 0 }) v) ∧
      (∀ h, s.isListed .hold r.index = false → s.hold r.index = { val := h, ecc := .clean } →
        (h.deadline ≤ s.clock.now → exec (.holdCancel w e) s₀ = out { m with
          result := .declined, reason := .holdGone, holdItem := if h.isOpen then some (r.index, r.gen, h.deadline) else none }) ∧
        (s.clock.now < h.deadline → exec (.holdCancel w e) s₀ = out (released { h with isOpen := false, gen := (h.gen + 1) % 256 }))))))

/-- REVERSE of a REDEEM or HOLD_CLOSE restores its draw parts (R13, R61, R62, R65); of a LOAD or ACTIVATE it takes the load and its bonus back
(R14, R61, R63, R65). The target becomes REVERSED and today the last-use day. -/
def Obligations.ReverseRestoresOrTakesBack : Prop :=
  ∀ (w i : Nat) (e : Outside) (s₀ s : State) (k : Work) (t : TillRow) (sel : Selection) (row : CardRow) (x : RecentEntry) (kd : RequestKind),
    s₀.outside e = s → TillReady .reverse w k t sel i row s → findRecent k.req.target t.recent = some x → x.state = .answered →
    (x.cardRow = some i ∨ (x.cardRow = none ∧ x.digits = k.req.digits)) → (x.result = some .approved ∨ x.result = some .partly) →
    x.kind = some kd →
    (let p : Plan := { servedPlan .reverse k sel row s with reason := .none, reversedSeq := some k.req.target }
    let c := workingRow .reverse k sel row s
    let a := x.approved.getD 0
    let out := fun (q : Plan) =>
      (Host.Outcome.next (commitNow w (k.tillServed t sel i s) q (s.bothLocked k i)) : Host.Outcome State Fault Refusal)
    (kd = .redeem ∨ kd = .holdClose →
      (let r := restoreParts s.clock.day x.parts c.lots
      exec (.reverse w e) s₀ = out { p with
        result := if 1 ≤ r.restored ∧ r.restored < a then .partly else .approved, approved := r.restored, lapsed := p.lapsed + r.lapsed
        own := [(.reversal, [k.req.target, kd.code, a, r.restored, r.unrestored])]
        card := some { c with lots := r.lots, lastUseDay := some s.clock.day } })) ∧
    (kd = .load ∨ kd = .activate →
      (∀ y d, x.parts = [{ expiry := some d, amount := y }] → y ≠ 0 →
        (let paid := paidPass (min a (balance s.clock.day c.lots)) c.lots
        let bonus := bonusPass y d paid.2
        exec (.reverse w e) s₀ = out { p with
          result := if (paid.1 < a ∨ bonus.1 < y) ∧ 1 ≤ paid.1 then .partly else .approved, approved := paid.1, bonus := bonus.1
          own := [(.reversal, [k.req.target, kd.code, a, y, paid.1, bonus.1])]
          parts := if bonus.1 = 0 then [] else [{ expiry := some d, amount := bonus.1 }]
          card := some { c with lots := bonus.2, lastUseDay := some s.clock.day } })) ∧
      (x.parts = [] →
        (let paid := paidPass (min a (balance s.clock.day c.lots)) c.lots
        exec (.reverse w e) s₀ = out { p with
          result := if paid.1 < a ∧ 1 ≤ paid.1 then .partly else .approved, approved := paid.1, bonus := 0
          own := [(.reversal, [k.req.target, kd.code, a, 0, paid.1, 0])]
          card := some { c with lots := paid.2, lastUseDay := some s.clock.day } }))))

/-- The other cases of REVERSE (R61, R64, R65, R109, R110): no entry of the target, which adds a REVERSED_AHEAD entry; an entry of another card or
already REVERSED_AHEAD; a target already REVERSED; a declined target or one that moved no value; a HOLD_OPEN, whose live hold is cancelled and
whose ended one is not; its hold row unreadable, the REVERSE is declined, or on an OFFICE lane frees the row with a content built from the
reference (R83). THE MODEL'S CHOICE: the trail's hold index of a REVERSE that finds no hold to cancel, is declined, or finds its target already
REVERSED (log 41); a row that cannot be read gives no HOLD_REF item (log 18); a readable row that is freed keeps its other fields (log 26). -/
def Obligations.ReverseOfOtherTargets : Prop :=
  ∀ (w i : Nat) (e : Outside) (s₀ s : State) (k : Work) (t : TillRow) (sel : Selection) (row : CardRow), s₀.outside e = s →
    TillReady .reverse w k t sel i row s →
    (let p := servedPlan .reverse k sel row s
    let c := workingRow .reverse k sel row s
    let used : CardRow := { c with lastUseDay := some s.clock.day }
    let u := s.bothLocked k i
    let ends := fun (q : Plan) (v : State) =>
      (Host.Outcome.next (commitNow w (k.tillServed t sel i s) q v) : Host.Outcome State Fault Refusal)
    let out := fun (q : Plan) => ends q u
    (findRecent k.req.target t.recent = none → exec (.reverse w e) s₀ = out { p with
      result := .declined, reason := .noOriginal
      ahead := some { seq := k.req.target, state := .reversedAhead, kind := none, digits := k.req.digits, cardRow := some i, requested := none
                      result := none, reason := none, approved := none, flags := {}, movement := none, ref := none, parts := [] } }) ∧
    (∀ x, findRecent k.req.target t.recent = some x →
      (x.state = .reversedAhead ∨ (∃ j, x.cardRow = some j ∧ j ≠ i) ∨ (x.cardRow = none ∧ x.digits ≠ k.req.digits) →
        exec (.reverse w e) s₀ = out { p with result := .declined, reason := .noOriginal }) ∧
      ((x.cardRow = some i ∨ (x.cardRow = none ∧ x.digits = k.req.digits)) →
        (x.state = .reversed → exec (.reverse w e) s₀ = out { p with
          result := .approved, reason := .none, approved := 0, card := some used, flags := { p.flags with isRepeat := true } }) ∧
        (x.state = .answered →
          (let r : Plan := { p with result := .approved, reason := .none, approved := 0, card := some used, reversedSeq := some k.req.target }
          ((x.result ≠ some .approved ∧ x.result ≠ some .partly) ∨ x.kind = some .balance ∨ x.kind = some .holdRenew ∨
              x.kind = some .holdCancel ∨ x.kind = some .reverse →
            exec (.reverse w e) s₀ = out r) ∧
          (∀ ref, x.result = some .approved → x.kind = some .holdOpen → x.ref = some ref →
            (let a := x.approved.getD 0
            let m : Plan := { r with holdIndex := some ref.index }
            (findRef ref c = none → exec (.reverse w e) s₀ = out { m with own := [(.reversal, [k.req.target, 5, a, 0])] }) ∧
            (∀ f v, findRef ref c = some f → HoldUnread f.index u v → k.onOfficeLane = false →
              exec (.reverse w e) s₀ = ends { p with result := .declined, reason := .cardUnreadable, holdIndex := some ref.index } v) ∧
            (∀ f v, findRef ref c = some f → HoldUnread f.index u v → k.onOfficeLane = true →
              exec (.reverse w e) s₀ = ends { m with
                approved := f.amount, own := [(.reversal, [k.req.target, 5, a, f.amount])]
                holdOps := [.freeRow f.index
                  { isOpen := false, gen := (f.gen + 1) % 256, card := 0, till := 0, seq := 0, amount := 0, deadline := 0, renewals := 0 } true]
                card := some { used with
                  held := c.held - f.amount
                  refs := c.refs.filter (fun q => !(decide (q.index = f.index) && decide (q.gen = f.gen))) } } v) ∧
            (∀ f h, findRef ref c = some f → s.isListed .hold f.index = false → s.hold f.index = { val := h, ecc := .clean } →
              (h.deadline ≤ s.clock.now → exec (.reverse w e) s₀ = out { m with own := [(.reversal, [k.req.target, 5, a, 0])] }) ∧
              (s.clock.now < h.deadline → exec (.reverse w e) s₀ = out { m with
                approved := f.amount, own := [(.reversal, [k.req.target, 5, a, f.amount])]
                holdOps := [.freeRow f.index { h with isOpen := false, gen := (h.gen + 1) % 256 } k.onOfficeLane]
                card := some { used with
                  held := c.held - f.amount
                  refs := c.refs.filter (fun q => !(decide (q.index = f.index) && decide (q.gen = f.gen))) } })))))))))

/-! ### The office kinds at step 16 -/

/-- CARD_STATUS (R5, R6, R66, R67): SUSPEND, RESUME and UNLOCK take a card in the one state they act on to the next, UNLOCK with tries 0, with a
STATUS entry, and are OUT_OF_RANGE in any other; CLOSE frees the row of every hold reference, one that cannot be read with a content built from the
reference (R83), and leaves the card CLOSED with nothing on it, its approved amount the balance it held. BONUS_GRANT (R11, R68): a day before today
declines OUT_OF_RANGE, a balance above the cap OVER_LIMIT, no room CARD_FULL; a grant adds the BONUS lot and journals it, with no last-use day and no
window count. THE MODEL'S CHOICE: CLOSE frees the rows in the order of the reference list (log 44), and a readable row keeps its other fields
(log 26). -/
def Obligations.CardStatusAndBonusGrant : Prop :=
  (∀ (w i : Nat) (e : Outside) (s₀ s : State) (k : Work) (sel : Selection) (row : CardRow), s₀.outside e = s →
     OfficeReady .cardStatus w k sel i row s →
     (let p := servedPlan .cardStatus k sel row s
     let c := workingRow .cardStatus k sel row s
     let out := fun (q : Plan) =>
       (Host.Outcome.next (commitNow w (k.officeServed sel i s) q (s.cardLocked k i)) : Host.Outcome State Fault Refusal)
     (∀ (mk : Nat → Outside → Instr) (action : Nat) (old new : CardState) (tries : Nat),
       (mk, action, old, new, tries) ∈
         [(Instr.cardStatusSuspend, 1, CardState.active, CardState.suspended, c.tries),
          (Instr.cardStatusResume, 2, CardState.suspended, CardState.active, c.tries),
          (Instr.cardStatusUnlock, 3, CardState.locked, CardState.active, 0)] → k.req.action = action →
       (c.state = old → exec (mk w e) s₀ = out { p with
         result := .approved, reason := .none, approved := 0, own := [(.status, [old.code, new.code])]
         card := some { c with state := new, tries := tries } }) ∧
       (c.state ≠ old → exec (mk w e) s₀ = out { p with result := .declined, reason := .outOfRange })) ∧
     (k.req.action = 4 →
       (let b := balance s.clock.day c.lots
       let u := s.cardLocked k i
       let built := fun (r : CardRef) =>
         ({ isOpen := false, gen := (r.gen + 1) % 256, card := 0, till := 0, seq := 0, amount := 0, deadline := 0, renewals := 0 } : HoldRow)
       let closed := fun (ops : List HoldOp) (v : State) =>
         (Host.Outcome.next (commitNow w (k.officeServed sel i s) { p with
           result := .approved, reason := .none, approved := b, own := [(.close, [b, c.held])], holdOps := ops
           card := some { c with state := .closed, lots := [], refs := [], held := 0 } } v) : Host.Outcome State Fault Refusal)
       ((∀ r ∈ c.refs, s.isListed .hold r.index = true ∨ (s.hold r.index).ecc = .clean) →
         exec (.cardStatusClose w e) s₀ = closed (c.refs.map (fun r => .freeRow r.index
           (if s.isListed .hold r.index = true then built r
            else { (s.hold r.index).val with isOpen := false, gen := ((s.hold r.index).val.gen + 1) % 256 }) true)) u) ∧
       (∀ r v, c.refs = [r] → HoldUnread r.index u v →
         exec (.cardStatusClose w e) s₀ = closed [.freeRow r.index (built r) true] v))))) ∧
  (∀ (w i : Nat) (e : Outside) (s₀ s : State) (k : Work) (sel : Selection) (row : CardRow), s₀.outside e = s →
     OfficeReady .bonusGrant w k sel i row s →
     (let p := servedPlan .bonusGrant k sel row s
     let c := workingRow .bonusGrant k sel row s
     let g := k.req.amount
     let d := fieldAt k.req.params 0 2
     let out := fun (q : Plan) =>
       (Host.Outcome.next (commitNow w (k.officeServed sel i s) q (s.cardLocked k i)) : Host.Outcome State Fault Refusal)
     (d < s.clock.day → exec (.bonusGrant w e) s₀ = out { p with result := .declined, reason := .outOfRange }) ∧
     (s.clock.day ≤ d →
       (sel.programme.cap < balance s.clock.day c.lots + g →
         exec (.bonusGrant w e) s₀ = out { p with result := .declined, reason := .overLimit }) ∧
       (balance s.clock.day c.lots + g ≤ sel.programme.cap →
         (addBonus g d c.lots = none → exec (.bonusGrant w e) s₀ = out { p with result := .declined, reason := .cardFull }) ∧
         (∀ ls, addBonus g d c.lots = some ls → exec (.bonusGrant w e) s₀ = out { p with
           result := .approved, reason := .none, approved := 0, bonus := g, own := [(.grant, [g, d])], card := some { c with lots := ls } })))))

/-- ROW_READ (R69, R188) writes the row's image to the data address, or declines TRANSFER_FAILED. ROW_WRITE (R21, R70, R71, R188) declines
TRANSFER_FAILED or OUT_OF_RANGE, or writes the image: a readable row keeps its own references and held total; a row in the quarantine list
takes the image's, each naming an OPEN hold of its generation, amount and card row, and leaves the list. THE MODEL'S CHOICE: a failed block write leaves
the bytes before the first that fails (log 3), a TRANSFER_FAILED or OUT_OF_RANGE answer gives no figures (log 30), the reference places of an
image for a readable row are checked for their form too (log 39), an image equal to the row is written (log 43), and the references of an image for a
listed row are checked one by one, the first that fails ending the checks (log 45). -/
def Obligations.RowReadAndRowWrite : Prop :=
  ∀ (w i : Nat) (e : Outside) (s₀ s : State) (k : Work) (sel : Selection), s₀.outside e = s →
    (let k' := k.officeServed sel i s
    let u := s.cardLocked k i
    let day := s.clock.day
    (∀ row, RowReady .rowRead w k sel i row s →
      (let p : Plan := { today := day, card := some row, cardRead := some row }
      let pre := writablePrefix s.link k.req.address row.image
      let v := u.setMem (memWrite s.link.mem k.req.address pre)
      (s.link.writable k.req.address row.image.length → v.link.mem = memWrite s.link.mem k.req.address row.image ∧
        exec (.rowRead w e) s₀ = .next (commitNow w k' { p with result := .approved, approved := 0, seen := true } v)) ∧
      (¬ s.link.writable k.req.address row.image.length →
        exec (.rowRead w e) s₀ = .next (commitNow w k' { p with result := .declined, reason := .transferFailed } v)))) ∧
    (∀ row, RowReady .rowWrite w k sel i row s →
      (linkRead s k.req.address 128 = none →
        exec (.rowWrite w e) s₀ = .next (commitNow w k' { today := day, result := .declined, reason := .transferFailed } u)) ∧
      (∀ bytes, linkRead s k.req.address 128 = some bytes →
        (rowOfImage s.holdRows sel.programmeNo bytes = none →
          exec (.rowWrite w e) s₀ = .next (commitNow w k' { today := day, result := .declined, reason := .outOfRange } u)) ∧
        (∀ img, rowOfImage s.holdRows sel.programmeNo bytes = some img →
          ((img.state = .empty ∨ img.state = .closed) ∧ row.refs ≠ [] →
            exec (.rowWrite w e) s₀ = .next (commitNow w k' { today := day, result := .declined, reason := .outOfRange } u)) ∧
          (¬ ((img.state = .empty ∨ img.state = .closed) ∧ row.refs ≠ []) →
            exec (.rowWrite w e) s₀ = .next (commitNow w k'
              { today := day, result := .approved, approved := 0, seen := true, leaves := [(.card, i)]
                card := some { img with refs := row.refs, held := row.held } } u))))) ∧
    (∀ bytes img, Posted .rowWrite w k s → checkDigitOk k.req.digits = true → selectProgramme s.tables k.req.digits = some sel →
      rowIndex sel k.req.serial = some i → s.isListed .card i = true → s.lockHeld (.card i) = false → s.locks.card.length < 8 →
      linkRead s k.req.address 128 = some bytes → rowOfImage s.holdRows sel.programmeNo bytes = some img →
      ((img.refs.map (·.index)).Nodup → (∀ r ∈ img.refs, s.isListed .hold r.index = false ∧ ∃ h,
          s.hold r.index = { val := h, ecc := .clean } ∧ h.isOpen = true ∧ h.gen = r.gen ∧ h.amount = r.amount ∧ h.card = i) →
        ¬ ((img.state = .empty ∨ img.state = .closed) ∧ img.refs ≠ []) →
        exec (.rowWrite w e) s₀ = .next (commitNow w k'
          { today := day, result := .approved, approved := 0, seen := true, leaves := [(.card, i)], card := some img } u)) ∧
      (∀ r rs, img.refs = r :: rs → s.isListed .hold r.index = true →
        exec (.rowWrite w e) s₀ = .next (commitNow w k' { today := day, result := .declined, reason := .outOfRange } u))))

/-- The image of a card row in range (11.4) is read back as that row by the checks of ROW_WRITE (R1, R7, R21, R188). -/
def Obligations.CardImageRoundTrip : Prop :=
  ∀ (holdRows : Nat) (c : CardRow), holdRows ≤ 2 ^ 32 → c.programme < 256 → (∀ x, c.code = some x → x ≤ 9999) → c.tries ≤ 7 →
    lotsWf c.lots = true → c.refs.length ≤ 4 →
    (∀ r ∈ c.refs, r.index < holdRows ∧ r.gen < 256 ∧ 1 ≤ r.amount ∧ r.amount ≤ 99999999) → c.held = (c.refs.map (·.amount)).sum →
    c.windowIndex ≤ 94371839 → c.windowCount < 256 → c.lastMovement < 2 ^ 48 → (∀ d, c.activationDay = some d → d ≤ 65535) →
    (∀ d, c.lastUseDay = some d → d ≤ 65535) → ((c.state = .empty ∨ c.state = .closed) → c.lots = []) →
    c.image.length = 128 ∧ rowOfImage holdRows c.programme c.image = some c

/-- TILL_WRITE (R96) writes a fresh row whatever the row held, readable or not, and takes it out of the quarantine list; TILL_RELEASE (R104) clears
the score and the barred mark of a row it can read whose till id is the request's, and declines TILL_UNKNOWN otherwise. THE MODEL'S CHOICE: TILL_WRITE
reads its row, which if unreadable joins the quarantine list and raises STORE before it leaves (log 15), and a TILL_RELEASE that changes nothing
still writes the row (log 48). -/
def Obligations.TillWriteAndTillRelease : Prop :=
  ∀ (w : Nat) (e : Outside) (s₀ s : State) (k : Work), s₀.outside e = s →
    (let i := k.req.tillIndex
    let k' : Work := { k with tillLock := some i }
    let u := s.tillLocked k
    (TillTableReady .tillWrite w k s →
      (let v := (readTill u i).1
      (k.req.action = 1 → exec (.tillWriteRegister w e) s₀ = .next (commitNow w k'
        { result := .approved, approved := 0, leaves := [(.till, i)]
          tillNew := some { registered := true, storeNo := k.req.storeNo, tillNo := k.req.tillNo, standing := .good, score := 0
                            barred := false, lastMinute := none, recent := [] } } v)) ∧
      (k.req.action = 2 → exec (.tillWriteRemove w e) s₀ = .next (commitNow w k'
        { result := .approved, approved := 0, leaves := [(.till, i)]
          tillNew := some { registered := false, storeNo := 0, tillNo := 0, standing := .good, score := 0
                            barred := false, lastMinute := none, recent := [] } } v)) ∧
      (s.isListed .till i = true ∨ (s.tillRow i).ecc = .clean → v = u))) ∧
    (TillTableReady .tillRelease w k s →
      (i < 32768 → (s.isListed .till i = true →
        exec (.tillRelease w e) s₀ = .next (commitNow w k' { result := .declined, reason := .tillUnknown } u)) ∧
      (∀ t, s.isListed .till i = false → s.tillRow i = { val := t, ecc := .clean } →
        ((t.registered = false ∨ t.storeNo ≠ k.req.storeNo ∨ t.tillNo ≠ k.req.tillNo) →
          exec (.tillRelease w e) s₀ = .next (commitNow w k' { result := .declined, reason := .tillUnknown } u)) ∧
        (t.registered = true → t.storeNo = k.req.storeNo → t.tillNo = k.req.tillNo →
          exec (.tillRelease w e) s₀ = .next (commitNow w k'
            { result := .approved, approved := 0, tillNew := some { t with barred := false, score := 0, standing := .good } } u))))))

/-- RULE_WRITE, PROGRAMME_WRITE, LANE_MODE and CLOCK_SET come to their commit point (R33, R34, R157, R158, R177), where their checks are made and the
change with them: a rule in range replaces the rule at its index; a record that passes its three checks replaces the record; a lane below the lane
count takes its mode; a clock step of at most 120 minutes sets the clock and restarts the chain. Each other is declined. The chains stay as they are
at a clock step (R86), but for one that leaves now 4096 minutes or more past the sweep position: it joins all 4096 buckets to the due chain in order
(R85). THE MODEL'S CHOICE: with the chain-damaged mark set such a step moves the sweep position alone (log 37), the minute before minute index 0 is
-1 (log 28), and a neighbour's other link is kept without being read (log 25). -/
def Obligations.TableRequestsActAtTheirCommitPoint : Prop :=
  ∀ (w : Nat) (e : Outside) (s₀ s : State) (k : Work), s₀.outside e = s →
    (let b := k.req.params
    (TableReady .ruleWrite w k s →
      (let ix := fieldAt b 0 1
      let p : Plan :=
        { action := .ruleWrite ix (fieldAt b 1 1) (packedDigits ((b.drop 2).take 4)) (byteAt b 6) (fieldAt b 7 1) (fieldAt b 8 2) (fieldAt b 10 2) }
      let ok := ix ≤ 63 ∧ fieldAt b 1 1 ≤ 1 ∧ fieldAt b 7 1 ≤ 15 ∧ fieldAt b 8 2 < 512
      exec (.ruleWrite w e) s₀ = .next (commitNow w k p s) ∧
      (¬ ok → commitAction p s = (s, { p with result := .declined, reason := .outOfRange })) ∧
      (ok → ∃ t, commitAction p s = (t, p) ∧ { t with tables := s.tables } = s ∧ t.tables.programmes = s.tables.programmes ∧
        Sparse.get {} t.tables.rules ix =
          { enabled := decide (fieldAt b 1 1 = 1), digits := packedDigits ((b.drop 2).take 4), mask := byteAt b 6
            programme := fieldAt b 7 1, kinds := BitVec.ofNat 9 (fieldAt b 8 2), label := fieldAt b 10 2 } ∧
        (∀ n, n ≠ ix → Sparse.get {} t.tables.rules n = Sparse.get {} s.tables.rules n)))) ∧
    (TableReady .programmeWrite w k s →
      (linkRead s k.req.address 64 = none →
        exec (.programmeWrite w e) s₀ = .next (commitNow w k { result := .declined, reason := .transferFailed } s)) ∧
      (∀ bytes, linkRead s k.req.address 64 = some bytes →
        (let n := fieldAt b 0 1
        let p : Plan := { action := .programmeWrite n bytes }
        exec (.programmeWrite w e) s₀ = .next (commitNow w k p s) ∧
        (programmeOfBytes bytes = none ∨ 15 < n → commitAction p s = (s, { p with result := .declined, reason := .outOfRange })) ∧
        (∀ r, programmeOfBytes bytes = some r → n < 16 →
          (let free := ∀ m, m < 16 → m ≠ n →
            (let q := Sparse.get {} s.tables.programmes m
            q.enabled = true → r.rowBase + r.rowCount ≤ q.rowBase ∨ q.rowBase + q.rowCount ≤ r.rowBase)
          let ok := r.rangesOk = true ∧ (r.enabled = true → 1 ≤ r.rowCount ∧ r.rowBase + r.rowCount ≤ s.cardRows ∧ free)
          (ok → ∃ t, commitAction p s = (t, p) ∧ { t with tables := s.tables } = s ∧ t.tables.rules = s.tables.rules ∧
            Sparse.get {} t.tables.programmes n = r ∧
            (∀ m, m ≠ n → Sparse.get {} t.tables.programmes m = Sparse.get {} s.tables.programmes m)) ∧
          (¬ ok → commitAction p s = (s, { p with result := .declined, reason := .outOfRange }))))))) ∧
    (TableReady .laneMode w k s →
      (let n := fieldAt b 0 1
      let p : Plan := { action := .laneMode n (decide (k.req.action = 1)) }
      (k.req.action = 1 → exec (.laneModeOpen w e) s₀ = .next (commitNow w k p s)) ∧
      (k.req.action = 2 → exec (.laneModePaused w e) s₀ = .next (commitNow w k p s)) ∧
      (s.dir.laneCount ≤ n → commitAction p s = (s, { p with result := .declined, reason := .outOfRange })) ∧
      (∀ l, s.laneEntry n = some l →
        (k.req.action = 1 → s.control.engine = .running → commitAction p s = (s.setLaneState n { s.laneState n with
          isOpen := true, ready := slotIsPosted s l (s.laneState n).scan, lookTimer := some l.lookInterval }, p)) ∧
        (k.req.action = 1 → s.control.engine ≠ .running → commitAction p s = (s.setLaneState n { s.laneState n with isOpen := true }, p)) ∧
        (k.req.action = 2 → commitAction p s =
          (s.setLaneState n { s.laneState n with isOpen := false, ready := false, lookTimer := none }, p))))) ∧
    (TableReady .clockSet w k s →
      (let p : Plan :=
        { action := .clockSet (Fin.ofNat 65536 (fieldAt b 0 2)) (Fin.ofNat 1440 (fieldAt b 2 2)) (Fin.ofNat 60 (fieldAt b 4 1)) }
      let now := fieldAt b 0 2 * 1440 + fieldAt b 2 2
      exec (.clockSet w e) s₀ = .next (commitNow w k p s) ∧
      (s.clock.now + 120 < now ∨ now + 120 < s.clock.now →
        commitAction p s = (s, { p with result := .declined, reason := .clockStep })) ∧
      (now ≤ s.clock.now + 120 → s.clock.now ≤ now + 120 → ∃ t, commitAction p s = (t, p) ∧
        t.clock = { s.clock with phase := 0, tick := 0, second := fieldAt b 4 1, minute := fieldAt b 2 2, day := fieldAt b 0 2 } ∧
        (∀ q : Int, s.holds.sweep = some q → now < s.clock.now → t.holds.sweep = some (min q ((now : Int) - 1))) ∧
        (∀ q : Int, s.holds.sweep = some q → s.clock.now ≤ now → ((now : Int) - q < 4096 ∨ now = s.clock.now) → t.holds.sweep = some q) ∧
        (let far := fun (q : Int) => s.holds.sweep = some q ∧ s.clock.now < now ∧ 4096 ≤ (now : Int) - q
        ((∀ q, ¬ far q) → t.store = s.store ∧ { t.holds with sweep := s.holds.sweep } = s.holds) ∧
        (∀ q, far q → t.holds.sweep = some (now : Int) ∧
          (s.header.damaged = true → t.store = s.store ∧ { t.holds with sweep := s.holds.sweep } = s.holds) ∧
          (s.header.damaged = false →
            ∃ u, AllBucketsJoined q s u ∧ t.store = u.store ∧ t.holds = { u.holds with sweep := some (now : Int) }))) ∧
        t.store.cards = s.store.cards ∧ t.store.tills = s.store.tills ∧ t.store.holds = s.store.holds ∧ t.tables = s.tables ∧
        t.link = s.link ∧ t.journal = s.journal))))

/-- TRAIL_READ (R143) writes the 32 trail entries to the data address, in the ring's order from the write place, corrected ones written back, and
raises STORE for one that cannot be read; QUARANTINE_READ (R144) writes the list and the overflow flag. A failed write declines
TRANSFER_FAILED (R188). THE MODEL'S CHOICE: an unreadable entry stands at its ring place (log 16), a failed write leaves the bytes before the
first that fails (log 3), the SERVICE_STAMP bytes of an entry's answer copy are a free value (log 17), and a kind code that names no kind stands as it
is (log 49). -/
def Obligations.ReadOutsGoToTheHost : Prop :=
  ∀ (w : Nat) (e : Outside) (s₀ s : State) (k : Work), s₀.outside e = s →
    (TableReady .quarantineRead w k s →
      (let bytes := quarantineBytes s.store.quarantine s.store.overflow
      let v := s.setMem (memWrite s.link.mem k.req.address (writablePrefix s.link k.req.address bytes))
      (s.link.writable k.req.address bytes.length → exec (.quarantineRead w e) s₀ = .next (commitNow w k { result := .approved } v)) ∧
      (¬ s.link.writable k.req.address bytes.length →
        exec (.quarantineRead w e) s₀ = .next (commitNow w k { result := .declined, reason := .transferFailed } v)))) ∧
    (TableReady .trailRead w k s →
      (let order := (List.range 32).map (fun n => (s.store.trailPlace + n) % 32)
      let bytes := order.flatMap (fun n => (s.trailCell n).bytes)
      ∃ v : State,
        (s.link.writable k.req.address bytes.length → exec (.trailRead w e) s₀ = .next (commitNow w k { result := .approved } v)) ∧
        (¬ s.link.writable k.req.address bytes.length →
          exec (.trailRead w e) s₀ = .next (commitNow w k { result := .declined, reason := .transferFailed } v)) ∧
        v.link.mem = memWrite s.link.mem k.req.address (writablePrefix s.link k.req.address bytes) ∧
        (∀ n, n < 32 → (v.trailCell n).entry = (s.trailCell n).entry ∧
          ((s.trailCell n).unreadable = true → v.trailCell n = s.trailCell n) ∧
          ((s.trailCell n).unreadable = false → (v.trailCell n).ecc = .clean)) ∧
        v.notices = { s.notices with
          raised := if (List.range 32).any (fun n => (s.trailCell n).unreadable) then s.notices.raised.add .store else s.notices.raised } ∧
        { v with store := s.store, notices := s.notices, link := s.link } = s ∧ { v.store with trail := s.store.trail } = s.store))

/-! ### Commits, answers, journal -/

/-- What the commit point fixes (R19, R42, R45, R47, R99, R101, R106, R110, R141, R166, R168): the entries in the order LAPSE, STATUS, own, numbered
one after the other and chained by their prior numbers; the card's last movement number; the till row's score and recent list; the answer's figures,
its flags, TILL_WATCHED by the till's standing after the commit (R43, R101), and its trailer: the items the lane's embed set chooses, in their order,
each with its value or absent, and padding behind them (R28, R44, R160). The SERVICE_STAMP item is 0 here and is filled in at the answer write (R174).
THE MODEL'S CHOICE (log 47): the recent-list entry of a request declined UNKNOWN_CARD at step 10 itself has no card row. -/
def Obligations.CommitPointFixesEntriesRowsAndAnswer : Prop :=
  ∀ (k : Work) (p : Plan) (stamp : Reading) (n : Nat), 1 ≤ n → n ≤ 2 ^ 48 - 1 →
    (let x := sealPlan k p stamp n
    let c := p.card.getD {}
    let number := fun (j : Nat) => (n - 1 + j) % (2 ^ 48 - 1) + 1
    let kinds := (if p.lapsed = 0 then [] else [(JournalKind.lapse, [p.lapsed])]) ++
      (match p.status with | none => [] | some st => [(JournalKind.status, [st.1.code, st.2.code])]) ++ p.own
    x.entries.map (fun y => (y.kind, y.words)) = kinds ∧
    (∀ j y, x.entries[j]? = some y →
      y.number = number j ∧ y.prior = (if j = 0 then c.lastMovement else number (j - 1)) ∧ y.stamp = stamp ∧ y.programme = c.programme ∧
      y.source = k.source ∧ y.cardRow = k.cardLock.getD 0 ∧ y.balanceAfter = balance p.today c.lots ∧ y.heldAfter = c.held) ∧
    x.card = p.card.map (fun c => if kinds = [] then c else { c with lastMovement := number (kinds.length - 1) }) ∧
    (k.till = none → x.till = p.tillNew) ∧
    (∀ t kd, k.till = some t → k.kind? = some kd → ∃ r, x.till = some r ∧
      r.storeNo = t.storeNo ∧ r.tillNo = t.tillNo ∧ r.registered = t.registered ∧ r.lastMinute = t.lastMinute ∧
      (p.repeated.isSome ∨ (p.result = .declined ∧ p.reason.isCardFault = false) → r.score = t.score ∧ r.barred = t.barred) ∧
      (p.repeated = none → p.result = .declined → p.reason.isCardFault = true → t.barred = false →
        r.score = min 255 (t.score + 8) ∧ r.barred = decide (255 < t.score + 8)) ∧
      (p.repeated = none → p.result = .approved ∨ p.result = .partly → t.barred = false →
        r.score = t.score - 1 ∧ r.barred = false) ∧
      (p.result ≠ .withdrawn → t.barred = true → r.score = t.score ∧ r.barred = true) ∧
      (p.adds = false → p.reversedSeq = none → p.ahead = none → r.recent = t.recent) ∧
      (p.adds = true → ∃ y, r.recent.getLast? = some y ∧ y.seq = k.req.seq ∧ y.state = .answered ∧ y.kind = some kd ∧
        y.digits = k.req.digits ∧ y.cardRow = k.rowIndex ∧ y.result = some p.result ∧ y.reason = some p.reason ∧
        y.approved = some p.approved ∧ y.ref = p.ref ∧ y.parts = p.parts ∧
        y.movement = (if kinds = [] then none else some (number (kinds.length - 1)))) ∧
      (∀ q, p.adds = true → p.reversedSeq = some q → p.ahead = none → ∀ y ∈ r.recent, y.seq = q → q ≠ k.req.seq → y.state = .reversed)) ∧
    (k.isRequest = true → x.half.length = 64 ∧ fieldAt x.half 0 1 = p.result.code ∧ fieldAt x.half 1 1 = p.reason.code ∧
      fieldAt x.half 4 4 = p.approved % 2 ^ 32 ∧ fieldAt x.half 16 4 = p.bonus % 2 ^ 32 ∧
      (p.seen = true → p.card ≠ none →
        fieldAt x.half 8 4 = (balance p.today c.lots - c.held) % 2 ^ 32 ∧ fieldAt x.half 12 4 = c.held % 2 ^ 32) ∧
      (p.seen = false ∨ p.card = none → fieldAt x.half 8 4 = 2 ^ 32 - 1 ∧ fieldAt x.half 12 4 = 2 ^ 32 - 1) ∧
      (∀ r, p.ref = some r → fieldAt x.half 20 4 = r.index % 2 ^ 32 ∧ fieldAt x.half 24 1 = r.gen % 256) ∧
      (p.ref = none → fieldAt x.half 20 4 = 2 ^ 32 - 1) ∧
      (let till := if k.till.isSome then x.till else none
      let value := answerItem k p x
      let chosen := (List.range 7).filter (fun n => k.embed.getLsbD n)
      (∀ b, (fieldAt x.half 2 2).testBit b = (match b with
        | 0 => p.flags.isRepeat
        | 1 => p.flags.bonusWithheld
        | 2 => p.flags.bonusClamped
        | 3 => p.flags.cardLockedNow
        | 4 => till.any (fun r => decide (r.standing = .watched))
        | 5 => p.flags.withdrawLate
        | _ => false)) ∧
      (∀ q, q < 4 → (∀ n, chosen[q]? = some n →
          fieldAt x.half (28 + q) 1 = n + 1 + (if value n = none then 128 else 0) ∧
          (x.half.drop (32 + 8 * q)).take 8 = (value n).getD (zeroBytes 8)) ∧
        (chosen[q]? = none → fieldAt x.half (28 + q) 1 = 128 ∧ (x.half.drop (32 + 8 * q)).take 8 = zeroBytes 8)))))

/-- What a commit leaves, whatever its plan, once the action of its commit point is made (R123, R124, R125, R131, R136, R142): the till row and the
card row it changed; the contents of the hold rows it opens, renews and frees; the chains as its operations make them, and its work's entries out of
the hand list; the quarantine list without the rows it names and those it frees for an office, and the count word; its trail entry with serial, place
and statuses; the header's next movement number, its numbers and its queued entries; and the release of its card lock. A request hands its answer and
its worker waits; an expiry job returns its place and its room, and its worker is FREE. All else is as it was. THE MODEL'S CHOICE: the
header's write takes the fields it keeps as they were last written (log 58); the trail stamp is the reading before the commit's action, for a CLOCK_SET
too (log 40); in the trail entry a commit that only moves a hold row on its chains writes no hold row (log 27), a ROW_WRITE of an equal image writes its
card row (log 43), a TILL_RELEASE that changes nothing writes its till row (log 48), and a kind code that names no kind stands as it is (log 49). -/
def Obligations.CommitWritesItsRows : Prop :=
  ∀ (w : Nat) (k : Work) (p : Plan) (s m : State),
    (let a := commitAction p s
    let x := sealPlan k a.2 s.clock.reading (a.1.journal.next.getD 1)
    (a.2.holdOps.map HoldOp.row).Nodup → moveHolds a.2.holdOps a.1 = (m, true) →
    (k.isRequest = true → Committed w k x m a.1 (commitNow w k p s)) ∧
    (k.isRequest = false → k.tillLock = none → s.units.roomWaiters = [] → JobCommitted w k x m a.1 (commitNow w k p s)))

/-- The release of a lock, a till lock or a card lock (R119): to the oldest waiter for it; else its table entry to the oldest waiter of the same
kind whose row has no entry in use; else the entry is cleared. The work that receives joins the tail of the ready queue; nothing else moves. -/
def Obligations.LockReleasesGoToTheOldestWaiter : Prop :=
  ∀ (lock : Nat → LockName) (r : Nat) (s : State), (lock = .till ∨ lock = .card) →
    (let t := releaseLock (lock r) s
    let bank := fun (s : State) => match lock r with | .till _ => s.locks.till | .card _ => s.locks.card
    let withBank := fun (b : List Lock) => match lock r with
      | .till _ => { till := b, card := s.locks.card }
      | .card _ => ({ till := s.locks.till, card := b } : Locks)
    let received := fun (k : Work) (j : Nat) => match lock j with
      | .till j => { k with tillLock := some j, phase := .gotTill }
      | .card j => ({ k with cardLock := some j, phase := .gotCard } : Work)
    (∀ pre x rest, s.units.waiting = pre ++ x :: rest → x.lock = lock r → (∀ y ∈ pre, y.lock ≠ lock r) →
      t = { s with
        units := { s.units with waiting := pre ++ rest, ready := s.units.ready ++ [received x.work r] }
        locks := withBank ((bank s).map (fun l => if l.row = r then { row := r, holder := x.work.place } else l)) }) ∧
    (∀ pre x rest j, s.units.waiting = pre ++ x :: rest → x.lock = lock j → s.lockHeld (lock j) = false →
      (∀ y ∈ s.units.waiting, y.lock ≠ lock r) → (∀ y ∈ pre, ∀ i, y.lock = lock i → s.lockHeld (lock i) = true) →
      t = { s with
        units := { s.units with waiting := pre ++ rest, ready := s.units.ready ++ [received x.work j] }
        locks := withBank ((bank s).map (fun l => if l.row = r then { row := j, holder := x.work.place } else l)) }) ∧
    ((∀ y ∈ s.units.waiting, y.lock ≠ lock r ∧ ∀ i, y.lock = lock i → s.lockHeld (lock i) = true) →
      t = { s with locks := withBank ((bank s).filter (fun l => decide (l.row ≠ r))) }))

/-- The chain operations and the filing rule (R77, R78, R80, R81, R82): an appended row stands at its chain's tail behind the old one; a row taken out
leaves its neighbours joined and the chain one shorter; an OPEN row whose deadline is after the sweep position is filed in the bucket of that
deadline, any other in the due chain; a freed row goes to the free chain's tail and no EXPIRY entry names it. The write that frees a row for an
OFFICE release or a CARD_STATUS CLOSE takes it out of the quarantine list (R136). A link word is read from either copy, and copy one that reads
wrong is rewritten (R133, R137). THE MODEL'S CHOICE: a neighbour's other link is kept
without being read (log 25), and a row written FREE by any other commit stays listed if it is listed (log 62). -/
def Obligations.ChainOperationsJoinAndPart : Prop :=
  ∀ (s : State) (i : Nat),
    (∀ c, (s.chain c).tail ≠ some i →
      (let t := appendRow c i s
      prevTarget i (t.linkWord i).word = (s.chain c).tail ∧ nextTarget i (t.linkWord i).word = none ∧
      (∀ x, (s.chain c).tail = some x → nextTarget x (t.linkWord x).word = some i ∧ (t.linkWord x).word.prev = (s.linkWord x).word.prev) ∧
      (t.chain c).tail = some i ∧ (t.chain c).count = (s.chain c).count + 1 ∧
      (t.chain c).head = (match (s.chain c).head with | none => some i | some h => some h) ∧
      (∀ d, d ≠ c → t.chain d = s.chain d) ∧ (∀ j, j ≠ i → (s.chain c).tail ≠ some j → t.linkWord j = s.linkWord j) ∧
      t.holds.sweep = s.holds.sweep ∧ t.holds.hand = s.holds.hand ∧ { t with holds := s.holds, store := s.store } = s)) ∧
    (∀ c, ((s.linkWord i).one.outcome ≠ .uncorrectable ∨ (s.linkWord i).two.outcome ≠ .uncorrectable) → chainOf s i = some c →
      (let a := prevTarget i (s.linkWord i).word
      let b := nextTarget i (s.linkWord i).word
      (a = none ∨ b = none ∨ a ≠ b) →
      ∃ t, unlinkRow i s = (t, true) ∧
        (∀ x, a = some x → nextTarget x (t.linkWord x).word = b ∧ (t.linkWord x).word.prev = (s.linkWord x).word.prev) ∧
        (∀ y, b = some y → prevTarget y (t.linkWord y).word = a ∧ (t.linkWord y).word.next = (s.linkWord y).word.next) ∧
        t.chain c =
          { head := if (s.chain c).head = some i then b else (s.chain c).head
            tail := if (s.chain c).tail = some i then a else (s.chain c).tail, count := (s.chain c).count - 1 } ∧
        (∀ d, d ≠ c → t.chain d = s.chain d) ∧ (∀ j, j ≠ i → a ≠ some j → b ≠ some j → t.linkWord j = s.linkWord j) ∧
        ((s.linkWord i).one = .clean → a ≠ some i → b ≠ some i → t.linkWord i = s.linkWord i) ∧
        (a ≠ some i → b ≠ some i → (t.linkWord i).word = (s.linkWord i).word ∧ (t.linkWord i).one = .clean) ∧
        { t with holds := s.holds, store := s.store } = s)) ∧
    (∀ (p : Int) (d : Nat), s.holds.sweep = some p →
      fileRow i d s = (if p < (d : Int) then appendRow (.bucket (d % 4096)) i s else appendRow .due i s)) ∧
    (∀ u h unlist, unlinkRow i s = (u, true) →
      (let t := (moveHold (.freeRow i h unlist) s).1
      (moveHold (.freeRow i h unlist) s).2 = true ∧ t.holds.free.tail = some i ∧ t.holds.free.count = u.holds.free.count + 1 ∧
      (∀ x ∈ t.holds.hand, x.kind = .expiry → x.hold ≠ i))) ∧
    (∀ h unlist,
      (let t := writeHoldContent (.freeRow i h unlist) s
      t.hold i = { val := h, ecc := .clean } ∧ (∀ j, j ≠ i → t.hold j = s.hold j) ∧
      t.store.quarantine =
        (if unlist = true then s.store.quarantine.filter (fun q => decide ¬(q.kind = .hold ∧ q.index = i)) else s.store.quarantine) ∧
      { t.store with holds := s.store.holds, quarantine := s.store.quarantine } = s.store ∧
      { t with store := s.store, link := { t.link with mem := s.link.mem } } = s)) ∧
    (∀ u h, unlinkRow i s = (u, true) →
      (let t := (moveHold (.renewRow i h) s).1
      (moveHold (.renewRow i h) s).2 = true ∧ (∀ x ∈ t.holds.hand, x.kind = .expiry → x.hold ≠ i) ∧
      t.holds.free = (fileRow i h.deadline u).holds.free ∧ t.holds.due = (fileRow i h.deadline u).holds.due)) ∧
    (∀ u h, unlinkRow i (dropHand .claim i s) = (u, true) → moveHold (.openRow i h) s = (fileRow i h.deadline u, true))

/-- A lost link word (R137, R138): met by a commit that opens, renews, frees, files again or puts back a hold row, or, at any row it passes over, by
the claim of a HOLD_OPEN or the search of a due handout, it sets the chain-damaged mark, raises STORE and ENGINE, ends the work in flight as at an engine reset, keeps each lane's
tally, pending answers and hold timer, and puts the engine in FAULTED with LINK_LOST. The commit's row writes are complete, and the rows it frees for
an office have left the quarantine list (R136); no chain has moved. THE MODEL'S CHOICE: a search that passes the tail reads its link word too (log
54), and withdrawn answers not yet written are abandoned with the others (log 57). The header's other fields are written as they were last written
(log 58), and the row writes of the commit, made before its chain operations, stay (log 29). -/
def Obligations.LostLinkWordFaultsTheEngine : Prop :=
  (∀ (w : Nat) (k : Work) (p : Plan) (s : State) (o : HoldOp) (os : List HoldOp),
    p.holdOps = o :: os → p.leaves = [] → p.action = .nothing → s.linkIsLost o.row →
    (let t := commitNow w k p s
    let x := sealPlan k p s.clock.reading (s.journal.next.getD 1)
    LinkLost s t ∧
    ((p.holdOps.map HoldOp.row).Nodup → ∀ q ∈ p.holdOps, ∀ i h,
      (q = .openRow i h ∨ q = .renewRow i h ∨ ∃ b, q = .freeRow i h b) → t.hold i = { val := h, ecc := .clean }) ∧
    (∀ i h, .freeRow i h true ∈ p.holdOps → t.isListed .hold i = false) ∧
    ((∀ i h, .freeRow i h true ∉ p.holdOps) → t.store.quarantine = s.store.quarantine ∧ t.link.mem = s.link.mem) ∧
    (∀ i, k.cardLock = some i → x.writesCard = true → t.card i = { val := x.card.getD {}, ecc := .clean }) ∧
    (∀ i r, k.tillLock = some i → x.till = some r → t.tillRow i = { val := r, ecc := .clean }) ∧
    t.store.trailSerial = s.store.trailSerial + 1)) ∧
  (∀ (w i j : Nat) (js : List Nat) (e : Outside) (s₀ s v x : State) (k : Work) (t : TillRow) (sel : Selection) (row : CardRow), s₀.outside e = s →
    TillReady .holdOpen w k t sel i row s →
    (let c := workingRow .holdOpen k sel row s
    ¬ (0 < sel.programme.velocityLimit ∧ sel.programme.velocityLimit ≤ c.windowCount) →
    k.req.amount ≤ balance s.clock.day c.lots - c.held → c.refs.length < sel.programme.holdsPerCard →
    RowsPassed ClaimPassed s.holds.free.head js (some j) (s.bothLocked k i) v → js.length < s.holds.free.count → ClaimPassed j v x →
    x.linkIsLost j →
    ∃ u, exec (.holdOpen w e) s₀ = .next u ∧ LinkLost x u ∧ u.store.cards = s.store.cards ∧ u.store.tills = s.store.tills ∧
      u.store.holds = s.store.holds ∧ u.store.quarantine = x.store.quarantine ∧ u.store.trailSerial = s.store.trailSerial ∧
      u.link.mem = x.link.mem)) ∧
  (∀ (w i p : Nat) (js : List Nat) (e : Outside) (s₀ s v x : State), s₀.outside e = s →
    w < 8 → s.worker w = none → s.control.engine = .running → s.units.ready = [] →
    (64 ≤ s.holds.due.count ∨ ∀ n, n < s.dir.laneCount → (s.laneState n).ready = false) →
    s.freePlace = some p → s.journal.written - s.journal.cached + s.journal.reserved + 1 ≤ s.dir.journalCount →
    RowsPassed DuePassed s.holds.due.head js (some i) s v → js.length < s.holds.due.count → DuePassed i v x → x.linkIsLost i →
    ∃ u, exec (.workerDispatch w e) s₀ = .next u ∧ LinkLost x u ∧ u.store.cards = s.store.cards ∧ u.store.tills = s.store.tills ∧
      u.store.holds = x.store.holds ∧ u.store.quarantine = x.store.quarantine ∧ u.store.trailSerial = s.store.trailSerial ∧
      u.link.mem = x.link.mem)

/-- The lot operations keep the value (R10, R11, R12, R13, R14): what is added, drawn, restored and taken back is what leaves or joins the lots; a draw
goes from the front; a restore accounts for every part; the two passes take the lesser of what is asked and what is there. -/
def Obligations.LotOperationsKeepTheValue : Prop :=
  ∀ (ls : List Lot),
    (∀ a r, addPaid a ls = some r → lotSum r = lotSum ls + a ∧ ∃ l, r.getLast? = some l ∧ l.expiry = none) ∧
    (∀ a, addPaid a ls = none ↔ 6 ≤ ls.length ∧ ∃ l, ls.getLast? = some l ∧ l.isBonus = true) ∧
    (∀ g d r, addBonus g d ls = some r → lotSum r = lotSum ls + g ∧ (lotsOrdered ls = true → lotsOrdered r = true)) ∧
    (∀ g d, addBonus g d ls = none ↔ 6 ≤ ls.length ∧ ∀ l ∈ ls, l.expiry ≠ some d) ∧
    (∀ d, d ≤ lotSum ls →
      lotSum (drawLots d ls).1 = d ∧ lotSum (drawLots d ls).2 = lotSum ls - d ∧
      ((drawLots d ls).1.map (·.expiry)).isPrefixOf (ls.map (·.expiry)) = true) ∧
    (∀ today ps,
      (let r := restoreParts today ps ls
      lotSum r.lots = lotSum ls + r.restored ∧ r.restored + r.unrestored + r.lapsed = lotSum ps ∧
      r.lapsed = lotSum (ps.filter (Lot.lapsed today)) ∧ r.lots.length ≤ max 6 ls.length)) ∧
    (∀ x, (paidPass x ls).1 = min x (lotSum ls) ∧ lotSum (paidPass x ls).2 = lotSum ls - min x (lotSum ls)) ∧
    (∀ y d, (bonusPass y d ls).1 = min y (lotSum (ls.filter Lot.isBonus)) ∧
      lotSum (bonusPass y d ls).2 = lotSum ls - min y (lotSum (ls.filter Lot.isBonus)))

/-- The oldest answer handed for a lane is written: the half with the stamp and the late mark, the state ANSWERED, the tally and its word, the trail
status, the lane's notice accounting, the TILL cause of its commit; then its worker ends, with no one waiting for its locks or room (R123, R142,
R156, R159, R160, R161, R174). A failed write gives the answer up, uncounted, its trail status ABANDONED (R162). THE MODEL'S CHOICE: the answer
goes to the slot its lane entry gave at the take (log 21), the TILL cause is raised whether or not the write succeeds (log 22), the lane state and the tally word are those of the directory in force at the write
(log 50), and with no answer handed for the lane nothing changes (log 5). -/
def Obligations.AnswerWriteCountsAndFreesTheWorker : Prop :=
  ∀ (n : Nat) (e : Outside) (s₀ s : State) (a : HandedAnswer) (pre rest : List HandedAnswer), s₀.outside e = s →
    ((∀ b ∈ s.notices.answers, b.lane ≠ n) → exec (.answerWrite n e) s₀ = .next s) ∧
    (s.notices.answers = pre ++ a :: rest → (∀ b ∈ pre, b.lane ≠ n) → a.lane = n → a.half.length = 64 →
      s.units.waiting = [] → s.units.roomWaiters = [] →
      (let base := a.entry.base + a.slot * 128
      let word := s.dir.engineWords + 4 * n
      let l := s.laneState n
      let count := l.pendingAnswers + 1
      let late := a.worker.isSome ∧ ∃ m, linkRead s (base + 1) 1 = some [m] ∧ m ≠ 0
      let raised := if a.tillCause then s.notices.raised.add .till else s.notices.raised
      let ended := fun (t : State) =>
        (a.worker = none → t.units = s.units ∧ t.locks = s.locks ∧ t.journal = s.journal) ∧
        (∀ w k, a.worker = some w → s.worker w = some k →
          t.worker w = none ∧ (∀ v, v ≠ w → t.worker v = s.worker v) ∧ k.place ∉ t.units.places ∧
          t.journal = { s.journal with reserved := s.journal.reserved - k.room } ∧ t.locks.card = s.locks.card ∧
          (∀ i, k.tillLock = some i → t.lockHeld (.till i) = false ∧ ∀ j, j ≠ i → t.lockHeld (.till j) = s.lockHeld (.till j)))
      (s.link.writable base 1 → s.link.writable (base + 64) 64 → s.link.writable word 4 → (word + 4 ≤ base ∨ base + 128 ≤ word) →
        ∃ t half, exec (.answerWrite n e) s₀ = .next t ∧ memBytes t.link.mem (base + 64) 64 = half ∧
          (¬ late → a.entry.embed.getLsbD 0 = false → half = a.half) ∧
          (a.entry.embed.getLsbD 0 = true →
            (half.drop 32).take 8 = leBytes 2 s.clock.day ++ leBytes 2 s.clock.minute ++ leBytes 1 s.clock.second ++ zeroBytes 3) ∧
          (late → fieldAt half 2 2 = fieldAt a.half 2 2 ||| 0x20) ∧
          Memory.read t.link.mem base = 3 ∧ memBytes t.link.mem word 4 = leBytes 4 (l.tally + 1).toNat ∧
          (∀ x, x ≠ base → (x < base + 64 ∨ base + 128 ≤ x) → (x < word ∨ word + 4 ≤ x) →
            Memory.read t.link.mem x = Memory.read s.link.mem x) ∧
          t.laneState n = { l with
            tally := l.tally + 1, pendingAnswers := if a.entry.threshold ≤ count then 0 else count
            holdTimer := if a.entry.threshold ≤ count then none else if count = 1 then some a.entry.holdTime else l.holdTimer } ∧
          (∀ m, m ≠ n → t.laneState m = s.laneState m) ∧
          t.notices = { s.notices with
            answers := pre ++ rest, raised := if a.entry.threshold ≤ count then raised.add .answers else raised } ∧
          (∀ j, a.trail = some j → (t.trailStatusAt j).answer = .done ∧ (t.trailCell j).entry.answerStatus = .done) ∧
          ended t ∧ t.clock = s.clock ∧ t.tables = s.tables ∧ t.holds = s.holds ∧ t.control = s.control ∧ t.pending = s.pending ∧
          { t.store with trail := s.store.trail, trailStatus := s.store.trailStatus } = s.store) ∧
      (¬ s.link.writable (base + 64) 64 ∨ ¬ s.link.writable base 1 →
        ∃ t, exec (.answerWrite n e) s₀ = .next t ∧ t.lanes = s.lanes ∧
          t.notices = { s.notices with answers := pre ++ rest, raised := raised } ∧
          (∀ j, a.trail = some j → (t.trailStatusAt j).answer = .abandoned ∧ (t.trailCell j).entry.answerStatus = .abandoned) ∧
          ended t)))

/-- The head of the append queue is written to its place in the ring (R164, R169, R172): counts, count word, notice mark and trail status follow; a
failed write leaves it at the head for the next tick. An append waits while a failed write does, and nothing is appended before STARTING has passed.
THE MODEL'S CHOICE (log 5): an append with nothing queued, and a retry with no failed write, change nothing. In a STARTING that follows a DRAIN the
ring, its count word and the mark are the old directory's (logs 20, 60), and the written count has no upper bound (log 24). -/
def Obligations.JournalAppendsInOrder : Prop :=
  ∀ (mk : Outside → Instr) (again : Bool) (e : Outside) (s₀ s : State),
    (mk, again) ∈ [(Instr.journalAppend, false), (Instr.journalWriteRetry, true)] → s₀.outside e = s →
    ((s.control.directory = none ∨ s.journal.retry ≠ again ∨ s.journal.queue = []) → exec (mk e) s₀ = .next s) ∧
    (∀ d q rest, s.control.directory = some d → s.journal.retry = again → s.journal.queue = q :: rest →
      (let place := d.journalBase + 64 * (s.journal.written % d.journalCount)
      let word := d.engineWords + 256
      let fill := s.journal.written + 1 - s.journal.cached
      (s.link.writable place 64 → s.link.writable word 8 → (word + 8 ≤ place ∨ place + 64 ≤ word) →
        ∃ t, exec (mk e) s₀ = .next t ∧
          t.journal = { s.journal with
            written := s.journal.written + 1, reserved := s.journal.reserved - 1, queue := rest, retry := false, fillTested := fill } ∧
          memBytes t.link.mem place 64 = q.entry.bytes ∧ memBytes t.link.mem word 8 = leBytes 8 (s.journal.written + 1) ∧
          (∀ x, (x < place ∨ place + 64 ≤ x) → (x < word ∨ word + 8 ≤ x) → Memory.read t.link.mem x = Memory.read s.link.mem x) ∧
          t.notices = { s.notices with
            raised := if s.journal.fillTested < d.mark ∧ d.mark ≤ fill then s.notices.raised.add .journal else s.notices.raised } ∧
          (∀ j, q.last = some j → (t.trailStatusAt j).journal = .done ∧ (t.trailCell j).entry.journalStatus = .done) ∧
          (q.last = none → t.store = s.store) ∧ { t.store with trail := s.store.trail, trailStatus := s.store.trailStatus } = s.store ∧
          t.units = s.units ∧ t.locks = s.locks ∧ t.lanes = s.lanes ∧ t.holds = s.holds ∧ t.clock = s.clock ∧ t.tables = s.tables ∧
          t.control = s.control ∧ t.pending = s.pending) ∧
      (¬ s.link.writable place 64 → ∃ t, exec (mk e) s₀ = .next t ∧ t.journal = { s.journal with retry := true } ∧
        { t with journal := s.journal, link := s.link } = s ∧
        (∀ x, (x < place ∨ place + 64 ≤ x) → Memory.read t.link.mem x = Memory.read s.link.mem x))))
end

