-- ==== Sys2Proof/Laws/CodeWords.lean ====
section
/-! SUPPORT. Code words: what reading a unit finds, by the wrong bits of its words, and that a bit changed twice is as it was (R132). -/

namespace Sys2Proof.Machine

@[simp] theorem BitErrors.outcome_nil : BitErrors.outcome { bits := [] } = .clean := rfl

@[simp] theorem BitErrors.outcome_clean : BitErrors.clean.outcome = .clean := rfl

/-- A unit reads uncorrectable where one of its code words has two wrong bits or more. -/
theorem BitErrors.outcome_uncorrectable_iff (e : BitErrors) : e.outcome = .uncorrectable ↔ ∃ w, 2 ≤ e.inWord w := by
  have hw : ∀ w, e.wordOutcome w = .uncorrectable ↔ 2 ≤ e.inWord w := by
    intro w
    unfold BitErrors.wordOutcome
    match e.inWord w with
    | 0 => simp
    | 1 => simp
    | n + 2 => simp
  have h : e.outcome = .uncorrectable ↔ e.bits.any (fun b => decide (e.wordOutcome b.1 = .uncorrectable)) = true := by
    unfold BitErrors.outcome
    split
    · next h => exact ⟨fun _ => h, fun _ => rfl⟩
    · next h => exact ⟨fun g => (by split at g <;> cases g), fun g => absurd g h⟩
  rw [h, List.any_eq_true]
  constructor
  · rintro ⟨b, -, hb⟩
    exact ⟨b.1, (hw _).mp (of_decide_eq_true hb)⟩
  · rintro ⟨w, h2⟩
    obtain ⟨b, hb⟩ := List.exists_mem_of_length_pos (show 0 < (e.bits.filter (fun b => decide (b.1 = w))).length from by
      unfold BitErrors.inWord at h2; omega)
    obtain ⟨hm, he⟩ := List.mem_filter.mp hb
    have : b.1 = w := of_decide_eq_true he
    exact ⟨b, hm, decide_eq_true ((hw _).mpr (this ▸ h2))⟩

/-- A unit reads clean where none of its bits is wrong. -/
theorem BitErrors.outcome_clean_iff (e : BitErrors) : e.outcome = .clean ↔ e.bits = [] := by
  constructor
  · intro h
    cases hb : e.bits with
    | nil => rfl
    | cons b r =>
      have hpos : 0 < e.inWord b.1 := by simp [BitErrors.inWord, hb]
      have hword : e.wordOutcome b.1 = .corrected ∨ e.wordOutcome b.1 = .uncorrectable := by
        unfold BitErrors.wordOutcome
        split <;> simp_all
      have hmem : b ∈ e.bits := by simp [hb]
      unfold BitErrors.outcome at h
      split at h
      · cases h
      · next h1 =>
        split at h
        · cases h
        · next h2 =>
          rcases hword with hc | hu
          · exact absurd (List.any_eq_true.mpr ⟨b, hmem, decide_eq_true hc⟩) h2
          · exact absurd (List.any_eq_true.mpr ⟨b, hmem, decide_eq_true hu⟩) h1
  · intro h
    obtain ⟨bits⟩ := e
    subst h
    rfl

/-- The wrong bits stand in rising order. -/
abbrev BitErrors.sorted (l : List (Nat × Nat)) : Prop := l.Pairwise (fun a b => a.1 < b.1 ∨ (a.1 = b.1 ∧ a.2 < b.2))

/-- A bit changed twice is as it was. -/
theorem flipBit_flipBit (b : Nat × Nat) (l : List (Nat × Nat)) (h : BitErrors.sorted l) : flipBit b (flipBit b l) = l := by
  induction l with
  | nil => simp [flipBit]
  | cons c r ih =>
    obtain ⟨hc, hr⟩ := List.pairwise_cons.mp h
    by_cases hcb : c = b
    · subst hcb
      cases r with
      | nil => simp [flipBit]
      | cons d r =>
        have := hc d (by simp)
        have hd : d ≠ c := by
          intro hd
          subst hd
          omega
        simp [flipBit, hd, this]
    · by_cases hlt : b.1 < c.1 ∨ (b.1 = c.1 ∧ b.2 < c.2)
      · simp [flipBit, hcb, hlt]
      · simp [flipBit, hcb, hlt, ih hr]

/-- A changed bit keeps the rising order. -/
theorem flipBit_sorted (b : Nat × Nat) (l : List (Nat × Nat)) (h : BitErrors.sorted l) : BitErrors.sorted (flipBit b l) := by
  induction l with
  | nil => simp [flipBit, BitErrors.sorted]
  | cons c r ih =>
    obtain ⟨hc, hr⟩ := List.pairwise_cons.mp h
    unfold flipBit
    split
    · exact hr
    · next hcb =>
      split
      · next hlt =>
        refine List.pairwise_cons.mpr ⟨?_, h⟩
        intro d hd
        rcases List.mem_cons.mp hd with rfl | hd
        · exact hlt
        · have := hc d hd
          omega
      · next hlt =>
        refine List.pairwise_cons.mpr ⟨?_, ih hr⟩
        intro d hd
        have hsub : d = b ∨ d ∈ r := by
          clear hc hr h ih hcb hlt
          induction r with
          | nil => simpa [flipBit] using hd
          | cons x r ih =>
            unfold flipBit at hd
            split at hd
            · exact .inr (List.mem_cons_of_mem _ hd)
            · split at hd
              · simpa using hd
              · rcases List.mem_cons.mp hd with rfl | hd
                · simp
                · rcases ih hd with rfl | h
                  · simp
                  · exact .inr (List.mem_cons_of_mem _ h)
        rcases hsub with rfl | hd
        · have : c ≠ d := hcb
          have : ¬ (c.1 = d.1 ∧ c.2 = d.2) := fun h => hcb (Prod.ext h.1 h.2)
          omega
        · exact hc d hd

end Sys2Proof.Machine
end

