-- ==== Sys2Proof/Laws/State.lean ====
section
/-! SUPPORT. One lemma per block and update of the state, so that no proof unfolds a record update. -/

namespace Sys2Proof.Machine

/-! ### setPending -/

@[simp] theorem State.setPending_pending (s : State) (v : List Instr) : (s.setPending v).pending = v := rfl
@[simp] theorem State.setPending_link (s : State) (v : List Instr) : (s.setPending v).link = s.link := rfl
@[simp] theorem State.setPending_control (s : State) (v : List Instr) : (s.setPending v).control = s.control := rfl
@[simp] theorem State.setPending_notices (s : State) (v : List Instr) : (s.setPending v).notices = s.notices := rfl
@[simp] theorem State.setPending_clock (s : State) (v : List Instr) : (s.setPending v).clock = s.clock := rfl
@[simp] theorem State.setPending_lanes (s : State) (v : List Instr) : (s.setPending v).lanes = s.lanes := rfl
@[simp] theorem State.setPending_units (s : State) (v : List Instr) : (s.setPending v).units = s.units := rfl
@[simp] theorem State.setPending_locks (s : State) (v : List Instr) : (s.setPending v).locks = s.locks := rfl
@[simp] theorem State.setPending_tables (s : State) (v : List Instr) : (s.setPending v).tables = s.tables := rfl
@[simp] theorem State.setPending_store (s : State) (v : List Instr) : (s.setPending v).store = s.store := rfl
@[simp] theorem State.setPending_holds (s : State) (v : List Instr) : (s.setPending v).holds = s.holds := rfl
@[simp] theorem State.setPending_journal (s : State) (v : List Instr) : (s.setPending v).journal = s.journal := rfl

/-! ### setLink -/

@[simp] theorem State.setLink_pending (s : State) (v : Link) : (s.setLink v).pending = s.pending := rfl
@[simp] theorem State.setLink_link (s : State) (v : Link) : (s.setLink v).link = v := rfl
@[simp] theorem State.setLink_control (s : State) (v : Link) : (s.setLink v).control = s.control := rfl
@[simp] theorem State.setLink_notices (s : State) (v : Link) : (s.setLink v).notices = s.notices := rfl
@[simp] theorem State.setLink_clock (s : State) (v : Link) : (s.setLink v).clock = s.clock := rfl
@[simp] theorem State.setLink_lanes (s : State) (v : Link) : (s.setLink v).lanes = s.lanes := rfl
@[simp] theorem State.setLink_units (s : State) (v : Link) : (s.setLink v).units = s.units := rfl
@[simp] theorem State.setLink_locks (s : State) (v : Link) : (s.setLink v).locks = s.locks := rfl
@[simp] theorem State.setLink_tables (s : State) (v : Link) : (s.setLink v).tables = s.tables := rfl
@[simp] theorem State.setLink_store (s : State) (v : Link) : (s.setLink v).store = s.store := rfl
@[simp] theorem State.setLink_holds (s : State) (v : Link) : (s.setLink v).holds = s.holds := rfl
@[simp] theorem State.setLink_journal (s : State) (v : Link) : (s.setLink v).journal = s.journal := rfl

/-! ### setControl -/

@[simp] theorem State.setControl_pending (s : State) (v : Control) : (s.setControl v).pending = s.pending := rfl
@[simp] theorem State.setControl_link (s : State) (v : Control) : (s.setControl v).link = s.link := rfl
@[simp] theorem State.setControl_control (s : State) (v : Control) : (s.setControl v).control = v := rfl
@[simp] theorem State.setControl_notices (s : State) (v : Control) : (s.setControl v).notices = s.notices := rfl
@[simp] theorem State.setControl_clock (s : State) (v : Control) : (s.setControl v).clock = s.clock := rfl
@[simp] theorem State.setControl_lanes (s : State) (v : Control) : (s.setControl v).lanes = s.lanes := rfl
@[simp] theorem State.setControl_units (s : State) (v : Control) : (s.setControl v).units = s.units := rfl
@[simp] theorem State.setControl_locks (s : State) (v : Control) : (s.setControl v).locks = s.locks := rfl
@[simp] theorem State.setControl_tables (s : State) (v : Control) : (s.setControl v).tables = s.tables := rfl
@[simp] theorem State.setControl_store (s : State) (v : Control) : (s.setControl v).store = s.store := rfl
@[simp] theorem State.setControl_holds (s : State) (v : Control) : (s.setControl v).holds = s.holds := rfl
@[simp] theorem State.setControl_journal (s : State) (v : Control) : (s.setControl v).journal = s.journal := rfl

/-! ### setNotices -/

@[simp] theorem State.setNotices_pending (s : State) (v : Notices) : (s.setNotices v).pending = s.pending := rfl
@[simp] theorem State.setNotices_link (s : State) (v : Notices) : (s.setNotices v).link = s.link := rfl
@[simp] theorem State.setNotices_control (s : State) (v : Notices) : (s.setNotices v).control = s.control := rfl
@[simp] theorem State.setNotices_notices (s : State) (v : Notices) : (s.setNotices v).notices = v := rfl
@[simp] theorem State.setNotices_clock (s : State) (v : Notices) : (s.setNotices v).clock = s.clock := rfl
@[simp] theorem State.setNotices_lanes (s : State) (v : Notices) : (s.setNotices v).lanes = s.lanes := rfl
@[simp] theorem State.setNotices_units (s : State) (v : Notices) : (s.setNotices v).units = s.units := rfl
@[simp] theorem State.setNotices_locks (s : State) (v : Notices) : (s.setNotices v).locks = s.locks := rfl
@[simp] theorem State.setNotices_tables (s : State) (v : Notices) : (s.setNotices v).tables = s.tables := rfl
@[simp] theorem State.setNotices_store (s : State) (v : Notices) : (s.setNotices v).store = s.store := rfl
@[simp] theorem State.setNotices_holds (s : State) (v : Notices) : (s.setNotices v).holds = s.holds := rfl
@[simp] theorem State.setNotices_journal (s : State) (v : Notices) : (s.setNotices v).journal = s.journal := rfl

/-! ### setClock -/

@[simp] theorem State.setClock_pending (s : State) (v : Clock) : (s.setClock v).pending = s.pending := rfl
@[simp] theorem State.setClock_link (s : State) (v : Clock) : (s.setClock v).link = s.link := rfl
@[simp] theorem State.setClock_control (s : State) (v : Clock) : (s.setClock v).control = s.control := rfl
@[simp] theorem State.setClock_notices (s : State) (v : Clock) : (s.setClock v).notices = s.notices := rfl
@[simp] theorem State.setClock_clock (s : State) (v : Clock) : (s.setClock v).clock = v := rfl
@[simp] theorem State.setClock_lanes (s : State) (v : Clock) : (s.setClock v).lanes = s.lanes := rfl
@[simp] theorem State.setClock_units (s : State) (v : Clock) : (s.setClock v).units = s.units := rfl
@[simp] theorem State.setClock_locks (s : State) (v : Clock) : (s.setClock v).locks = s.locks := rfl
@[simp] theorem State.setClock_tables (s : State) (v : Clock) : (s.setClock v).tables = s.tables := rfl
@[simp] theorem State.setClock_store (s : State) (v : Clock) : (s.setClock v).store = s.store := rfl
@[simp] theorem State.setClock_holds (s : State) (v : Clock) : (s.setClock v).holds = s.holds := rfl
@[simp] theorem State.setClock_journal (s : State) (v : Clock) : (s.setClock v).journal = s.journal := rfl

/-! ### setLanes -/

@[simp] theorem State.setLanes_pending (s : State) (v : Lanes) : (s.setLanes v).pending = s.pending := rfl
@[simp] theorem State.setLanes_link (s : State) (v : Lanes) : (s.setLanes v).link = s.link := rfl
@[simp] theorem State.setLanes_control (s : State) (v : Lanes) : (s.setLanes v).control = s.control := rfl
@[simp] theorem State.setLanes_notices (s : State) (v : Lanes) : (s.setLanes v).notices = s.notices := rfl
@[simp] theorem State.setLanes_clock (s : State) (v : Lanes) : (s.setLanes v).clock = s.clock := rfl
@[simp] theorem State.setLanes_lanes (s : State) (v : Lanes) : (s.setLanes v).lanes = v := rfl
@[simp] theorem State.setLanes_units (s : State) (v : Lanes) : (s.setLanes v).units = s.units := rfl
@[simp] theorem State.setLanes_locks (s : State) (v : Lanes) : (s.setLanes v).locks = s.locks := rfl
@[simp] theorem State.setLanes_tables (s : State) (v : Lanes) : (s.setLanes v).tables = s.tables := rfl
@[simp] theorem State.setLanes_store (s : State) (v : Lanes) : (s.setLanes v).store = s.store := rfl
@[simp] theorem State.setLanes_holds (s : State) (v : Lanes) : (s.setLanes v).holds = s.holds := rfl
@[simp] theorem State.setLanes_journal (s : State) (v : Lanes) : (s.setLanes v).journal = s.journal := rfl

/-! ### setUnits -/

@[simp] theorem State.setUnits_pending (s : State) (v : Units) : (s.setUnits v).pending = s.pending := rfl
@[simp] theorem State.setUnits_link (s : State) (v : Units) : (s.setUnits v).link = s.link := rfl
@[simp] theorem State.setUnits_control (s : State) (v : Units) : (s.setUnits v).control = s.control := rfl
@[simp] theorem State.setUnits_notices (s : State) (v : Units) : (s.setUnits v).notices = s.notices := rfl
@[simp] theorem State.setUnits_clock (s : State) (v : Units) : (s.setUnits v).clock = s.clock := rfl
@[simp] theorem State.setUnits_lanes (s : State) (v : Units) : (s.setUnits v).lanes = s.lanes := rfl
@[simp] theorem State.setUnits_units (s : State) (v : Units) : (s.setUnits v).units = v := rfl
@[simp] theorem State.setUnits_locks (s : State) (v : Units) : (s.setUnits v).locks = s.locks := rfl
@[simp] theorem State.setUnits_tables (s : State) (v : Units) : (s.setUnits v).tables = s.tables := rfl
@[simp] theorem State.setUnits_store (s : State) (v : Units) : (s.setUnits v).store = s.store := rfl
@[simp] theorem State.setUnits_holds (s : State) (v : Units) : (s.setUnits v).holds = s.holds := rfl
@[simp] theorem State.setUnits_journal (s : State) (v : Units) : (s.setUnits v).journal = s.journal := rfl

/-! ### setLocks -/

@[simp] theorem State.setLocks_pending (s : State) (v : Locks) : (s.setLocks v).pending = s.pending := rfl
@[simp] theorem State.setLocks_link (s : State) (v : Locks) : (s.setLocks v).link = s.link := rfl
@[simp] theorem State.setLocks_control (s : State) (v : Locks) : (s.setLocks v).control = s.control := rfl
@[simp] theorem State.setLocks_notices (s : State) (v : Locks) : (s.setLocks v).notices = s.notices := rfl
@[simp] theorem State.setLocks_clock (s : State) (v : Locks) : (s.setLocks v).clock = s.clock := rfl
@[simp] theorem State.setLocks_lanes (s : State) (v : Locks) : (s.setLocks v).lanes = s.lanes := rfl
@[simp] theorem State.setLocks_units (s : State) (v : Locks) : (s.setLocks v).units = s.units := rfl
@[simp] theorem State.setLocks_locks (s : State) (v : Locks) : (s.setLocks v).locks = v := rfl
@[simp] theorem State.setLocks_tables (s : State) (v : Locks) : (s.setLocks v).tables = s.tables := rfl
@[simp] theorem State.setLocks_store (s : State) (v : Locks) : (s.setLocks v).store = s.store := rfl
@[simp] theorem State.setLocks_holds (s : State) (v : Locks) : (s.setLocks v).holds = s.holds := rfl
@[simp] theorem State.setLocks_journal (s : State) (v : Locks) : (s.setLocks v).journal = s.journal := rfl

/-! ### setTables -/

@[simp] theorem State.setTables_pending (s : State) (v : Tables) : (s.setTables v).pending = s.pending := rfl
@[simp] theorem State.setTables_link (s : State) (v : Tables) : (s.setTables v).link = s.link := rfl
@[simp] theorem State.setTables_control (s : State) (v : Tables) : (s.setTables v).control = s.control := rfl
@[simp] theorem State.setTables_notices (s : State) (v : Tables) : (s.setTables v).notices = s.notices := rfl
@[simp] theorem State.setTables_clock (s : State) (v : Tables) : (s.setTables v).clock = s.clock := rfl
@[simp] theorem State.setTables_lanes (s : State) (v : Tables) : (s.setTables v).lanes = s.lanes := rfl
@[simp] theorem State.setTables_units (s : State) (v : Tables) : (s.setTables v).units = s.units := rfl
@[simp] theorem State.setTables_locks (s : State) (v : Tables) : (s.setTables v).locks = s.locks := rfl
@[simp] theorem State.setTables_tables (s : State) (v : Tables) : (s.setTables v).tables = v := rfl
@[simp] theorem State.setTables_store (s : State) (v : Tables) : (s.setTables v).store = s.store := rfl
@[simp] theorem State.setTables_holds (s : State) (v : Tables) : (s.setTables v).holds = s.holds := rfl
@[simp] theorem State.setTables_journal (s : State) (v : Tables) : (s.setTables v).journal = s.journal := rfl

/-! ### setStore -/

@[simp] theorem State.setStore_pending (s : State) (v : Store) : (s.setStore v).pending = s.pending := rfl
@[simp] theorem State.setStore_link (s : State) (v : Store) : (s.setStore v).link = s.link := rfl
@[simp] theorem State.setStore_control (s : State) (v : Store) : (s.setStore v).control = s.control := rfl
@[simp] theorem State.setStore_notices (s : State) (v : Store) : (s.setStore v).notices = s.notices := rfl
@[simp] theorem State.setStore_clock (s : State) (v : Store) : (s.setStore v).clock = s.clock := rfl
@[simp] theorem State.setStore_lanes (s : State) (v : Store) : (s.setStore v).lanes = s.lanes := rfl
@[simp] theorem State.setStore_units (s : State) (v : Store) : (s.setStore v).units = s.units := rfl
@[simp] theorem State.setStore_locks (s : State) (v : Store) : (s.setStore v).locks = s.locks := rfl
@[simp] theorem State.setStore_tables (s : State) (v : Store) : (s.setStore v).tables = s.tables := rfl
@[simp] theorem State.setStore_store (s : State) (v : Store) : (s.setStore v).store = v := rfl
@[simp] theorem State.setStore_holds (s : State) (v : Store) : (s.setStore v).holds = s.holds := rfl
@[simp] theorem State.setStore_journal (s : State) (v : Store) : (s.setStore v).journal = s.journal := rfl

/-! ### setHolds -/

@[simp] theorem State.setHolds_pending (s : State) (v : HoldTable) : (s.setHolds v).pending = s.pending := rfl
@[simp] theorem State.setHolds_link (s : State) (v : HoldTable) : (s.setHolds v).link = s.link := rfl
@[simp] theorem State.setHolds_control (s : State) (v : HoldTable) : (s.setHolds v).control = s.control := rfl
@[simp] theorem State.setHolds_notices (s : State) (v : HoldTable) : (s.setHolds v).notices = s.notices := rfl
@[simp] theorem State.setHolds_clock (s : State) (v : HoldTable) : (s.setHolds v).clock = s.clock := rfl
@[simp] theorem State.setHolds_lanes (s : State) (v : HoldTable) : (s.setHolds v).lanes = s.lanes := rfl
@[simp] theorem State.setHolds_units (s : State) (v : HoldTable) : (s.setHolds v).units = s.units := rfl
@[simp] theorem State.setHolds_locks (s : State) (v : HoldTable) : (s.setHolds v).locks = s.locks := rfl
@[simp] theorem State.setHolds_tables (s : State) (v : HoldTable) : (s.setHolds v).tables = s.tables := rfl
@[simp] theorem State.setHolds_store (s : State) (v : HoldTable) : (s.setHolds v).store = s.store := rfl
@[simp] theorem State.setHolds_holds (s : State) (v : HoldTable) : (s.setHolds v).holds = v := rfl
@[simp] theorem State.setHolds_journal (s : State) (v : HoldTable) : (s.setHolds v).journal = s.journal := rfl

/-! ### setJournal -/

@[simp] theorem State.setJournal_pending (s : State) (v : Journal) : (s.setJournal v).pending = s.pending := rfl
@[simp] theorem State.setJournal_link (s : State) (v : Journal) : (s.setJournal v).link = s.link := rfl
@[simp] theorem State.setJournal_control (s : State) (v : Journal) : (s.setJournal v).control = s.control := rfl
@[simp] theorem State.setJournal_notices (s : State) (v : Journal) : (s.setJournal v).notices = s.notices := rfl
@[simp] theorem State.setJournal_clock (s : State) (v : Journal) : (s.setJournal v).clock = s.clock := rfl
@[simp] theorem State.setJournal_lanes (s : State) (v : Journal) : (s.setJournal v).lanes = s.lanes := rfl
@[simp] theorem State.setJournal_units (s : State) (v : Journal) : (s.setJournal v).units = s.units := rfl
@[simp] theorem State.setJournal_locks (s : State) (v : Journal) : (s.setJournal v).locks = s.locks := rfl
@[simp] theorem State.setJournal_tables (s : State) (v : Journal) : (s.setJournal v).tables = s.tables := rfl
@[simp] theorem State.setJournal_store (s : State) (v : Journal) : (s.setJournal v).store = s.store := rfl
@[simp] theorem State.setJournal_holds (s : State) (v : Journal) : (s.setJournal v).holds = s.holds := rfl
@[simp] theorem State.setJournal_journal (s : State) (v : Journal) : (s.setJournal v).journal = v := rfl

/-! ### setMem and setWorker -/

@[simp] theorem State.setMem_pending (s : State) (m : List Host.Cell) : (s.setMem m).pending = s.pending := rfl
@[simp] theorem State.setMem_link (s : State) (m : List Host.Cell) : (s.setMem m).link = { s.link with mem := m } := rfl
@[simp] theorem State.setMem_control (s : State) (m : List Host.Cell) : (s.setMem m).control = s.control := rfl
@[simp] theorem State.setMem_notices (s : State) (m : List Host.Cell) : (s.setMem m).notices = s.notices := rfl
@[simp] theorem State.setMem_clock (s : State) (m : List Host.Cell) : (s.setMem m).clock = s.clock := rfl
@[simp] theorem State.setMem_lanes (s : State) (m : List Host.Cell) : (s.setMem m).lanes = s.lanes := rfl
@[simp] theorem State.setMem_units (s : State) (m : List Host.Cell) : (s.setMem m).units = s.units := rfl
@[simp] theorem State.setMem_locks (s : State) (m : List Host.Cell) : (s.setMem m).locks = s.locks := rfl
@[simp] theorem State.setMem_tables (s : State) (m : List Host.Cell) : (s.setMem m).tables = s.tables := rfl
@[simp] theorem State.setMem_store (s : State) (m : List Host.Cell) : (s.setMem m).store = s.store := rfl
@[simp] theorem State.setMem_holds (s : State) (m : List Host.Cell) : (s.setMem m).holds = s.holds := rfl
@[simp] theorem State.setMem_journal (s : State) (m : List Host.Cell) : (s.setMem m).journal = s.journal := rfl

@[simp] theorem State.setWorker_pending (s : State) (w : Nat) (v : Option Work) : (s.setWorker w v).pending = s.pending := rfl
@[simp] theorem State.setWorker_link (s : State) (w : Nat) (v : Option Work) : (s.setWorker w v).link = s.link := rfl
@[simp] theorem State.setWorker_control (s : State) (w : Nat) (v : Option Work) : (s.setWorker w v).control = s.control := rfl
@[simp] theorem State.setWorker_notices (s : State) (w : Nat) (v : Option Work) : (s.setWorker w v).notices = s.notices := rfl
@[simp] theorem State.setWorker_clock (s : State) (w : Nat) (v : Option Work) : (s.setWorker w v).clock = s.clock := rfl
@[simp] theorem State.setWorker_lanes (s : State) (w : Nat) (v : Option Work) : (s.setWorker w v).lanes = s.lanes := rfl
@[simp] theorem State.setWorker_units (s : State) (w : Nat) (v : Option Work) : (s.setWorker w v).units = { s.units with workers := Sparse.set none s.units.workers w v } := rfl
@[simp] theorem State.setWorker_locks (s : State) (w : Nat) (v : Option Work) : (s.setWorker w v).locks = s.locks := rfl
@[simp] theorem State.setWorker_tables (s : State) (w : Nat) (v : Option Work) : (s.setWorker w v).tables = s.tables := rfl
@[simp] theorem State.setWorker_store (s : State) (w : Nat) (v : Option Work) : (s.setWorker w v).store = s.store := rfl
@[simp] theorem State.setWorker_holds (s : State) (w : Nat) (v : Option Work) : (s.setWorker w v).holds = s.holds := rfl
@[simp] theorem State.setWorker_journal (s : State) (w : Nat) (v : Option Work) : (s.setWorker w v).journal = s.journal := rfl

end Sys2Proof.Machine
end

