-- ==== Sys2Proof/Laws/Admission.lean ====
section
/-! SUPPORT. The path of a request through admission: a request all of whose checks pass comes to its own step 16, with the locks,
readings and copies that Safety.lean spells out. -/

namespace Sys2Proof.Machine

/-- A row that reads clean is read without a change of state. -/
theorem readCard_clean {s : State} {i : Nat} {row : CardRow} (h : s.card i = { val := row, ecc := .clean }) :
    readCard s i = (s, some row) := by simp [readCard, h]

/-- A till row of the table that is unlisted and reads clean is read without a change of state. -/
theorem readTill_clean {s : State} {i : Nat} {t : TillRow} (hi : i < Config.tills) (hl : s.isListed .till i = false)
    (h : s.tillRow i = { val := t, ecc := .clean }) : readTill s i = (s, some t) := by simp [readTill, h, hi, hl]

/-- A hold row that is unlisted and reads clean is read without a change of state. -/
theorem readHold_clean {s : State} {i : Nat} {h : HoldRow} (hl : s.isListed .hold i = false)
    (hs : s.hold i = { val := h, ecc := .clean }) : readHold s i = (s, some h) := by simp [readHold, hs, hl]

/-- A free lock whose bank has room is granted (R118 case 2). -/
theorem requestLock_granted {s : State} {l : LockName} {p : Nat} (hf : s.lockHeld l = false)
    (hr : (s.bank l).length < Config.bankSize) :
    requestLock l p s = (s.setBank l (s.bank l ++ [{ row := l.row, holder := p }]), true) := by
  simp [requestLock, hf, hr]

/-- A lock that is held, or whose bank is full, is not granted and nothing changes (R118 cases 1 and 3). -/
theorem requestLock_refused {s : State} {l : LockName} {p : Nat}
    (h : s.lockHeld l = true ∨ Config.bankSize ≤ (s.bank l).length) : requestLock l p s = (s, false) := by
  unfold requestLock
  rcases h with h | h
  · simp [h]
  · simp [Nat.not_lt.mpr h]

/-- Everything a lock request can answer (R118). -/
theorem requestLock_cases {s t : State} {l : LockName} {p : Nat} {b : Bool} (h : requestLock l p s = (t, b)) :
    (b = true ∧ s.lockHeld l = false ∧ (s.bank l).length < Config.bankSize ∧
      t = s.setBank l (s.bank l ++ [{ row := l.row, holder := p }])) ∨ (b = false ∧ t = s) := by
  unfold requestLock at h
  split at h
  · simp_all
  · split at h <;> simp_all

/-- A code check that gives no reason has locked nothing (R17). -/
theorem codeCheck_passes {kd : RequestKind} {r : Req} {sel : Selection} {c : CardRow} (h : (codeCheck kd r sel c).reason = none) :
    (codeCheck kd r sel c).lockedNow = false := by
  unfold codeCheck at h ⊢
  split at h
  · split at h
    · simp at h
    · split at h
      · next h1 h2 h3 => simp [h1, h2, h3]
      · simp only at h
        split at h <;> simp at h
  · next h1 => simp [h1]

/-- Steps 14 and 15 that pass lead to step 16 (R3, R4, R5, R17). -/
theorem onCardRow_passes {kd : RequestKind} {w : Nat} {k : Work} {sel : Selection} {row : CardRow} {s : State}
    (h : RowPasses kd k sel row s) :
    onCardRow w kd k sel s.clock.reading row s = runSixteen w kd k (servedPlan kd k sel row s) s := by
  obtain ⟨h1, h2, h3⟩ := h
  have h4 := codeCheck_passes h3
  unfold onCardRow
  simp only [h1, Bool.not_true, Bool.false_eq_true, if_false, h2, h3, h4]
  rfl

/-- The kinds whose card row goes through steps 14 and 15. -/
def RequestKind.gated (kd : RequestKind) : Bool := kd.isTill || decide (kd = .cardStatus) || decide (kd = .bonusGrant)

/-- Steps 7 to 15 that pass lead to step 16 (R38). -/
theorem stepsSevenOn_passes {kd : RequestKind} {w : Nat} {k : Work} {sel : Selection} {i : Nat} {row : CardRow} {s : State}
    (hk : kd.gated = true) (hc : CardPasses kd k sel i row s) (hr : RowPasses kd k sel row s) :
    stepsSevenOn w kd k s = runSixteen w kd (k.officeServed sel i s) (servedPlan kd k sel row s) (s.cardLocked k i) := by
  obtain ⟨h1, h2, h3, h4, h5, h6, h7, h8⟩ := hc
  have hl : requestLock (.card i) k.place s = (s.cardLocked k i, true) := by
    rw [requestLock_granted h6 h7]
    rfl
  have hs : (s.cardLocked k i).card i = { val := row, ecc := .clean } := h8
  have hp : RowPasses kd (k.officeServed sel i s) sel row (s.cardLocked k i) := ⟨hr.owned, hr.gate, hr.code⟩
  have h16 := onCardRow_passes (w := w) hp
  simp only [stepsSevenOn, h1, Bool.not_true, Bool.false_eq_true, if_false, h2, h3, h4, h5, false_and, takeCardLock]
  simp only [Work.row, Option.getD_some, hl]
  cases kd <;> simp [RequestKind.gated, RequestKind.isTill] at hk <;>
    (simp only [afterCardLock, Work.row, Option.getD_some, readCard_clean hs]; exact h16)

theorem stepOne_wellFormed {kd : RequestKind} {w : Nat} {k : Work} {s : State} (hk : k.kind? = some kd)
    (hw : requestWellFormed k.half = true) : stepOne w k s = stepTwo w kd k s := by simp [stepOne, hk, hw]

/-- A request command of the held request's row is step 1 of that request. -/
theorem beginRequest_held {f : Req → Bool} {w : Nat} {k : Work} {s : State} (h : s.atStepOne w = some k) (hf : f k.req = true) :
    beginRequest f w s = stepOne w k s := by simp [beginRequest, h, hf]

/-- A request command on a worker with no request at step 1, or with one of another row, changes nothing (log 5). -/
theorem beginRequest_other {f : Req → Bool} {w : Nat} {s : State} (h : ∀ k, s.atStepOne w = some k → f k.req = false) :
    beginRequest f w s = s := by
  unfold beginRequest
  split
  · rfl
  · next k hk => simp [h k hk]

/-- A till request all of whose checks pass comes to its own step 16 (R38, R40). -/
theorem till_request_reaches_sixteen {kd : RequestKind} {f : Req → Bool} {w : Nat} {k : Work} {t : TillRow} {sel : Selection}
    {i : Nat} {row : CardRow} {s : State} (hf : f k.req = true) (h : TillReady kd w k t sel i row s) :
    beginRequest f w s =
      runSixteen w kd (k.tillServed t sel i s) (servedPlan kd k sel row s) (s.bothLocked k i) := by
  obtain ⟨hp, ht, hT, hc, hr⟩ := h
  rw [beginRequest_held hp.held hf, stepOne_wellFormed hp.kind hp.wellFormed]
  have hread := readTill_clean hT.inTable hT.unlisted hT.stored
  have hl : requestLock (.till k.req.tillIndex) k.place s = (s.tillLocked k, true) := by
    rw [requestLock_granted hT.free hT.bank]
    rfl
  have hread' : readTill (s.tillLocked k) k.req.tillIndex = (s.tillLocked k, some t) :=
    readTill_clean hT.inTable hT.unlisted hT.stored
  have hcheck : recentCheck kd k.req (t.atSecondReading s.dir.recovery s.clock.reading.index).recent = .goOn := by
    have hrec : (t.atSecondReading s.dir.recovery s.clock.reading.index).recent = t.recent := by
      unfold TillRow.atSecondReading TillRow.recovered
      split
      · split
        · rfl
        · split <;> rfl
      · rfl
    simp [recentCheck, hrec, hT.fresh]
  simp only [stepTwo, ht, Bool.not_true, Bool.false_and, Bool.false_eq_true, if_false, if_true, stepThree, hread, hT.admits,
    takeTillLock, hl, afterTillLock]
  have hreq : ({ k with tillLock := some k.req.tillIndex, tillReading := some s.clock.reading } : Work).req = k.req := rfl
  rw [show (State.tillLocked s k).clock = s.clock from rfl, hreq, hread']
  simp only [hT.admits, if_true]
  rw [show (State.tillLocked s k).dir = s.dir from rfl]
  simp only [onTillRow]
  rw [show ({ k with
    tillLock := some k.req.tillIndex, tillReading := some s.clock.reading, tillRead := some t,
    till := some (t.atSecondReading s.dir.recovery s.clock.reading.index) } : Work).req = k.req from rfl, hcheck]
  simp only [hT.gate]
  refine Eq.trans (stepsSevenOn_passes (sel := sel) (i := i) (row := row) ?_ ?_ ?_) ?_
  · simp [RequestKind.gated, ht]
  · exact ⟨hc.digit, hc.selected, hc.allowed, hc.serial, hc.unlisted, hc.free, hc.bank, hc.stored⟩
  · exact ⟨hr.owned, hr.gate, hr.code⟩
  · rfl

/-- A CARD_STATUS or BONUS_GRANT request all of whose checks pass comes to its own step 16 (R38, R40). -/
theorem office_request_reaches_sixteen {kd : RequestKind} {f : Req → Bool} {w : Nat} {k : Work} {sel : Selection} {i : Nat}
    {row : CardRow} {s : State} (hf : f k.req = true) (h : OfficeReady kd w k sel i row s) :
    beginRequest f w s =
      runSixteen w kd (k.officeServed sel i s) (servedPlan kd k sel row s) (s.cardLocked k i) := by
  obtain ⟨hp, hk, hc, hr⟩ := h
  rw [beginRequest_held hp.held hf, stepOne_wellFormed hp.kind hp.wellFormed]
  have ha : k.onOfficeLane = true := by
    rcases hp.authority with h | h
    · rcases hk with rfl | rfl <;> simp [RequestKind.isTill] at h
    · exact h
  have hg : kd.gated = true := by rcases hk with rfl | rfl <;> rfl
  rw [← stepsSevenOn_passes hg hc hr]
  rcases hk with rfl | rfl <;> simp [stepTwo, RequestKind.isTill, RequestKind.takesTillLock, RequestKind.hasCard, ha]

/-- TILL_WRITE or TILL_RELEASE whose till lock is free comes to its step 16 (R40, R96, R104). -/
theorem till_table_request_reaches_sixteen {kd : RequestKind} {f : Req → Bool} {w : Nat} {k : Work} {s : State}
    (hf : f k.req = true) (h : TillTableReady kd w k s) :
    beginRequest f w s = runSixteen w kd { k with tillLock := some k.req.tillIndex } {} (s.tillLocked k) := by
  obtain ⟨hp, hk, hfree, hb⟩ := h
  rw [beginRequest_held hp.held hf, stepOne_wellFormed hp.kind hp.wellFormed]
  have ha : k.onOfficeLane = true := by
    rcases hp.authority with h | h
    · rcases hk with rfl | rfl <;> simp [RequestKind.isTill] at h
    · exact h
  have hl : requestLock (.till k.req.tillIndex) k.place s = (s.tillLocked k, true) := by
    rw [requestLock_granted hfree hb]
    rfl
  rcases hk with rfl | rfl <;>
    simp [stepTwo, RequestKind.isTill, RequestKind.takesTillLock, ha, takeTillLock, hl, afterTillLock]

/-- An office request that takes no lock comes to its step 16 (R40). -/
theorem table_request_reaches_sixteen {kd : RequestKind} {f : Req → Bool} {w : Nat} {k : Work} {s : State}
    (hf : f k.req = true) (h : TableReady kd w k s) : beginRequest f w s = runSixteen w kd k {} s := by
  obtain ⟨hp, hk⟩ := h
  rw [beginRequest_held hp.held hf, stepOne_wellFormed hp.kind hp.wellFormed]
  have ha : k.onOfficeLane = true := by
    rcases hp.authority with h | h
    · rcases hk with rfl | rfl | rfl | rfl | rfl | rfl <;> simp [RequestKind.isTill] at h
    · exact h
  rcases hk with rfl | rfl | rfl | rfl | rfl | rfl <;>
    simp [stepTwo, RequestKind.isTill, RequestKind.takesTillLock, RequestKind.hasCard, ha]

/-- A ROW_READ or ROW_WRITE request whose row reads comes to its step 16 (R40, R69, R70). -/
theorem row_request_reaches_sixteen {kd : RequestKind} {f : Req → Bool} {w : Nat} {k : Work} {sel : Selection} {i : Nat}
    {row : CardRow} {s : State} (hf : f k.req = true) (h : RowReady kd w k sel i row s) :
    beginRequest f w s =
      runSixteen w kd (k.officeServed sel i s) { today := s.clock.day, card := some row, cardRead := some row }
        (s.cardLocked k i) := by
  obtain ⟨hp, hk, hc⟩ := h
  rw [beginRequest_held hp.held hf, stepOne_wellFormed hp.kind hp.wellFormed]
  have ha : k.onOfficeLane = true := by
    rcases hp.authority with h | h
    · rcases hk with rfl | rfl <;> simp [RequestKind.isTill] at h
    · exact h
  obtain ⟨h1, h2, h3, h4, h5, h6, h7, h8⟩ := hc
  have hl : requestLock (.card i) k.place s = (s.cardLocked k i, true) := by
    rw [requestLock_granted h6 h7]
    rfl
  have hs : (s.cardLocked k i).card i = { val := row, ecc := .clean } := h8
  have hu : (s.cardLocked k i).isListed .card i = false := h5
  rcases hk with rfl | rfl <;>
    simp only [stepTwo, RequestKind.isTill, RequestKind.takesTillLock, RequestKind.hasCard, ha, Bool.not_true, Bool.and_false,
      Bool.false_eq_true, if_false, if_true, stepsSevenOn, h1, h2, h3, h4, h5, false_and, takeCardLock] <;>
    simp only [Work.row, Option.getD_some, hl, afterCardLock, readCard_clean hs, hu, Bool.false_eq_true, if_false] <;> rfl

/-! ### From a plan to its commit -/

/-- A plan that locks no card by a wrong code goes to its commit when the trail place owes nothing (R46, R142). -/
theorem prepareCommit_free {w : Nat} {k : Work} {p : Plan} {s : State} (hp : p.status = none)
    (ht : s.trailOwing s.store.trailPlace = false) : prepareCommit w k p s = commitNow w k p s := by
  simp [prepareCommit, commitWork, hp, ht]

/-- A step 16 that answers a plan goes to its commit when the trail place owes nothing. -/
theorem runSixteen_plan {w : Nat} {kd : RequestKind} {k : Work} {p q : Plan} {s t : State}
    (h : stepSixteen kd k p s = (t, some q)) (hq : q.status = none) (ht : t.trailOwing t.store.trailPlace = false) :
    runSixteen w kd k p s = commitNow w k q t := by
  unfold runSixteen
  rw [h]
  exact prepareCommit_free hq ht

/-- A step 16 that loses a link word is the LINK_LOST fault (R138). -/
theorem runSixteen_lost {w : Nat} {kd : RequestKind} {k : Work} {p : Plan} {s t : State}
    (h : stepSixteen kd k p s = (t, none)) : runSixteen w kd k p s = linkLost t := by
  unfold runSixteen
  rw [h]

end Sys2Proof.Machine
end

