-- ==== Sys2Proof/Laws/Sparse.lean ====
section
/-! SUPPORT. Sparse tables: what a read finds after an erase, an insert and a set, and that each keeps the canonical form. -/

namespace Sys2Proof.Machine

variable {α : Type}

theorem Sparse.get_erase_same (d : α) (m : List (Nat × α)) (k : Nat) : Sparse.get d (Sparse.erase m k) k = d := by
  induction m with
  | nil => rfl
  | cons p m ih =>
    obtain ⟨j, x⟩ := p
    by_cases h : j = k
    · simp [Sparse.erase, h, ih]
    · simp [Sparse.erase, Sparse.get, h, ih]

theorem Sparse.get_erase_other (d : α) (m : List (Nat × α)) {k a : Nat} (h : a ≠ k) :
    Sparse.get d (Sparse.erase m k) a = Sparse.get d m a := by
  induction m with
  | nil => rfl
  | cons p m ih =>
    obtain ⟨j, x⟩ := p
    by_cases hj : j = k
    · subst hj
      simp [Sparse.erase, Sparse.get, ih, Ne.symm h]
    · by_cases ha : j = a
      · subst ha
        simp [Sparse.erase, Sparse.get, h]
      · simp [Sparse.erase, Sparse.get, hj, ha, ih]

theorem Sparse.get_insert_other (d : α) (m : List (Nat × α)) {k a : Nat} (v : α) (h : a ≠ k) :
    Sparse.get d (Sparse.insert m k v) a = Sparse.get d m a := by
  induction m with
  | nil => simp [Sparse.insert, Sparse.get, Ne.symm h]
  | cons p m ih =>
    obtain ⟨j, x⟩ := p
    by_cases hj : k < j
    · simp [Sparse.insert, hj, Sparse.get, Ne.symm h]
    · simp [Sparse.insert, hj, Sparse.get, ih]

theorem Sparse.get_insert_same (d : α) (m : List (Nat × α)) (k : Nat) (v : α) :
    Sparse.get d (Sparse.insert (Sparse.erase m k) k v) k = v := by
  induction m with
  | nil => simp [Sparse.erase, Sparse.insert, Sparse.get]
  | cons p m ih =>
    obtain ⟨j, x⟩ := p
    by_cases hj : j = k
    · simpa [Sparse.erase, hj] using ih
    · by_cases hl : k < j
      · simp [Sparse.erase, hj, Sparse.insert, hl, Sparse.get]
      · simpa [Sparse.erase, hj, Sparse.insert, hl, Sparse.get] using ih

variable [DecidableEq α]

/-- A read at the number just set. -/
@[simp] theorem Sparse.get_set_same (d : α) (m : List (Nat × α)) (k : Nat) (v : α) :
    Sparse.get d (Sparse.set d m k v) k = v := by
  unfold Sparse.set
  split
  · next h => rw [Sparse.get_erase_same, h]
  · exact Sparse.get_insert_same d m k v

/-- A set leaves every other number alone. -/
theorem Sparse.get_set_other (d : α) (m : List (Nat × α)) {k a : Nat} (v : α) (h : a ≠ k) :
    Sparse.get d (Sparse.set d m k v) a = Sparse.get d m a := by
  unfold Sparse.set
  split
  · exact Sparse.get_erase_other d m h
  · rw [Sparse.get_insert_other d _ v h, Sparse.get_erase_other d m h]

theorem Sparse.wfAbove_weaken (d : α) {m : List (Nat × α)} {lo : Option Nat} (h : Sparse.wfAbove d lo m = true) :
    Sparse.wfAbove d none m = true := by
  cases m with
  | nil => rfl
  | cons p m =>
    obtain ⟨j, x⟩ := p
    simp only [Sparse.wfAbove, Bool.and_eq_true] at h ⊢
    exact ⟨⟨trivial, h.1.2⟩, h.2⟩

theorem Sparse.wfAbove_of_lt (d : α) {m : List (Nat × α)} {a b : Nat} (hab : a < b)
    (h : Sparse.wfAbove d (some b) m = true) : Sparse.wfAbove d (some a) m = true := by
  cases m with
  | nil => rfl
  | cons p m =>
    obtain ⟨j, x⟩ := p
    simp only [Sparse.wfAbove, Bool.and_eq_true, decide_eq_true_eq] at h ⊢
    exact ⟨⟨by omega, h.1.2⟩, h.2⟩

/-- A table is canonical above a bound when its first number is above it. -/
theorem Sparse.wfAbove_erase (d : α) (m : List (Nat × α)) (k : Nat) (lo : Option Nat)
    (h : Sparse.wfAbove d lo m = true) : Sparse.wfAbove d lo (Sparse.erase m k) = true := by
  induction m generalizing lo with
  | nil => rfl
  | cons p m ih =>
    obtain ⟨j, x⟩ := p
    simp only [Sparse.wfAbove, Bool.and_eq_true] at h
    by_cases hj : j = k
    · simp only [Sparse.erase, hj, if_true]
      apply ih
      cases lo with
      | none => exact Sparse.wfAbove_weaken d h.2
      | some l => exact Sparse.wfAbove_of_lt d (of_decide_eq_true h.1.1) h.2
    · simp only [Sparse.erase, hj, if_false, Sparse.wfAbove, Bool.and_eq_true]
      exact ⟨h.1, ih (some j) h.2⟩

/-- A table some of whose entries are left out stays canonical. -/
theorem Sparse.wfAbove_filter (d : α) (f : Nat × α → Bool) (m : List (Nat × α)) (lo : Option Nat)
    (h : Sparse.wfAbove d lo m = true) : Sparse.wfAbove d lo (m.filter f) = true := by
  induction m generalizing lo with
  | nil => rfl
  | cons p m ih =>
    obtain ⟨j, x⟩ := p
    simp only [Sparse.wfAbove, Bool.and_eq_true] at h
    rw [List.filter_cons]
    split
    · simp only [Sparse.wfAbove, Bool.and_eq_true]
      exact ⟨h.1, ih (some j) h.2⟩
    · apply ih
      cases lo with
      | none => exact Sparse.wfAbove_weaken d h.2
      | some l => exact Sparse.wfAbove_of_lt d (of_decide_eq_true h.1.1) h.2

theorem Sparse.wfAbove_insert (d : α) (m : List (Nat × α)) (k : Nat) (v : α) (lo : Option Nat) (hv : v ≠ d)
    (hl : ∀ l, lo = some l → l < k) (hk : ∀ p ∈ m, p.1 ≠ k) (h : Sparse.wfAbove d lo m = true) :
    Sparse.wfAbove d lo (Sparse.insert m k v) = true := by
  induction m generalizing lo with
  | nil =>
    cases lo with
    | none => simp [Sparse.insert, Sparse.wfAbove, hv]
    | some l => simp [Sparse.insert, Sparse.wfAbove, hv, hl l rfl]
  | cons p m ih =>
    obtain ⟨j, x⟩ := p
    simp only [Sparse.wfAbove, Bool.and_eq_true] at h
    by_cases hj : k < j
    · simp only [Sparse.insert, hj, if_true, Sparse.wfAbove, Bool.and_eq_true]
      refine ⟨⟨?_, by simp [hv]⟩, ⟨by simp, h.1.2⟩, h.2⟩
      cases lo with
      | none => rfl
      | some l => simp [hl l rfl]
    · have hjk : j < k := by
        have := hk (j, x) (by simp)
        simp only at this
        omega
      simp only [Sparse.insert, hj, if_false, Sparse.wfAbove, Bool.and_eq_true]
      refine ⟨h.1, ih (some j) ?_ (fun q hq => hk q (by simp [hq])) h.2⟩
      intro l hl'
      cases hl'
      exact hjk

omit [DecidableEq α] in
theorem Sparse.not_mem_erase (m : List (Nat × α)) (k : Nat) : ∀ p ∈ Sparse.erase m k, p.1 ≠ k := by
  induction m with
  | nil => simp [Sparse.erase]
  | cons p m ih =>
    obtain ⟨j, x⟩ := p
    by_cases hj : j = k
    · simpa [Sparse.erase, hj] using ih
    · simp only [Sparse.erase, hj, if_false, List.mem_cons, forall_eq_or_imp]
      exact ⟨hj, ih⟩

/-- A set keeps the canonical form. -/
theorem Sparse.wf_set (d : α) (m : List (Nat × α)) (k : Nat) (v : α) (h : Sparse.wf d m = true) :
    Sparse.wf d (Sparse.set d m k v) = true := by
  unfold Sparse.set Sparse.wf
  split
  · exact Sparse.wfAbove_erase d m k none h
  · next hv =>
    exact Sparse.wfAbove_insert d _ k v none hv (by simp) (Sparse.not_mem_erase m k) (Sparse.wfAbove_erase d m k none h)

/-! ### Host memory -/

/-- A read of the byte just written. -/
theorem Memory.read_write_same (m : List Host.Cell) (a : Nat) (b : Byte) (h : a < Config.hostAddresses) :
    Memory.read (Memory.write m a b) a = b := by simp [Memory.read, Memory.write, h]

/-- A write leaves every other byte alone. -/
theorem Memory.read_write_other (m : List Host.Cell) {a c : Nat} (b : Byte) (h : c ≠ a) :
    Memory.read (Memory.write m a b) c = Memory.read m c := by
  unfold Memory.read Memory.write
  split
  · exact Sparse.get_set_other 0 m b h
  · rfl

/-- A write keeps the canonical form. -/
theorem Memory.wf_write (m : List Host.Cell) (a : Nat) (b : Byte) (h : Memory.wf m = true) :
    Memory.wf (Memory.write m a b) = true := by
  unfold Memory.write
  split
  · exact Sparse.wf_set 0 m a b h
  · exact h

/-- Bytes written upward keep the canonical form. -/
theorem memWrite_wf (bs : List Byte) (m : List Host.Cell) (a : Nat) (h : Memory.wf m = true) :
    Memory.wf (memWrite m a bs) = true := by
  induction bs generalizing m a with
  | nil => exact h
  | cons b bs ih => exact ih _ _ (Memory.wf_write m a b h)

/-- Bytes written upward from `a` leave every byte outside the written range alone. -/
theorem memWrite_other (bs : List Byte) (m : List Host.Cell) {a c : Nat} (h : c < a ∨ a + bs.length ≤ c) :
    Memory.read (memWrite m a bs) c = Memory.read m c := by
  induction bs generalizing m a with
  | nil => rfl
  | cons b bs ih =>
    simp only [List.length_cons] at h
    rw [memWrite, ih (Memory.write m a b) (by omega), Memory.read_write_other m b (by omega)]

/-- Bytes written upward from `a` read back. -/
theorem memWrite_same (bs : List Byte) (m : List Host.Cell) (a i : Nat) (hi : i < bs.length)
    (ha : a + bs.length ≤ Config.hostAddresses) : Memory.read (memWrite m a bs) (a + i) = bs[i] := by
  induction bs generalizing m a i with
  | nil => simp at hi
  | cons b bs ih =>
    simp only [List.length_cons] at ha hi
    cases i with
    | zero =>
      rw [memWrite, memWrite_other bs _ (by omega), Nat.add_zero, Memory.read_write_same _ _ _ (by omega)]
      rfl
    | succ i =>
      rw [memWrite, show a + (i + 1) = a + 1 + i by omega, ih _ (a + 1) i (by omega) (by omega)]
      rfl

end Sys2Proof.Machine
end

