-- ==== Sys2Proof/Laws/Ops.lean ====
section
/-! SUPPORT. What each shared operation can do, said once: the blocks it writes, and what it leaves in them. -/

namespace Sys2Proof.Machine

/-! ### Link transfers -/

/-- A word write changes host memory alone, in the word's own bytes. -/
theorem linkPut_only (s : State) (a : Nat) (bs : List Byte) :
    ∃ m, (linkPut s a bs).1 = s.setMem m ∧ (Memory.wf s.link.mem = true → Memory.wf m = true) ∧
      ∀ x, (x < a ∨ a + bs.length ≤ x) → Memory.read m x = Memory.read s.link.mem x := by
  unfold linkPut
  split
  · exact ⟨s.link.mem, rfl, id, fun _ _ => rfl⟩
  · exact ⟨_, rfl, memWrite_wf _ _ _, fun x hx => memWrite_other _ _ hx⟩

/-- A word write none of whose bytes fails writes them all. -/
theorem linkPut_done {s : State} {a : Nat} {bs : List Byte} (h : ∀ i, i < bs.length → s.link.writeFailsAt (a + i) = false) :
    linkPut s a bs = (s.setMem (memWrite s.link.mem a bs), true) := by
  unfold linkPut
  rw [if_neg]
  simp only [List.any_eq_true, List.mem_range, not_exists, not_and, Bool.not_eq_true]
  exact h

/-- A word write with a byte that fails writes nothing (log 3). -/
theorem linkPut_failed {s : State} {a : Nat} {bs : List Byte} {i : Nat} (hi : i < bs.length)
    (h : s.link.writeFailsAt (a + i) = true) : linkPut s a bs = (s, false) := by
  unfold linkPut
  rw [if_pos]
  simp only [List.any_eq_true, List.mem_range]
  exact ⟨i, hi, h⟩

/-- The bytes written before the first that fails are at most the block's. -/
theorem writablePrefix_length_le (l : Link) (a : Nat) (bs : List Byte) : (writablePrefix l a bs).length ≤ bs.length := by
  induction bs generalizing a with
  | nil => simp [writablePrefix]
  | cons b bs ih =>
    simp only [writablePrefix]
    split
    · simp
    · have := ih (a + 1)
      simp only [List.length_cons]
      omega

/-- A block none of whose bytes fails is written whole. -/
theorem writablePrefix_whole {l : Link} {a : Nat} {bs : List Byte} (h : ∀ i, i < bs.length → l.writeFailsAt (a + i) = false) :
    writablePrefix l a bs = bs := by
  induction bs generalizing a with
  | nil => rfl
  | cons b bs ih =>
    have h0 := h 0 (by simp)
    rw [Nat.add_zero] at h0
    simp only [writablePrefix, h0, Bool.false_eq_true, if_false]
    rw [ih fun i hi => by
      have := h (i + 1) (by simpa using hi)
      rwa [show a + (i + 1) = a + 1 + i by omega] at this]

/-- A block write changes host memory alone, in the block's own bytes. -/
theorem linkBlock_only (s : State) (a : Nat) (bs : List Byte) :
    ∃ m, (linkBlock s a bs).1 = s.setMem m ∧ (Memory.wf s.link.mem = true → Memory.wf m = true) ∧
      ∀ x, (x < a ∨ a + bs.length ≤ x) → Memory.read m x = Memory.read s.link.mem x := by
  refine ⟨_, rfl, memWrite_wf _ _ _, fun x hx => memWrite_other _ _ ?_⟩
  have := writablePrefix_length_le s.link a bs
  omega

/-- Writing bytes 0 (log 61): each reads 0 but for one whose write fails, and every other byte is left alone. -/
theorem linkZero_read (s : State) (a n x : Nat) : Memory.read (linkZero s a n).link.mem x =
    if a ≤ x ∧ x < a + n ∧ s.link.writeFailsAt x = false then 0 else Memory.read s.link.mem x := by
  simp only [linkZero, State.setMem, State.setLink_link, Memory.read]
  induction s.link.mem with
  | nil => simp [Sparse.get]
  | cons c m ih =>
    obtain ⟨j, b⟩ := c
    by_cases hj : j = x
    · subst hj
      by_cases h1 : a ≤ j <;> by_cases h2 : j < a + n <;> cases h3 : s.link.writeFailsAt j <;>
        simp_all [Sparse.get]
    · rw [List.filter_cons]
      split <;> simp_all [Sparse.get]

/-- Writing bytes 0 changes host memory alone and keeps its canonical form. -/
theorem linkZero_only (s : State) (a n : Nat) :
    ∃ m, linkZero s a n = s.setMem m ∧ (Memory.wf s.link.mem = true → Memory.wf m = true) :=
  ⟨_, rfl, Sparse.wfAbove_filter 0 _ _ none⟩

/-- A block write none of whose bytes fails completes. -/
theorem linkBlock_done {s : State} {a : Nat} {bs : List Byte} (h : ∀ i, i < bs.length → s.link.writeFailsAt (a + i) = false) :
    linkBlock s a bs = (s.setMem (memWrite s.link.mem a bs), true) := by
  simp [linkBlock, writablePrefix_whole h]

/-! ### Notices -/

/-- Raising a cause joins it to the raised set and may send one MSI (R178, R179). -/
theorem raiseCause_only (c : Cause) (s : State) :
    ∃ n, raiseCause c s =
      (s.setLink { s.link with msiSent := n }).setNotices { s.notices with raised := s.notices.raised.add c } ∧
      (n = s.link.msiSent ∨ n = s.link.msiSent ++ [(s.link.msi.address, s.link.msi.data)]) := by
  unfold raiseCause sendMsi
  dsimp only
  split
  · split
    · exact ⟨_, rfl, .inr rfl⟩
    · exact ⟨s.link.msiSent, rfl, .inl rfl⟩
  · exact ⟨s.link.msiSent, rfl, .inl rfl⟩

/-! ### The quarantine list -/

/-- The count word's write changes host memory alone, in the word's own bytes (R136). -/
theorem writeQuarantineCount_only (s : State) :
    ∃ m, writeQuarantineCount s = s.setMem m ∧ (Memory.wf s.link.mem = true → Memory.wf m = true) ∧
      ∀ x, (∀ a, s.control.engineWords = some a → x < a + 264 ∨ a + 268 ≤ x) → Memory.read m x = Memory.read s.link.mem x := by
  unfold writeQuarantineCount
  split
  · exact ⟨s.link.mem, rfl, id, fun _ _ => rfl⟩
  · next a ha =>
    obtain ⟨m, h1, h2, h3⟩ := linkPut_only s (a + 264) (leBytes 4 s.store.quarantine.length)
    exact ⟨m, h1, h2, fun x hx => h3 x (hx a ha)⟩

/-- A row that leaves the list changes the list and the count word alone (R136). -/
theorem quarantineLeave_only (k : RowKind) (i : Nat) (s : State) :
    ∃ m, quarantineLeave k i s = (s.setMem m).setStore { s.store with
        quarantine := s.store.quarantine.filter (fun q => !(decide (q.kind = k) && decide (q.index = i))) } ∧
      (Memory.wf s.link.mem = true → Memory.wf m = true) ∧
      ∀ x, (∀ a, s.control.engineWords = some a → x < a + 264 ∨ a + 268 ≤ x) → Memory.read m x = Memory.read s.link.mem x := by
  unfold quarantineLeave
  split
  · obtain ⟨m, h1, h2, h3⟩ := writeQuarantineCount_only (s.setStore { s.store with
      quarantine := s.store.quarantine.filter (fun q => !(decide (q.kind = k) && decide (q.index = i))) })
    exact ⟨m, h1, h2, h3⟩
  · next h =>
    refine ⟨s.link.mem, ?_, id, fun _ _ => rfl⟩
    have : s.store.quarantine.filter (fun q => !(decide (q.kind = k) && decide (q.index = i))) = s.store.quarantine := by
      rw [List.filter_eq_self]
      intro q hq
      simp only [State.isListed, List.any_eq_true, not_exists, not_and] at h
      have := h q hq
      by_cases hk : q.kind = k <;> simp_all
    rw [this]
    rfl

/-- What the list can be after a row was to join it (R135). -/
structure Joined (k : RowKind) (i : Nat) (s : State) (q : List Listed) : Prop where
  kept : ∀ x ∈ s.store.quarantine, x ∈ q
  grown : q = s.store.quarantine ∨
    (s.isListed k i = false ∧ s.store.quarantine.length < Config.quarantineCapacity ∧
      ∃ m, q = s.store.quarantine ++ [{ kind := k, index := i, listedAt := m }])

/-- A row that joins the list changes the list or the overflow flag, the count word and the notices alone (R135, R136). -/
theorem quarantineJoin_only (k : RowKind) (i : Nat) (s : State) :
    ∃ m n r q o, quarantineJoin k i s =
        ((s.setLink { s.link with mem := m, msiSent := n }).setNotices { s.notices with raised := r }).setStore
          { s.store with quarantine := q, overflow := o } ∧
      Joined k i s q ∧ (Memory.wf s.link.mem = true → Memory.wf m = true) ∧
      ∀ x, (∀ a, s.control.engineWords = some a → x < a + 264 ∨ a + 268 ≤ x) → Memory.read m x = Memory.read s.link.mem x := by
  unfold quarantineJoin
  split
  · exact ⟨s.link.mem, s.link.msiSent, s.notices.raised, s.store.quarantine, s.store.overflow, rfl, ⟨fun _ h => h, .inl rfl⟩, id,
      fun _ _ => rfl⟩
  · next hl =>
    split
    · next hlen =>
      obtain ⟨n, hn, -⟩ := raiseCause_only .store (s.setStore { s.store with
        quarantine := s.store.quarantine ++ [{ kind := k, index := i, listedAt := if s.clock.set then some s.clock.now else none }] })
      rw [hn]
      obtain ⟨m, h1, h2, h3⟩ := writeQuarantineCount_only ((((s.setStore { s.store with
        quarantine := s.store.quarantine ++ [{ kind := k, index := i, listedAt := if s.clock.set then some s.clock.now else none }] }).setLink
          { s.link with msiSent := n }).setNotices { s.notices with raised := s.notices.raised.add .store }))
      refine ⟨m, n, s.notices.raised.add .store, _, s.store.overflow, h1, ⟨fun x hx => List.mem_append_left _ hx, .inr ⟨?_, hlen, _, rfl⟩⟩,
        h2, h3⟩
      simpa using hl
    · split
      · exact ⟨s.link.mem, s.link.msiSent, s.notices.raised, s.store.quarantine, s.store.overflow, rfl,
          ⟨fun _ h => h, .inl rfl⟩, id, fun _ _ => rfl⟩
      · obtain ⟨n, hn, -⟩ := raiseCause_only .store (s.setStore { s.store with overflow := true })
        rw [hn]
        exact ⟨s.link.mem, n, _, s.store.quarantine, true, rfl, ⟨fun _ h => h, .inl rfl⟩, id, fun _ _ => rfl⟩

end Sys2Proof.Machine
end

