-- ==== Sys2Proof/Laws/HoldChains.lean ====
section
/-! SUPPORT. The chain operations of a commit: they change the Hold Table and the link words alone, and depend on nothing else but the number of
hold rows and, for a filing again, the row's own deadline. A bucket move: what it leaves, said once. -/

namespace Sys2Proof.Machine

/-- State `t` is `s` with other on-chip chains, hand list and link words. -/
def ChainsOnly (s t : State) : Prop := t = { s with holds := t.holds, store := { s.store with links := t.store.links } }

/-- Two states look the same to a chain operation. -/
structure SameChains (s t : State) : Prop where
  holds : s.holds = t.holds
  links : s.store.links = t.store.links
  rows : s.holdRows = t.holdRows

theorem ChainsOnly.refl (s : State) : ChainsOnly s s := rfl

theorem ChainsOnly.trans {s t u : State} (h : ChainsOnly s t) (g : ChainsOnly t u) : ChainsOnly s u := by
  unfold ChainsOnly at *
  rw [g]
  generalize u.holds = a, u.store.links = b
  rw [h]

/-- Row contents are none of a chain operation's business. -/
theorem ChainsOnly.hold {s t : State} (h : ChainsOnly s t) (i : Nat) : t.hold i = s.hold i := by
  rw [h]
  rfl

theorem ChainsOnly.rows {s t : State} (h : ChainsOnly s t) : t.holdRows = s.holdRows := by
  rw [h]
  rfl

/-- What two like states come to is alike again. -/
theorem SameChains.of_only {s t a b : State} (h : SameChains s t) (ha : ChainsOnly s a) (hb : ChainsOnly t b)
    (hh : a.holds = b.holds) (hl : a.store.links = b.store.links) : SameChains a b :=
  ⟨hh, hl, by rw [ha.rows, hb.rows, h.rows]⟩

/-! ### Each operation, once -/

/-- An operation changes chains and link words alone, and does the same in states that look the same to it. -/
def ChainStep (f : State → State) : Prop :=
  (∀ s, ChainsOnly s (f s)) ∧ ∀ s t, SameChains s t → (f s).holds = (f t).holds ∧ (f s).store.links = (f t).store.links

theorem ChainStep.same {f : State → State} (h : ChainStep f) {s t : State} (g : SameChains s t) : SameChains (f s) (f t) :=
  g.of_only (h.1 s) (h.1 t) (h.2 s t g).1 (h.2 s t g).2

theorem ChainStep.id : ChainStep (fun s => s) := ⟨fun _ => rfl, fun _ _ g => ⟨g.holds, g.links⟩⟩

theorem ChainStep.comp {f g : State → State} (hf : ChainStep f) (hg : ChainStep g) : ChainStep (fun s => g (f s)) :=
  ⟨fun s => (hf.1 s).trans (hg.1 _), fun _ _ h => hg.2 _ _ (hf.same h)⟩

theorem writeLink_chainStep (i : Nat) (w : LinkWord) : ChainStep (writeLink i w) :=
  ⟨fun _ => rfl, fun s t g => ⟨g.holds, by simp only [writeLink, State.putLinkStored, State.setStore, g.links]⟩⟩

theorem putLinkStored_chainStep (i : Nat) (v : StoredLink) : ChainStep (fun s => s.putLinkStored i v) :=
  ⟨fun _ => rfl, fun s t g => ⟨g.holds, by simp only [State.putLinkStored, State.setStore, g.links]⟩⟩

theorem SameChains.linkWord {s t : State} (h : SameChains s t) (i : Nat) : s.linkWord i = t.linkWord i := by
  simp only [State.linkWord, h.links]

theorem SameChains.chain {s t : State} (h : SameChains s t) (c : ChainId) : s.chain c = t.chain c := by
  cases c <;> simp only [State.chain, h.holds]

theorem joinNext_chainStep (i : Nat) (n : Option Nat) : ChainStep (joinNext i n) :=
  ⟨fun _ => rfl, fun s t g => by
    simp only [joinNext, g.linkWord]
    exact (writeLink_chainStep i _).2 s t g⟩

theorem joinPrev_chainStep (i : Nat) (n : Option Nat) : ChainStep (joinPrev i n) :=
  ⟨fun _ => rfl, fun s t g => by
    simp only [joinPrev, g.linkWord]
    exact (writeLink_chainStep i _).2 s t g⟩

theorem setChain_chainStep (c : ChainId) (v : Chain) : ChainStep (fun s => s.setChain c v) := by
  cases c <;> exact ⟨fun _ => rfl, fun s t g => by
    simp only [State.setChain, State.setHolds, g.holds, g.links]
    exact ⟨trivial, trivial⟩⟩

theorem dropHand_chainStep (k : HandKind) (i : Nat) : ChainStep (dropHand k i) :=
  ⟨fun _ => rfl, fun s t g => by
    simp only [dropHand, State.setHolds, g.holds, g.links]
    exact ⟨trivial, trivial⟩⟩

/-- A join with a neighbour that may be absent. -/
theorem optional_chainStep {f : Nat → State → State} (h : ∀ i, ChainStep (f i)) (o : Option Nat) :
    ChainStep (fun s => match o with | none => s | some i => f i s) := by
  cases o with
  | none => exact ChainStep.id
  | some i => exact h i

theorem appendRow_chainStep (c : ChainId) (i : Nat) : ChainStep (appendRow c i) := by
  have step : ∀ ch : Chain, ChainStep (fun s =>
      (match ch.tail with
        | none => writeLink i { prev := prevLink i ch.tail, next := none } s
        | some t => joinNext t (some i) (writeLink i { prev := prevLink i ch.tail, next := none } s)).setChain c
        { head := match ch.head with | none => some i | some h => some h, tail := some i, count := ch.count + 1 }) := fun ch =>
    ((writeLink_chainStep i _).comp (optional_chainStep (fun t => joinNext_chainStep t (some i)) ch.tail)).comp (setChain_chainStep c _)
  refine ⟨fun s => (step (s.chain c)).1 s, fun s t g => ?_⟩
  have h := (step (s.chain c)).2 s t g
  unfold appendRow
  rw [← g.chain c]
  exact h

theorem fileRow_chainStep (i deadline : Nat) : ChainStep (fileRow i deadline) := by
  refine ⟨fun s => ?_, fun s t g => ?_⟩
  · unfold fileRow
    split
    · split
      · exact (appendRow_chainStep _ i).1 s
      · exact (appendRow_chainStep _ i).1 s
    · exact (appendRow_chainStep _ i).1 s
  · unfold fileRow
    rw [← g.holds]
    split
    · split
      · exact (appendRow_chainStep _ i).2 s t g
      · exact (appendRow_chainStep _ i).2 s t g
    · exact (appendRow_chainStep _ i).2 s t g

/-! ### Reads of link words and unlinking -/

/-- What a read of a link word does to the state, and that it finds the same word in states that look the same. -/
theorem readLink_chain (i : Nat) : ChainStep (fun s => (readLink s i).1) ∧
    ∀ s t, SameChains s t → (readLink s i).2 = (readLink t i).2 := by
  refine ⟨⟨fun s => ?_, fun s t g => ?_⟩, fun s t g => ?_⟩
  · dsimp only [readLink]
    split
    · exact rfl
    · exact rfl
    · exact rfl
    · exact rfl
  · dsimp only [readLink]
    rw [g.linkWord]
    split
    · exact ⟨g.holds, g.links⟩
    · exact (putLinkStored_chainStep i _).2 s t g
    · exact ⟨g.holds, g.links⟩
    · exact (writeLink_chainStep i _).2 s t g
  · dsimp only [readLink]
    rw [g.linkWord]
    split <;> rfl

theorem chainStart_same {s t : State} (g : SameChains s t) (n i : Nat) : chainStart s n i = chainStart t n i := by
  induction n generalizing i with
  | zero => rfl
  | succ n ih =>
    simp only [chainStart, g.linkWord]
    split
    · rfl
    · exact ih _

theorem chainOf_same {s t : State} (g : SameChains s t) (i : Nat) : chainOf s i = chainOf t i := by
  simp only [chainOf, g.rows, chainStart_same g, chainHeadedBy, g.holds]

/-- A chain's ends and count replaced by a function of what they are. -/
theorem changeChain_chainStep (c : ChainId) (f : Chain → Chain) : ChainStep (fun s => s.setChain c (f (s.chain c))) :=
  ⟨fun s => (setChain_chainStep c _).1 s, fun s t g => by
    show (s.setChain c (f (s.chain c))).holds = (t.setChain c (f (t.chain c))).holds ∧
      (s.setChain c (f (s.chain c))).store.links = (t.setChain c (f (t.chain c))).store.links
    rw [← g.chain c]
    exact (setChain_chainStep c _).2 s t g⟩

/-- What a row's leaving does once its link word is read: its neighbours `p` and `n` are joined, and its chain's ends follow. -/
def leaveChain (c : Option ChainId) (i : Nat) (p n : Option Nat) (s : State) : State :=
  let s := match p with | none => s | some k => joinNext k n s
  let s := match n with | none => s | some k => joinPrev k p s
  match c with | none => s | some c => s.setChain c ((s.chain c).without i p n)

theorem leaveChain_chainStep (c : Option ChainId) (i : Nat) (p n : Option Nat) : ChainStep (leaveChain c i p n) := by
  have h : ChainStep (fun s => match c with | none => s | some c => s.setChain c ((s.chain c).without i p n)) := by
    cases c with
    | none => exact ChainStep.id
    | some c => exact changeChain_chainStep c (fun ch => ch.without i p n)
  exact ((optional_chainStep (fun k => joinNext_chainStep k n) p).comp (optional_chainStep (fun k => joinPrev_chainStep k p) n)).comp h

/-- Unlinking in one equation: a lost word ends it, and else the row leaves its chain. -/
theorem unlinkRow_eq (i : Nat) (s : State) : unlinkRow i s = match (readLink s i).2 with
    | none => ((readLink s i).1, false)
    | some w => (leaveChain (chainOf s i) i (prevTarget i w) (nextTarget i w) (readLink s i).1, true) := by
  rcases h : readLink s i with ⟨u, _ | w⟩
  · simp only [unlinkRow, h]
  · cases hc : chainOf s i <;> simp only [unlinkRow, leaveChain, h, hc] <;> rfl

/-- Unlinking: what it does to the state, and that it succeeds alike in states that look the same. -/
theorem unlinkRow_chain (i : Nat) : ChainStep (fun s => (unlinkRow i s).1) ∧
    ∀ s t, SameChains s t → (unlinkRow i s).2 = (unlinkRow i t).2 := by
  refine ⟨⟨fun s => ?_, fun s t g => ?_⟩, fun s t g => ?_⟩
  · show ChainsOnly s (unlinkRow i s).1
    rw [unlinkRow_eq]
    split
    · exact (readLink_chain i).1.1 s
    · exact ((readLink_chain i).1.1 s).trans ((leaveChain_chainStep _ i _ _).1 _)
  · show (unlinkRow i s).1.holds = (unlinkRow i t).1.holds ∧ (unlinkRow i s).1.store.links = (unlinkRow i t).1.store.links
    rw [unlinkRow_eq, unlinkRow_eq, (readLink_chain i).2 s t g, chainOf_same g]
    split
    · exact (readLink_chain i).1.2 s t g
    · exact (leaveChain_chainStep _ i _ _).2 _ _ ((readLink_chain i).1.same g)
  · rw [unlinkRow_eq, unlinkRow_eq, (readLink_chain i).2 s t g]
    split <;> rfl

/-! ### A commit's hold operations -/

/-- The row a hold operation files again by its stored deadline has the same content in both states. -/
def HoldOp.sameContent (s t : State) : HoldOp → Prop
  | .openRow _ _ => True
  | .renewRow _ _ => True
  | .freeRow _ _ _ => True
  | .refile i => s.hold i = t.hold i
  | .requeue _ => True

/-- One pattern of a hold operation: the row is unlinked after `f`, and then `g` places it. -/
theorem unlinkThen_chain (i : Nat) {f : State → State} (g : State → State → State) (hf : ChainStep f)
    (hg : ∀ u, ChainStep (g u)) (s t : State) (h : SameChains s t) (hs : ∀ u v, ChainsOnly s u → ChainsOnly t v → g u = g v) :
    (∀ r, (match unlinkRow i (f s) with | (s, false) => (s, false) | (s, true) => (g s s, true)) = r → ChainsOnly s r.1) ∧
    (∀ a b, (match unlinkRow i (f s) with | (s, false) => (s, false) | (s, true) => (g s s, true)) = a →
      (match unlinkRow i (f t) with | (s, false) => (s, false) | (s, true) => (g s s, true)) = b →
      a.2 = b.2 ∧ SameChains a.1 b.1) := by
  have hl := hf.same h
  have hu := (unlinkRow_chain i).1.same hl
  have ho := (unlinkRow_chain i).2 _ _ hl
  have h1 := (hf.1 s).trans ((unlinkRow_chain i).1.1 (f s))
  have h2 := (hf.1 t).trans ((unlinkRow_chain i).1.1 (f t))
  revert hu ho h1 h2
  dsimp only
  cases unlinkRow i (f s) with | mk a p =>
  cases unlinkRow i (f t) with | mk b q =>
  intro hu ho h1 h2
  dsimp only at hu ho h1 h2
  subst ho
  cases p with
  | false => exact ⟨fun r e => e ▸ h1, fun x y e1 e2 => e1 ▸ e2 ▸ ⟨rfl, hu⟩⟩
  | true =>
    refine ⟨fun r e => e ▸ h1.trans ((hg a).1 a), fun x y e1 e2 => e1 ▸ e2 ▸ ⟨rfl, ?_⟩⟩
    dsimp only
    rw [hs a b h1 h2]
    exact (hg b).same hu

/-- A hold operation changes chains, hand list and link words alone, and does the same in states that look the same to it. -/
theorem moveHold_chain (o : HoldOp) (s t : State) (h : SameChains s t) (hc : o.sameContent s t) :
    ChainsOnly s (moveHold o s).1 ∧ (moveHold o s).2 = (moveHold o t).2 ∧ SameChains (moveHold o s).1 (moveHold o t).1 := by
  cases o with
  | openRow i r =>
    have := unlinkThen_chain i (fun _ => fileRow i r.deadline) (dropHand_chainStep .claim i) (fun _ => fileRow_chainStep i r.deadline) s t h
      (fun _ _ _ _ => rfl)
    exact ⟨this.1 _ rfl, this.2 _ _ rfl rfl⟩
  | renewRow i r =>
    have := unlinkThen_chain i (fun _ s => dropHand .expiry i (fileRow i r.deadline s)) ChainStep.id
      (fun _ => (fileRow_chainStep i r.deadline).comp (dropHand_chainStep .expiry i)) s t h (fun _ _ _ _ => rfl)
    exact ⟨this.1 _ rfl, this.2 _ _ rfl rfl⟩
  | freeRow i r u =>
    have := unlinkThen_chain i (fun _ s => appendRow .free i (dropHand .expiry i s)) ChainStep.id
      (fun _ => (dropHand_chainStep .expiry i).comp (appendRow_chainStep .free i)) s t h (fun _ _ _ _ => rfl)
    exact ⟨this.1 _ rfl, this.2 _ _ rfl rfl⟩
  | refile i =>
    have := unlinkThen_chain i (fun u s => dropHand .expiry i (fileRow i (u.hold i).val.deadline s)) ChainStep.id
      (fun u => (fileRow_chainStep i (u.hold i).val.deadline).comp (dropHand_chainStep .expiry i)) s t h
      (fun u v hu hv => by rw [hu.hold, hv.hold, show s.hold i = t.hold i from hc])
    exact ⟨this.1 _ rfl, this.2 _ _ rfl rfl⟩
  | requeue i =>
    have := unlinkThen_chain i (fun _ s => dropHand .expiry i (appendRow .due i s)) ChainStep.id
      (fun _ => (appendRow_chainStep .due i).comp (dropHand_chainStep .expiry i)) s t h (fun _ _ _ _ => rfl)
    exact ⟨this.1 _ rfl, this.2 _ _ rfl rfl⟩

theorem HoldOp.sameContent_of_only {s t a b : State} {o : HoldOp} (h : o.sameContent s t) (ha : ChainsOnly s a) (hb : ChainsOnly t b) :
    o.sameContent a b := by
  cases o with
  | refile i => exact (ha.hold i).trans (Eq.trans h (hb.hold i).symm)
  | openRow _ _ => trivial
  | renewRow _ _ => trivial
  | freeRow _ _ _ => trivial
  | requeue _ => trivial

/-- A commit's chain operations change chains, hand list and link words alone, and come to the same in two states that look the same to them and
hold the same content in the rows filed again. -/
theorem moveHolds_chain (os : List HoldOp) (s t : State) (h : SameChains s t) (hc : ∀ o ∈ os, o.sameContent s t) :
    ChainsOnly s (moveHolds os s).1 ∧ (moveHolds os s).2 = (moveHolds os t).2 ∧ SameChains (moveHolds os s).1 (moveHolds os t).1 := by
  induction os generalizing s t with
  | nil => exact ⟨rfl, rfl, h⟩
  | cons o os ih =>
    have hs := moveHold_chain o s t h (hc o (by simp))
    have ht := (moveHold_chain o t t ⟨rfl, rfl, rfl⟩ (by cases o <;> trivial)).1
    revert hs ht
    simp only [moveHolds]
    cases moveHold o s with | mk a p =>
    cases moveHold o t with | mk b q =>
    dsimp only
    intro hs ht
    obtain ⟨h1, h2, h3⟩ := hs
    subst h2
    cases p with
    | false => exact ⟨h1, rfl, h3⟩
    | true =>
      have := ih a b h3 fun x hx => HoldOp.sameContent_of_only (hc x (by simp [hx])) h1 ht
      exact ⟨h1.trans this.1, this.2⟩

/-! ### A bucket move -/

theorem linkWord_putLinkStored (s : State) (i j : Nat) (v : StoredLink) :
    (s.putLinkStored i v).linkWord j = if j = i then v else s.linkWord j := by
  split
  · next h =>
    subst h
    exact Sparse.get_set_same ..
  · next h => exact Sparse.get_set_other _ _ _ h

theorem nextTarget_nextLink (x h : Nat) (p : Option Int) : nextTarget x { prev := p, next := nextLink x (some h) } = some h := by
  simp [nextTarget, nextLink]

theorem prevTarget_prevLink (x h : Nat) (n : Option Int) : prevTarget h { prev := prevLink h (some x), next := n } = some x := by
  simp [prevTarget, prevLink]

/-- A bucket that joins the due chain leaves what R78 says, and nothing else. -/
theorem concatBucket_joined (b : Nat) (s : State) : BucketJoined b s (concatBucket b s) := by
  cases hh : (s.chain (.bucket b)).head with
  | none =>
    have e : concatBucket b s = s := by simp [concatBucket, hh]
    rw [e]
    exact ⟨fun _ => rfl, by simp [hh], by simp [hh], fun _ _ => rfl, by simp [hh], fun _ _ => rfl, rfl, rfl, rfl⟩
  | some h =>
    have hb := hh
    simp only [State.chain] at hb
    cases ht : s.holds.due.tail with
    | none =>
      refine ⟨by simp [hh], fun y e => ?_, fun _ => ?_, fun c hc => ?_, by simp [ht], fun i _ => ?_, ?_, ?_, ?_⟩
      · rw [hh] at e
        cases e
        cases hd : s.holds.due.head <;> simp [concatBucket, hb, State.chain, ht, State.setChain, State.setHolds, hd]
      · simp [concatBucket, hb, State.chain, ht, State.setChain, State.setHolds]
      · simp [concatBucket, hb, State.chain, ht, State.setChain, State.setHolds, Sparse.get_set_other _ _ _ hc]
      all_goals simp [concatBucket, hb, State.chain, ht, State.setChain, State.setHolds, State.linkWord]
    | some x =>
      have lw : ∀ i, (concatBucket b s).linkWord i = (joinPrev h (some x) (joinNext x (some h) s)).linkWord i := by
        intro i
        simp [concatBucket, hb, State.chain, ht, State.setChain, State.setHolds, State.linkWord]
      refine ⟨by simp [hh], fun y e => ?_, fun _ => ?_, fun c hc => ?_, fun y z e1 e2 => ?_, fun i hi => ?_, ?_, ?_, ?_⟩
      · rw [hh] at e
        cases e
        cases hd : s.holds.due.head <;>
          simp [concatBucket, hb, State.chain, ht, State.setChain, State.setHolds, joinNext, joinPrev, writeLink, State.putLinkStored,
            State.setStore, hd]
      · simp [concatBucket, hb, State.chain, ht, State.setChain, State.setHolds]
      · simp [concatBucket, hb, State.chain, ht, State.setChain, State.setHolds, Sparse.get_set_other _ _ _ hc, joinNext, joinPrev, writeLink,
          State.putLinkStored, State.setStore]
      · rw [hh] at e1
        rw [ht] at e2
        cases e1
        cases e2
        simp only [lw, joinPrev, joinNext, writeLink, linkWord_putLinkStored]
        by_cases e : h = x
        · subst e
          simp [nextTarget_nextLink, prevTarget_prevLink]
        · simp [e, Ne.symm e, nextTarget_nextLink, prevTarget_prevLink]
      · rw [ht, hh] at hi
        simp only [reduceCtorEq, ne_eq, Option.some.injEq, false_or] at hi
        simp only [lw, joinPrev, joinNext, writeLink, linkWord_putLinkStored]
        rw [if_neg (fun e => hi.2 e.symm), if_neg (fun e => hi.1 e.symm)]
      all_goals simp [concatBucket, hb, State.chain, ht, State.setChain, State.setHolds, joinNext, joinPrev, writeLink, State.putLinkStored,
        State.setStore]

end Sys2Proof.Machine
end

