-- ==== Sys2Proof/Laws/Reads.lean ====
section
/-! SUPPORT. Reading rows: whatever rows, link words and trail entries a piece of work reads, and whatever it finds, the state afterwards is an
`Observed` of the state before (R132 to R137). -/

namespace Sys2Proof.Machine

/-- What reading leaves: contents are kept, error states may be corrected (R133), unreadable rows may be listed (R135), STORE may be raised
and the count word written (R136); nothing else moves. -/
structure Observed (s t : State) : Prop where
  pending : t.pending = s.pending
  control : t.control = s.control
  clock : t.clock = s.clock
  lanes : t.lanes = s.lanes
  units : t.units = s.units
  locks : t.locks = s.locks
  tables : t.tables = s.tables
  holds : t.holds = s.holds
  journal : t.journal = s.journal
  notices : t.notices = { s.notices with raised := t.notices.raised }
  link : t.link = { s.link with mem := t.link.mem, msiSent := t.link.msiSent }
  memWf : Memory.wf s.link.mem = true → Memory.wf t.link.mem = true
  memory : ∀ x, (∀ a, s.control.engineWords = some a → x < a + 264 ∨ a + 268 ≤ x) →
    Memory.read t.link.mem x = Memory.read s.link.mem x
  store : t.store = { s.store with
    cards := t.store.cards, tills := t.store.tills, holds := t.store.holds, links := t.store.links, header := t.store.header,
    trail := t.store.trail, quarantine := t.store.quarantine, overflow := t.store.overflow }
  cards : ∀ j, (t.card j).val = (s.card j).val
  tills : ∀ j, (t.tillRow j).val = (s.tillRow j).val
  holdRows : ∀ j, (t.hold j).val = (s.hold j).val
  linkWords : ∀ j, (t.linkWord j).word = (s.linkWord j).word
  trail : ∀ j, (t.trailCell j).entry = (s.trailCell j).entry
  header : t.header = s.header
  cardsWf : Sparse.wf scrubbedCard s.store.cards = true → Sparse.wf scrubbedCard t.store.cards = true
  tillsWf : Sparse.wf scrubbedTill s.store.tills = true → Sparse.wf scrubbedTill t.store.tills = true
  holdsWf : Sparse.wf scrubbedHold s.store.holds = true → Sparse.wf scrubbedHold t.store.holds = true
  linksWf : Sparse.wf {} s.store.links = true → Sparse.wf {} t.store.links = true
  trailWf : Sparse.wf {} s.store.trail = true → Sparse.wf {} t.store.trail = true
  listed : ∀ x ∈ s.store.quarantine, x ∈ t.store.quarantine
  quarantine : s.quarantineOk → t.quarantineOk

theorem Observed.refl (s : State) : Observed s s := by
  constructor <;> simp

theorem Observed.trans {s t u : State} (h : Observed s t) (g : Observed t u) : Observed s u := by
  constructor
  · rw [g.pending, h.pending]
  · rw [g.control, h.control]
  · rw [g.clock, h.clock]
  · rw [g.lanes, h.lanes]
  · rw [g.units, h.units]
  · rw [g.locks, h.locks]
  · rw [g.tables, h.tables]
  · rw [g.holds, h.holds]
  · rw [g.journal, h.journal]
  · rw [g.notices, h.notices]
  · rw [g.link, h.link]
  · exact fun w => g.memWf (h.memWf w)
  · intro x hx
    rw [g.memory x (by rw [h.control]; exact hx), h.memory x hx]
  · rw [g.store, h.store]
  · exact fun j => (g.cards j).trans (h.cards j)
  · exact fun j => (g.tills j).trans (h.tills j)
  · exact fun j => (g.holdRows j).trans (h.holdRows j)
  · exact fun j => (g.linkWords j).trans (h.linkWords j)
  · exact fun j => (g.trail j).trans (h.trail j)
  · exact g.header.trans h.header
  · exact fun w => g.cardsWf (h.cardsWf w)
  · exact fun w => g.tillsWf (h.tillsWf w)
  · exact fun w => g.holdsWf (h.holdsWf w)
  · exact fun w => g.linksWf (h.linksWf w)
  · exact fun w => g.trailWf (h.trailWf w)
  · exact fun x hx => g.listed x (h.listed x hx)
  · exact fun w => g.quarantine (h.quarantine w)

/-! ### The list and the notices -/

theorem raiseCause_observed (c : Cause) (s : State) : Observed s (raiseCause c s) := by
  obtain ⟨n, h, -⟩ := raiseCause_only c s
  rw [h]
  constructor <;> first | exact fun h => h | exact fun _ h => h | (intros; rfl)

/-- A list that grows only by rows not in it, and not past 64, stays one without duplicates (R135). -/
theorem Joined.quarantineOk {k : RowKind} {i : Nat} {s t : State} (h : Joined k i s t.store.quarantine) (hs : s.quarantineOk) :
    t.quarantineOk := by
  obtain ⟨h1, h2⟩ := hs
  unfold State.quarantineOk
  rcases h.grown with h | ⟨hl, hlen, m, h⟩
  · rw [h]
    exact ⟨h1, h2⟩
  · rw [h]
    refine ⟨by simp only [List.length_append, List.length_singleton]; omega, ?_⟩
    rw [List.map_append, List.nodup_append]
    refine ⟨h2, by simp, ?_⟩
    intro a ha b hb hab
    subst hab
    simp only [List.map_cons, List.map_nil, List.mem_singleton] at hb
    subst hb
    obtain ⟨q, hq, he⟩ := List.mem_map.mp ha
    simp only [Prod.mk.injEq] at he
    have : s.isListed k i = true := by
      simp only [State.isListed, List.any_eq_true]
      exact ⟨q, hq, by simp [he]⟩
    rw [this] at hl
    simp at hl

theorem quarantineJoin_observed (k : RowKind) (i : Nat) (s : State) : Observed s (quarantineJoin k i s) := by
  obtain ⟨m, n, r, q, o, h, hj, hw, hm⟩ := quarantineJoin_only k i s
  rw [h]
  constructor
  case memWf => exact hw
  case memory => exact hm
  case listed => exact hj.kept
  case quarantine => exact fun hs => Joined.quarantineOk (s := s) (k := k) (i := i) hj hs
  all_goals first | exact fun h => h | (intros; rfl)

/-! ### ECC reads -/

/-- A card row written back as it was read, its error state corrected. -/
theorem putCard_val_observed (s : State) (i : Nat) : Observed s (s.putCard i (s.card i).val) := by
  constructor
  case cards =>
    intro j
    by_cases h : j = i
    · subst h
      simp [State.card, State.putCard, State.putCardStored]
    · simp [State.card, State.putCard, State.putCardStored, Sparse.get_set_other _ _ _ h]
  case cardsWf => exact fun h => Sparse.wf_set _ _ _ _ h
  all_goals first | exact fun h => h | exact fun _ h => h | (intros; rfl)

/-- A till row written back as it was read, its error state corrected. -/
theorem putTill_val_observed (s : State) (i : Nat) : Observed s (s.putTill i (s.tillRow i).val) := by
  constructor
  case tills =>
    intro j
    by_cases h : j = i
    · subst h
      simp [State.tillRow, State.putTill, State.putTillStored]
    · simp [State.tillRow, State.putTill, State.putTillStored, Sparse.get_set_other _ _ _ h]
  case tillsWf => exact fun h => Sparse.wf_set _ _ _ _ h
  all_goals first | exact fun h => h | exact fun _ h => h | (intros; rfl)

/-- A hold row written back as it was read, its error state corrected. -/
theorem putHold_val_observed (s : State) (i : Nat) : Observed s (s.putHold i (s.hold i).val) := by
  constructor
  case holdRows =>
    intro j
    by_cases h : j = i
    · subst h
      simp [State.hold, State.putHold, State.putHoldStored]
    · simp [State.hold, State.putHold, State.putHoldStored, Sparse.get_set_other _ _ _ h]
  case holdsWf => exact fun h => Sparse.wf_set _ _ _ _ h
  all_goals first | exact fun h => h | exact fun _ h => h | (intros; rfl)

theorem readCard_observed (s : State) (i : Nat) : Observed s (readCard s i).1 := by
  unfold readCard
  split
  · exact .refl s
  · exact putCard_val_observed s i
  · exact quarantineJoin_observed .card i s

theorem readTill_observed (s : State) (i : Nat) : Observed s (readTill s i).1 := by
  unfold readTill
  split
  · exact .refl s
  · split
    · exact .refl s
    · exact putTill_val_observed s i
    · exact quarantineJoin_observed .till i s

theorem readHold_observed (s : State) (i : Nat) : Observed s (readHold s i).1 := by
  unfold readHold
  split
  · exact .refl s
  · split
    · exact .refl s
    · exact putHold_val_observed s i
    · exact quarantineJoin_observed .hold i s

/-- A read that gives data gives the row's contents. -/
theorem readCard_value {s : State} {i : Nat} {row : CardRow} (h : (readCard s i).2 = some row) : row = (s.card i).val := by
  unfold readCard at h
  split at h <;> simp_all

theorem readTill_value {s : State} {i : Nat} {row : TillRow} (h : (readTill s i).2 = some row) : row = (s.tillRow i).val := by
  unfold readTill at h
  split at h
  · simp at h
  · split at h <;> simp_all

theorem readHold_value {s : State} {i : Nat} {row : HoldRow} (h : (readHold s i).2 = some row) : row = (s.hold i).val := by
  unfold readHold at h
  split at h
  · simp at h
  · split at h <;> simp_all

/-! ### Link words, the header, the trail -/

theorem putLinkStored_observed (s : State) (i : Nat) (v : StoredLink) (h : v.word = (s.linkWord i).word) :
    Observed s (s.putLinkStored i v) := by
  constructor
  case linkWords =>
    intro j
    by_cases hj : j = i
    · subst hj
      simp only [State.linkWord, State.putLinkStored, State.setStore_store, Sparse.get_set_same] at h ⊢
      exact h
    · simp only [State.linkWord, State.putLinkStored, State.setStore_store, Sparse.get_set_other _ _ _ hj]
  case linksWf => exact fun h => Sparse.wf_set _ _ _ _ h
  all_goals first | exact fun h => h | exact fun _ h => h | (intros; rfl)

theorem readLink_observed (s : State) (i : Nat) : Observed s (readLink s i).1 := by
  unfold readLink
  dsimp only
  split
  · exact .refl s
  · exact putLinkStored_observed s i _ rfl
  · exact .refl s
  · exact putLinkStored_observed s i _ rfl

theorem stepAlong_observed (s : State) (i : Nat) : Observed s (stepAlong s i).1 := by
  unfold stepAlong
  have h := readLink_observed s i
  split <;> simp_all

/-- The claim search reads rows and link words alone (R79). -/
theorem claimSearch_observed (n : Nat) (cur : Option Nat) (s : State) : Observed s (claimSearch n cur s).1 := by
  induction n generalizing cur s with
  | zero => exact .refl s
  | succ n ih =>
    cases cur with
    | none => exact .refl s
    | some i =>
      unfold claimSearch
      have h1 : Observed s (if s.isListed .hold i || s.isClaimed i then (s, (none : Option HoldRow)) else readHold s i).1 := by
        split
        · exact .refl s
        · exact readHold_observed s i
      generalize (if s.isListed .hold i || s.isClaimed i then (s, (none : Option HoldRow)) else readHold s i) = a at h1 ⊢
      obtain ⟨t, row⟩ := a
      dsimp only
      split
      · exact h1
      · have h2 := stepAlong_observed t i
        split
        · next u hu => rw [hu] at h2; exact h1.trans h2
        · next u nxt hu => rw [hu] at h2; exact (h1.trans h2).trans (ih nxt u)

/-- The handout search reads rows and link words alone (R87). -/
theorem dueSearch_observed (n : Nat) (cur : Option Nat) (s : State) : Observed s (dueSearch n cur s).1 := by
  induction n generalizing cur s with
  | zero => exact .refl s
  | succ n ih =>
    cases cur with
    | none => exact .refl s
    | some i =>
      unfold dueSearch
      have h1 : Observed s (if s.inHand i || s.isListed .hold i then (s, (none : Option HoldRow)) else readHold s i).1 := by
        split
        · exact .refl s
        · exact readHold_observed s i
      generalize (if s.inHand i || s.isListed .hold i then (s, (none : Option HoldRow)) else readHold s i) = a at h1 ⊢
      obtain ⟨t, row⟩ := a
      dsimp only
      split
      · exact h1
      · have h2 := stepAlong_observed t i
        split
        · next u hu => rw [hu] at h2; exact h1.trans h2
        · next u nxt hu => rw [hu] at h2; exact (h1.trans h2).trans (ih nxt u)

/-- A link word that reads lets a search go on (R137). -/
theorem stepAlong_linkRead {i : Nat} {n : Option Nat} {s t : State} (h : LinkRead i n s t) : stepAlong s i = (t, some n) := by
  obtain ⟨rfl, ⟨h1, rfl⟩ | ⟨h1, rfl⟩ | ⟨h1, h2, rfl⟩⟩ := h
  · simp [stepAlong, readLink, h1]
  · simp [stepAlong, readLink, h1]
  · cases h3 : (s.linkWord i).two.outcome <;> simp_all [stepAlong, readLink, writeLink]

/-- A hold row that gives its content (R132, R133). -/
theorem readHold_holdRead {i : Nat} {h : HoldRow} {s t : State} (hr : HoldRead i h s t) : readHold s i = (t, some h) := by
  obtain ⟨h1, rfl, ⟨h2, rfl⟩ | ⟨h2, rfl⟩⟩ := hr
  · simp [readHold, h1, h2]
  · simp [readHold, h1, h2]

/-- A hold row that gives no data (R83, R134). -/
theorem readHold_holdUnread {i : Nat} {s t : State} (h : HoldUnread i s t) : readHold s i = (t, none) := by
  obtain ⟨h1, rfl⟩ | ⟨h1, h2, rfl⟩ := h
  · simp [readHold, h1]
  · simp [readHold, h1, h2]

/-- A claim search that passes over some rows goes on behind them (R79). -/
theorem claimSearch_passed {c d : Option Nat} {js : List Nat} {s t : State} (h : RowsPassed ClaimPassed c js d s t) (n : Nat)
    (hn : js.length ≤ n) : claimSearch n c s = claimSearch (n - js.length) d t := by
  induction h generalizing n with
  | here => simp
  | on i _ js _ s u v _ hp hl _ ih =>
    obtain ⟨n, rfl⟩ : ∃ m, n = m + 1 := ⟨n - 1, by simp at hn; omega⟩
    have hrow : (if s.isListed .hold i || s.isClaimed i then (s, none) else readHold s i) = (u, none) := by
      obtain ⟨h1, rfl⟩ | ⟨h1, h2⟩ := hp
      · simp [h1]
      · have := readHold_holdUnread h2
        cases hi : s.isListed .hold i
        · simpa [h1] using this
        · simpa [hi, readHold] using this
    rw [claimSearch]
    simp only [hrow, stepAlong_linkRead hl]
    rw [ih n (by simpa using hn)]
    simp

/-- A handout search that passes over some rows goes on behind them (R87). -/
theorem dueSearch_passed {c d : Option Nat} {js : List Nat} {s t : State} (h : RowsPassed DuePassed c js d s t) (n : Nat)
    (hn : js.length ≤ n) : dueSearch n c s = dueSearch (n - js.length) d t := by
  induction h generalizing n with
  | here => simp
  | on i _ js _ s u v _ hp hl _ ih =>
    obtain ⟨n, rfl⟩ : ∃ m, n = m + 1 := ⟨n - 1, by simp at hn; omega⟩
    have hrow : ∃ r, (if s.inHand i || s.isListed .hold i then (s, none) else readHold s i) = (u, r) ∧
        r.filter (fun h => !u.isListed .card h.card) = none := by
      obtain ⟨h1, rfl⟩ | ⟨h1, h2 | ⟨h, h2, h3⟩⟩ := hp
      · exact ⟨none, by simp [h1], rfl⟩
      · refine ⟨none, ?_, rfl⟩
        have := readHold_holdUnread h2
        cases hi : s.isListed .hold i
        · simpa [h1] using this
        · simpa [hi, readHold] using this
      · refine ⟨some h, by simpa [h1, h2.1] using readHold_holdRead h2, ?_⟩
        obtain ⟨-, -, ⟨-, rfl⟩ | ⟨-, rfl⟩⟩ := h2
        · simp [h3]
        · have : (s.putHold i h).isListed .card h.card = true := h3
          simp [this]
    obtain ⟨r, h1, h2⟩ := hrow
    rw [dueSearch]
    simp only [h1, h2, stepAlong_linkRead hl]
    rw [ih n (by simpa using hn)]
    simp

theorem claimRow_observed (s : State) : Observed s (claimRow s).1 := by
  unfold claimRow
  split
  · exact .refl s
  · exact claimSearch_observed _ _ s

theorem findHold_observed (ref : HoldRef) (c : CardRow) (now : Nat) (s : State) : Observed s (findHold ref c now s).1 := by
  unfold findHold
  split
  · exact .refl s
  · next r _ =>
    have h := readHold_observed s r.index
    split <;> simp_all

theorem freeRefs_observed (rs : List CardRef) (s : State) : Observed s (freeRefs rs s).1 := by
  induction rs generalizing s with
  | nil => exact .refl s
  | cons r rs ih => exact (readHold_observed s r.index).trans (ih _)

theorem refHolds_observed (card : Nat) (r : CardRef) (s : State) : Observed s (refHolds card r s).1 := by
  unfold refHolds
  have h := readHold_observed s r.index
  split <;> simp_all

theorem refsHold_observed (card : Nat) (rs : List CardRef) (s : State) : Observed s (refsHold card rs s).1 := by
  induction rs generalizing s with
  | nil => exact .refl s
  | cons r rs ih =>
    unfold refsHold
    split
    · exact .refl s
    · have h := refHolds_observed card r s
      split
      · next t ht => rw [ht] at h; exact h
      · next t ht => rw [ht] at h; exact h.trans (ih t)

theorem readHeader_observed (s : State) : Observed s (readHeader s).1 := by
  unfold readHeader
  dsimp only
  split
  · exact .refl s
  · constructor <;> first | exact fun h => h | exact fun _ h => h | (intros; rfl)
  · exact raiseCause_observed _ s
  · constructor <;> first | exact fun h => h | exact fun _ h => h | (intros; rfl)

theorem readTrail_observed (s : State) (k : Nat) : Observed s (readTrail s k) := by
  unfold readTrail
  dsimp only
  split
  · constructor
    case trail =>
      intro j
      by_cases hj : j = k
      · subst hj
        simp [State.trailCell]
      · simp only [State.trailCell, State.setStore_store, Sparse.get_set_other _ _ _ hj]
    case trailWf => exact fun h => Sparse.wf_set _ _ _ _ h
    all_goals first | exact fun h => h | exact fun _ h => h | (intros; rfl)
  · exact .refl s

end Sys2Proof.Machine
end

