-- ==== Sys2Proof/Tests/Slice0.lean ====
section
/-! SUPPORT. The model's own tests: ill-formed commands that are refused, one step of each command against the manual's worked cases
and rules, and for each statement that has hypotheses a state that meets them. -/

namespace Sys2Proof.Tests

set_option Elab.async false

open Sys2Proof Sys2Proof.Machine

/-! ### Builders -/

/-- A directory with one TILL lane and one OFFICE lane. -/
def till0 : LaneEntry :=
  { base := 0x10000, slotCount := 16, kind := 1, priority := 0, lookInterval := 100, embed := 0x6A, threshold := 1, holdTime := 500
    startPosition := 0, startMode := 1 }
/-- The OFFICE lane. -/
def office1 : LaneEntry := { till0 with base := 0x20000, kind := 2, embed := 0 }
/-- The directory in force in the tests. -/
def dir : Directory :=
  { partition := 15, clockTake := 1, recovery := 1, startDay := 20105, startMinute := 600, arbitration := 1, enable := 31, laneCount := 2
    mark := 1000, journalBase := 0x100000, journalCount := 1024, engineWords := 0x200000, hostWords := 0x300000, lanes := [till0, office1] }

/-- Bytes of host memory from an address. -/
def cells (a : Nat) (bs : List Byte) : List Host.Cell := memWrite [] a bs

/-- Digits packed two to a byte; an odd last digit stands in the high nibble. -/
def packD : List Nat → List Byte
  | a :: b :: r => BitVec.ofNat 8 (16 * a + b) :: packD r
  | [a] => [BitVec.ofNat 8 (16 * a)]
  | [] => []

/-- The worked case of 2.1: prefix 60012345, serial 123, check digit 7. -/
def card : List Nat := [6, 0, 0, 1, 2, 3, 4, 5, 0, 0, 0, 0, 0, 0, 0, 1, 2, 3, 7]

/-- The fields of a request half. -/
structure Ask where
  kind : Nat
  action : Nat := 0
  till : Nat := 0
  seq : Nat := 0
  id : List Nat := [0, 0, 0, 0, 0, 0]
  card : List Nat := List.replicate 19 0
  code : List Byte := [0, 0]
  amount : Nat := 0
  hold : Nat × Nat := (0, 0)
  target : Nat := 0
  addr : Nat := 0
  params : List Byte := []

/-- Its 64 bytes, POSTED (11.3). -/
def Ask.half (r : Ask) : List Byte :=
  padTo 64 (leBytes 1 1 ++ leBytes 1 0 ++ leBytes 1 r.kind ++ leBytes 1 r.action ++ leBytes 2 r.till ++ leBytes 2 r.seq ++ packD r.id ++ [0] ++
    packD r.card ++ r.code ++ leBytes 4 r.amount ++ leBytes 4 r.hold.1 ++ leBytes 1 r.hold.2 ++ [0] ++ leBytes 2 r.target ++
    leBytes 8 r.addr ++ r.params)

/-- A till request of till 7 on the card. -/
def tillAsk (kind seq amount : Nat) : Ask :=
  { kind := kind, till := 7, seq := seq, id := [1, 2, 3, 4, 5, 6], card := card, code := [0xFF, 0xFF], amount := amount }
/-- An office request on the card. -/
def officeAsk (kind action : Nat) : Ask := { kind := kind, action := action, card := card, code := [0xFF, 0xFF] }

/-- A request at step 1 on a TILL lane, with pool place 0 and room for 3 entries. -/
def onTill (r : Ask) : Work := { task := .request 0 3 till0 r.half, place := 0, room := 3 }
/-- A request at step 1 on an OFFICE lane. -/
def onOffice (r : Ask) : Work := { task := .request 1 3 office1 r.half, place := 0, room := 3 }

/-- Rule 0 matches every prefix and names programme 2. -/
def rule : Rule := { enabled := true, programme := 2, kinds := 511, label := 310 }
/-- The programme of the lunch service of 3.7. -/
def lunch : Programme :=
  { enabled := true, rowBase := 0, rowCount := 1000, cap := 50000, activationMin := 1, partialAllowed := true, triesLimit := 3, window := 60, tipTolerance := 20
    holdLife := 90, renewalLimit := 1, holdsPerCard := 4, bonusRate := 100, bonusThreshold := 2000, bonusCap := 1000, bonusLife := 90, kinds := 511 }
/-- What selection gives for a programme. -/
def sel (p : Programme) : Selection := { rule := rule, programmeNo := 2, programme := p }

/-- A PAID lot. -/
def paid (a : Nat) : Lot := { expiry := none, amount := a }
/-- A BONUS lot. -/
def bonus (d a : Nat) : Lot := { expiry := some d, amount := a }
/-- An ACTIVE card of programme 2. -/
def active (ls : List Lot) : CardRow := { state := .active, programme := 2, lots := ls }
/-- Till 7, id 123456, in good standing. -/
def till7 : TillRow := { registered := true, storeNo := 1234, tillNo := 56 }

/-- The part in RUNNING on day 20,105, minute 600, with card row 123, till row 7 and work on worker 0. -/
def sit (k : Work) (row : CardRow) (t : TillRow) (p : Programme) : State :=
  { State.reset with
    control := { engine := .running, directory := some dir, engineWords := some 0x200000 }
    clock := { day := 20105, minute := 600, set := true }
    lanes := { lane := [(0, { isOpen := true, lookTimer := some 100 }), (1, { isOpen := true, lookTimer := some 100 })], lastServed := some 1 }
    units := { workers := [(0, some k)], places := [0] }
    tables := { rules := [(0, rule)], programmes := [(2, p)] }
    store :=
      { cards := [(123, { val := row, ecc := .clean })], tills := [(7, { val := t, ecc := .clean })]
        links := [(0, { word := { prev := none } }), (33554431, { word := { next := none } })]
        header := { header := { partition := some 15 } } }
    holds := { free := { head := some 0, tail := some 33554431, count := 33554432 }, sweep := some 28951800 }
    journal := { next := some 500, reserved := 3 } }

/-- The part with no work in it. -/
def quietPart : State := { sit (onTill (tillAsk 1 300 0)) (active []) till7 lunch with units := {}, journal := { next := some 500 } }

/-- An outside world that did nothing. -/
def q : Outside := .quiet

/-- The next state of a command. -/
def after (c : Instr) (s : State) : Option State := match exec c s with | .next t => some t | _ => none

/-- The answer handed last: result, reason, flags, approved, available, held, bonus. -/
def answer (s : State) : Option (List Nat) :=
  s.notices.answers.getLast?.map (fun a => [fieldAt a.half 0 1, fieldAt a.half 1 1, fieldAt a.half 2 2, fieldAt a.half 4 4, fieldAt a.half 8 4,
    fieldAt a.half 12 4, fieldAt a.half 16 4])

/-- Two wrong bits in one code word. -/
def lostBits : BitErrors := { bits := [(0, 0), (0, 1)] }

/-! ### Ill-formed commands -/

theorem test_wf_worker : Instr.wf (.workerDispatch 8 q) = false ∧ Instr.wf (.workerDispatch 7 q) = true := by decide
theorem test_wf_lane : Instr.wf (.answerWrite 64 q) = false ∧ Instr.wf (.answerWrite 63 q) = true := by decide
theorem test_wf_control : Instr.wf (.controlUnknownCommand 2 q) = false ∧ Instr.wf (.controlUnknownCommand 4 q) = true := by decide
theorem test_wf_register : Instr.wf (.registerWrite 0 [] q) = false ∧ Instr.wf (.registerWrite 0 [1] q) = true := by decide
theorem test_wf_nudge : Instr.wf (.nudge 255 q) = false ∧ Instr.wf (.nudge 254 q) = true := by decide
theorem test_wf_noticeRead : Instr.wf (.noticeRead 0 q) = false ∧ Instr.wf (.noticeRead 8 q) = true := by decide
theorem test_wf_outside_writes : Instr.wf (.start { writes := [(2 ^ 64, 1)] }) = false ∧ Instr.wf (.start { writes := [(2 ^ 64 - 1, 1)] }) = true := by
  decide
theorem test_wf_outside_ranges :
    Instr.wf (.start { readsFail := some [(2 ^ 64, 1)] }) = false ∧ Instr.wf (.start { writesFail := some [(2 ^ 64, 1)] }) = false := by decide
/-- A start with one bit changed. -/
def flipped (u : StoreUnit) (w b : Nat) : Instr := .start { flips := [{ unit := u, word := w, bit := b }] }
theorem test_wf_outside_units :
    Instr.wf (flipped (.cardRow 16777216) 0 0) = false ∧ Instr.wf (flipped (.tillRow 32768) 0 0) = false ∧
    Instr.wf (flipped (.holdContent 65011712) 0 0) = false ∧ Instr.wf (flipped (.linkCopyOne 65011712) 0 0) = false ∧
    Instr.wf (flipped (.linkCopyTwo 65011712) 0 0) = false ∧ Instr.wf (flipped (.trailEntry 32) 0 0) = false ∧
    Instr.wf (flipped .headerCopyOne 255 71) = true ∧ Instr.wf (flipped (.trailEntry 31) 63 71) = true := by decide
/-- R132: a card row has 16 code words, a hold row's content 6, a link word's copy 1; a code word has 72 bits. -/
theorem test_wf_outside_bits :
    Instr.wf (flipped (.cardRow 0) 16 0) = false ∧ Instr.wf (flipped (.cardRow 0) 15 0) = true ∧ Instr.wf (flipped (.holdContent 0) 6 0) = false ∧
    Instr.wf (flipped (.linkCopyOne 0) 1 0) = false ∧ Instr.wf (flipped (.cardRow 0) 0 72) = false := by decide

/-! ### Card numbers and lots: the worked cases of 2.1 and 1.5 -/

/-- 2.1: check digit 8 sums to 61 and fails, 7 passes. -/
theorem test_check_digit : checkDigitOk (card.take 18 ++ [8]) = false ∧ checkDigitOk card = true ∧ weightedSum (card.take 18 ++ [8]) = 61 := by
  decide +kernel
/-- 1.5: REDEEM 1,000 draws two bonus lots and part of the paid lot. -/
theorem test_draw : drawLots 1000 [bonus 20230 250, bonus 20260 600, paid 1000] = ([bonus 20230 250, bonus 20260 600, paid 150], [paid 850]) := by
  decide +kernel
/-- 1.5: BONUS_GRANT 300 and the REVERSE that follows; the restored sum is all that was placed in lots, 1,000 (log 42). -/
theorem test_grant_and_restore :
    addBonus 300 20260 [paid 850] = some [bonus 20260 300, paid 850] ∧
    restoreParts 20200 [bonus 20230 250, bonus 20260 600, paid 150] [bonus 20260 300, paid 850] =
      { lots := [bonus 20230 250, bonus 20260 900, paid 1000], restored := 1000 } := by decide +kernel
/-- 1.5: restoring into a full list. -/
theorem test_restore_full :
    restoreParts 20300 [bonus 20305 100, bonus 20310 50]
      [bonus 20310 50, bonus 20320 100, bonus 20330 100, bonus 20340 100, bonus 20390 100, paid 1500] =
    { lots := [bonus 20310 200, bonus 20320 100, bonus 20330 100, bonus 20340 100, bonus 20390 100, paid 1500], restored := 150 } := by decide +kernel

/-! ### The till kinds: the worked cases of 1.5, 1.7, 3.4, 3.6, 3.7, 3.8, 5.4, 5.5 -/

/-- What a command left of the card: the answer, the lots, the held total. -/
def left (c : Instr) (s : State) : Option (Option (List Nat) × List Lot × Nat) :=
  (after c s).map (fun t => (answer t, (t.card 123).val.lots, (t.card 123).val.held))
/-- The entries a command queued: kinds and words. -/
def entered (c : Instr) (s : State) : Option (List (JournalKind × List Nat)) :=
  (after c s).map (fun t => t.journal.queue.map (fun x => (x.entry.kind, x.entry.words)))

/-- The lots before the lunch service of 3.7. -/
def lunchLots : List Lot := [bonus 20110 300, bonus 20140 500, paid 2700]
/-- The card before the lunch service: one hold of 1,200 on hold row 9. -/
def lunchCard : CardRow := { active lunchLots with refs := [{ index := 9, gen := 4, amount := 1200 }], held := 1200 }
/-- Its hold row. -/
def hold9 : HoldRow := { isOpen := true, gen := 4, card := 123, till := 7, seq := 301, amount := 1200, deadline := 28951850 }
/-- A state with that hold row stored, filed in the bucket of its deadline. -/
def withHold (s : State) : State := fileRow 9 28951850 (s.putHold 9 hold9)
/-- The programme of 3.4. -/
def capped : Programme :=
  { lunch with cap := 10000, activationMin := 1000, bonusRate := 200, bonusThreshold := 1000, bonusCap := 5000, bonusLife := 30 }
/-- An ISSUED card. -/
def issued : CardRow := { state := .issued, programme := 2 }

/-- 1.5: BALANCE leaves lapsed lots out of its figures and in the row. -/
theorem test_balance :
    left (.balance 0 q) (sit (onTill (tillAsk 1 300 0)) (active [bonus 20090 400, bonus 20230 250, bonus 20260 600, paid 1000]) till7 lunch) =
      some (some [1, 0, 0, 0, 1850, 0, 0], [bonus 20090 400, bonus 20230 250, bonus 20260 600, paid 1000], 0) := by decide +kernel
/-- 1.7: a BALANCE with a wrong code. -/
theorem test_balance_wrong_code :
    (after (.balance 0 q) (sit (onTill { tillAsk 1 300 0 with code := [0x11, 0x11] }) { active [] with code := some 4716 } till7
      { lunch with codePolicy := .always })).map (fun t => (answer t, (t.card 123).val.tries, (t.tillRow 7).val.score)) =
    some (some [3, 18, 0, 0, 0, 0, 0], 1, 8) := by decide +kernel
/-- 3.4: ACTIVATE 500 and ACTIVATE 6,000. -/
theorem test_activate :
    left (.activate 0 q) (sit (onTill (tillAsk 2 300 500)) issued till7 capped) = some (some [3, 19, 0, 0, 0, 0, 0], [], 0) ∧
    left (.activate 0 q) (sit (onTill (tillAsk 2 300 6000)) issued till7 capped) =
      some (some [1, 0, 0, 6000, 7200, 0, 1200], [bonus 20135 1200, paid 6000], 0) := by decide +kernel
theorem test_activate_entries :
    entered (.activate 0 q) (sit (onTill (tillAsk 2 300 6000)) issued till7 capped) =
      some [(.activate, [6000]), (.bonus, [1200, 20135])] := by decide +kernel
/-- 3.4: LOAD 2,500 is clamped, LOAD 100 is above the cap. -/
theorem test_load_at_the_cap :
    left (.load 0 q) (sit (onTill (tillAsk 3 300 2500)) (active [bonus 20135 1200, paid 6000]) till7 capped) =
      some (some [1, 0, 4, 2500, 10000, 0, 300], [bonus 20135 1500, paid 8500], 0) ∧
    left (.load 0 q) (sit (onTill (tillAsk 3 300 100)) (active [bonus 20135 1500, paid 8500]) till7 capped) =
      some (some [3, 22, 0, 0, 10000, 0, 0], [bonus 20135 1500, paid 8500], 0) := by decide +kernel
/-- 3.7, sequence 312. -/
theorem test_load_lunch :
    left (.load 0 q) (sit (onTill (tillAsk 3 312 2500)) (active [paid 120]) till7 lunch) =
      some (some [1, 0, 0, 2500, 2870, 0, 250], [bonus 20195 250, paid 2620], 0) := by decide +kernel
/-- 3.7, sequence 310. -/
theorem test_redeem_lunch :
    left (.redeem 0 q) (sit (onTill (tillAsk 4 310 2000)) lunchCard till7 lunch) =
      some (some [1, 0, 0, 2000, 300, 1200, 0], [paid 1500], 1200) := by decide +kernel
/-- 1.8: a REDEEM at minute 720 rolls the window of 60 minutes and counts 1. -/
theorem test_redeem_rolls_the_window :
    (after (.redeem 0 q) { sit (onTill (tillAsk 4 310 300)) { active [paid 1000] with windowIndex := 482531, windowCount := 3 } till7
        { lunch with velocityLimit := 3 } with clock := { day := 20105, minute := 720, set := true } }).map
      (fun t => ((t.card 123).val.windowIndex, (t.card 123).val.windowCount)) = some (482532, 1) := by decide +kernel
/-- R56: the free chain's head is claimed, opened and filed. -/
theorem test_hold_open :
    (after (.holdOpen 0 q) (sit (onTill (tillAsk 5 301 1200)) (active lunchLots) till7 lunch)).map
      (fun t => (answer t, (t.card 123).val.held, (t.hold 0).val.deadline, t.holds.free.head, (t.chain (.bucket 1362)).head)) =
    some (some [1, 0, 0, 1200, 2300, 1200, 0], 1200, 28951890, some 1, some 0) := by decide +kernel
/-- R57: a renewal moves the deadline and the row. -/
theorem test_hold_renew :
    (after (.holdRenew 0 q) (withHold (sit (onTill { tillAsk 6 302 0 with hold := (9, 4) }) lunchCard till7 lunch))).map
      (fun t => (answer t, (t.hold 9).val.deadline, (t.hold 9).val.renewals, (t.chain (.bucket 1322)).count, (t.chain (.bucket 1362)).count)) =
    some (some [1, 0, 0, 0, 2300, 1200, 0], 28951890, 1, 0, 1) := by decide +kernel
/-- 3.7, sequence 311. -/
theorem test_hold_close_lunch :
    left (.holdClose 0 q) (withHold (sit (onTill { tillAsk 7 311 1380 with hold := (9, 4) }) { lunchCard with lots := [paid 1500] } till7 lunch)) =
      some (some [1, 0, 0, 1380, 120, 0, 0], [paid 120], 0) := by decide +kernel
/-- 3.6: hold B of 300 cannot be captured under hold A; hold A of 600 is captured in part. -/
theorem test_hold_close_after_lapse :
    (let two : CardRow := { active [bonus 20104 800, paid 400] with
      refs := [{ index := 9, gen := 4, amount := 600 }, { index := 10, gen := 0, amount := 300 }], held := 900 }
    let s := fun (r : Nat × Nat) (f : Nat) => (withHold (sit (onTill { tillAsk 7 311 f with hold := r }) two till7 lunch)).putHold 10
      { hold9 with gen := 0, amount := 300 }
    left (.holdClose 0 q) (s (10, 0) 350) = some (some [3, 21, 0, 0, 0, 900, 0], [paid 400], 900) ∧
    left (.holdClose 0 q) (s (9, 4) 700) = some (some [2, 0, 0, 100, 0, 300, 0], [paid 300], 300)) := by decide +kernel
/-- R60, R82: the row is freed with the next generation, at the free chain's tail. -/
theorem test_hold_cancel :
    (after (.holdCancel 0 q) (withHold (sit (onTill { tillAsk 8 303 0 with hold := (9, 4) }) lunchCard till7 lunch))).map
      (fun t => (answer t, (t.card 123).val.refs, (t.hold 9).val.isOpen, (t.hold 9).val.gen, t.holds.free.tail)) =
    some (some [1, 0, 0, 1200, 3500, 0, 0], [], false, 5, some 9) := by decide +kernel
/-- The recent entry of a LOAD of 1,000 with bonus 100. -/
def loaded : RecentEntry :=
  { seq := 41, state := .answered, kind := some .load, digits := card, cardRow := some 123, requested := some 1000, result := some .approved
    reason := some .none, approved := some 1000, flags := {}, movement := some 70, ref := none, parts := [bonus 20560 100] }
/-- 3.8: a load already spent is taken back in part. -/
theorem test_reverse_spent_load :
    left (.reverse 0 q) (sit (onTill { tillAsk 9 43 0 with target := 41 }) (active [paid 150]) { till7 with recent := [loaded] } lunch) =
      some (some [2, 0, 0, 150, 0, 0, 0], [], 0) ∧
    entered (.reverse 0 q) (sit (onTill { tillAsk 9 43 0 with target := 41 }) (active [paid 150]) { till7 with recent := [loaded] } lunch) =
      some [(.reversal, [41, 3, 1000, 100, 150, 0])] := by decide +kernel
/-- 5.5, event 1: a REVERSE ahead of its original. -/
theorem test_reverse_ahead :
    (after (.reverse 0 q) (sit (onTill { tillAsk 9 508 0 with target := 510 }) (active [paid 150])
        { till7 with recent := [501, 502, 503, 504, 505, 506, 507].map (fun n => { loaded with seq := n }) } lunch)).map
      (fun t => (answer t, (t.tillRow 7).val.recent.map (fun e => (e.seq, decide (e.state = .reversedAhead))))) =
    some (some [3, 8, 0, 0, 150, 0, 0],
      [(502, false), (503, false), (504, false), (505, false), (506, false), (507, false), (510, true), (508, false)]) := by decide +kernel
/-- 5.4: the bar and its recovery after 130 minutes of silence. -/
theorem test_bar_and_recovery :
    (({ till7 with score := 252, standing := .restricted } : TillRow).scored .declined .notActive false).standing = .barred ∧
    (({ till7 with score := 255, standing := .barred, barred := true, lastMinute := some 900 } : TillRow).atSecondReading 1 1030).standing = .good ∧
    (({ till7 with score := 255, standing := .barred, barred := true, lastMinute := some 840 } : TillRow).atSecondReading 1 900).standing = .barred := by
  decide

/-! ### The office kinds -/

/-- 1.7: an UNLOCK sets tries to 0; the other two actions (R66). -/
theorem test_card_status_unlock :
    (after (.cardStatusUnlock 0 q) (sit (onOffice (officeAsk 18 3)) { active [] with state := .locked, tries := 3 } till7 lunch)).map
      (fun t => ((answer t).map (·.take 2), (t.card 123).val.state, (t.card 123).val.tries)) = some (some [1, 0], .active, 0) := by decide +kernel
theorem test_card_status_suspend :
    (after (.cardStatusSuspend 0 q) (sit (onOffice (officeAsk 18 1)) (active []) till7 lunch)).map
      (fun t => ((answer t).map (·.take 2), (t.card 123).val.state)) = some (some [1, 0], .suspended) := by decide +kernel
theorem test_card_status_resume :
    (after (.cardStatusResume 0 q) (sit (onOffice (officeAsk 18 2)) (active []) till7 lunch)).map
      (fun t => ((answer t).map (·.take 2), (t.card 123).val.state)) = some (some [3, 31], .active) := by decide +kernel
/-- R67: CLOSE frees the hold's row and reports the balance it removed. -/
theorem test_card_status_close :
    (after (.cardStatusClose 0 q) (withHold (sit (onOffice (officeAsk 18 4)) lunchCard till7 lunch))).map
      (fun t => (answer t, (t.card 123).val.state, (t.card 123).val.refs, t.holds.free.tail)) =
    some (some [1, 0, 0, 3500, 0, 0, 0], .closed, [], some 9) := by decide +kernel
/-- R68: a grant on a day before today is out of range; 1.5's grant stands before the paid lot. -/
theorem test_bonus_grant :
    left (.bonusGrant 0 q) (sit (onOffice { officeAsk 19 0 with amount := 300, params := leBytes 2 20104 }) (active [paid 850]) till7 lunch) =
      some (some [3, 31, 0, 0, 850, 0, 0], [paid 850], 0) ∧
    left (.bonusGrant 0 q) (sit (onOffice { officeAsk 19 0 with amount := 300, params := leBytes 2 20260 }) (active [paid 850]) till7 lunch) =
      some (some [1, 0, 0, 0, 1150, 0, 300], [bonus 20260 300, paid 850], 0) := by decide +kernel
/-- A card image written out from 11.4: ISSUED, programme 2, code 1234. -/
def image : List Byte := [1, 2, 0x12, 0x34, 0, 0, 0, 0] ++ zeroBytes 112 ++ List.replicate 8 0xFF
theorem test_row_write :
    (after (.rowWrite 0 { writes := cells 0x60000 image }) (sit (onOffice { officeAsk 16 0 with addr := 0x60000 }) {} till7 lunch)).map
      (fun t => ((answer t).map (·.take 2), (t.card 123).val)) =
    some (some [1, 0], { state := .issued, programme := 2, code := some 1234 }) := by decide +kernel
theorem test_row_read :
    (after (.rowRead 0 q) (sit (onOffice { officeAsk 17 0 with addr := 0x60000 }) { state := .issued, programme := 2, code := some 1234 } till7 lunch)).map
      (fun t => ((answer t).map (·.take 2), memBytes t.link.mem 0x60000 128)) = some (some [1, 0], image) := by decide +kernel
theorem test_till_write_register :
    (after (.tillWriteRegister 0 q) (sit (onOffice { kind := 20, action := 1, till := 7, id := [6, 5, 4, 3, 2, 1] }) {} till7 lunch)).map
      (fun t => ((answer t).map (·.take 2), (t.tillRow 7).val)) =
    some (some [1, 0], { registered := true, storeNo := 6543, tillNo := 21 }) := by decide +kernel
theorem test_till_write_remove :
    (after (.tillWriteRemove 0 q) (sit (onOffice { kind := 20, action := 2, till := 7 }) {} till7 lunch)).map
      (fun t => ((answer t).map (·.take 2), (t.tillRow 7).val)) = some (some [1, 0], {}) := by decide +kernel
/-- R104: the release keeps the till id and the last request minute. -/
theorem test_till_release :
    (after (.tillRelease 0 q) (sit (onOffice { kind := 21, till := 7, id := [1, 2, 3, 4, 5, 6] }) {}
        { till7 with score := 255, barred := true, standing := .barred, lastMinute := some 99 } lunch)).map
      (fun t => ((answer t).map (·.take 2), (t.tillRow 7).val)) = some (some [1, 0], { till7 with lastMinute := some 99 }) := by decide +kernel
/-- 2.2, rule 1: prefix digits 6001 2, programme 2, label 310. -/
theorem test_rule_write :
    (after (.ruleWrite 0 q) (sit (onOffice { kind := 22, params := [1, 1, 0x60, 0x01, 0x20, 0x00, 0x1F, 2, 0xFF, 0x01, 0x36, 0x01] }) {} till7 lunch)).map
      (fun t => ((answer t).map (·.take 2), Sparse.get {} t.tables.rules 1)) =
    some (some [1, 0], { enabled := true, digits := [6, 0, 0, 1, 2, 0, 0, 0], mask := 0x1F, programme := 2, kinds := 511, label := 310 }) := by
  decide +kernel
/-- R34: a record whose rows overlap programme 2's is out of range. -/
def record (base : Nat) : List Byte :=
  padTo 64 ([1, 1, 0, 3] ++ leBytes 8 base ++ leBytes 8 1000 ++ leBytes 4 50000 ++ leBytes 4 1 ++ leBytes 4 0 ++ leBytes 4 2000 ++ leBytes 4 1000 ++
    leBytes 2 100 ++ leBytes 2 90 ++ leBytes 2 60 ++ leBytes 2 90 ++ [0, 20, 1, 4] ++ leBytes 2 511)
theorem test_programme_write :
    (let s := sit (onOffice { kind := 23, addr := 0x50000, params := [3] }) {} till7 lunch
    (after (.programmeWrite 0 { writes := cells 0x50000 (record 999) }) s).map (fun t => (answer t).map (·.take 2)) = some (some [3, 31]) ∧
    (after (.programmeWrite 0 { writes := cells 0x50000 (record 1000) }) s).map (fun t =>
      ((answer t).map (·.take 2), (Sparse.get {} t.tables.programmes 3).rowBase)) = some (some [1, 0], 1000)) := by decide +kernel
theorem test_lane_mode_paused :
    (after (.laneModePaused 0 q) (sit (onOffice { kind := 24, action := 2, params := [1] }) {} till7 lunch)).map
      (fun t => ((answer t).map (·.take 2), (t.laneState 1).isOpen, (t.laneState 1).lookTimer)) = some (some [1, 0], false, none) := by decide +kernel
theorem test_lane_mode_open :
    (after (.laneModeOpen 0 { writes := [(0x20000, 1)] }) (sit (onOffice { kind := 24, action := 1, params := [1] }) {} till7 lunch)).map
      (fun t => ((answer t).map (·.take 2), (t.laneState 1).isOpen, (t.laneState 1).ready)) = some (some [1, 0], true, true) := by decide +kernel
/-- R177: a step of 120 minutes is taken, one of 121 is not. -/
theorem test_clock_set :
    (let s := fun m => sit (onOffice { kind := 25, params := leBytes 2 20105 ++ leBytes 2 m ++ [30] }) {} till7 lunch
    (after (.clockSet 0 q) (s 720)).map (fun t => ((answer t).map (·.take 2), t.clock.minute, t.clock.second)) = some (some [1, 0], 720, 30) ∧
    (after (.clockSet 0 q) (s 721)).map (fun t => ((answer t).map (·.take 2), t.clock.minute)) = some (some [3, 30], 600)) := by decide +kernel
/-- R143, R188: the read-out starts with the entry at the write place; a write that fails at its byte 9 leaves the bytes before it and
declines TRANSFER_FAILED. -/
theorem test_trail_read :
    (after (.trailRead 0 { writesFail := some [(0x70009, 1)] }) { sit (onOffice { kind := 26, addr := 0x70000 }) {} till7 lunch with
        store := { trail := [(0, { entry := { serial := 1, work := 4 } })], trailSerial := 2, trailPlace := 0 } }).map
      (fun t => ((answer t).map (·.take 2), memBytes t.link.mem 0x70000 16)) =
    some (some [3, 32], [1, 0, 0, 0, 0, 0, 0, 0, 4] ++ zeroBytes 7) := by decide +kernel
theorem test_quarantine_read :
    (after (.quarantineRead 0 q) { sit (onOffice { kind := 27, addr := 0x70000 }) {} till7 lunch with
        store := { quarantine := [{ kind := .till, index := 9, listedAt := none }] } }).map
      (fun t => ((answer t).map (·.take 2), memBytes t.link.mem 0x70000 2, memBytes t.link.mem 0x70010 12)) =
    some (some [1, 0], [1, 0], [2, 0, 0, 0, 9, 0, 0, 0, 0xFF, 0xFF, 0xFF, 0xFF]) := by decide +kernel
/-- R39: kind code 99 names no kind. -/
theorem test_unknown_kind :
    (after (.unknownKindRequest 0 q) (sit (onTill (tillAsk 99 300 0)) {} till7 lunch)).map (fun t => (answer t).map (·.take 2)) =
    some (some [3, 1]) := by decide +kernel

/-! ### Engine control, registers, clock -/

/-- The bytes of a lane entry (11.2), written out from its table. -/
def laneBytes (base kind : Nat) (embed : Byte) : List Byte :=
  leBytes 8 base ++ leBytes 2 16 ++ [BitVec.ofNat 8 kind, 0] ++ leBytes 2 100 ++ [embed, 1] ++ leBytes 2 500 ++ leBytes 2 0 ++ [1] ++ zeroBytes 11
/-- The bytes of the directory of the tests (11.2). -/
def dirBytes : List Byte :=
  [1, 15, 1, 1] ++ leBytes 2 20105 ++ leBytes 2 600 ++ [1, 31] ++ leBytes 2 2 ++ leBytes 4 1000 ++ leBytes 8 0x100000 ++ leBytes 4 1024 ++
    zeroBytes 4 ++ leBytes 8 0x200000 ++ leBytes 8 0x300000 ++ zeroBytes 16 ++ laneBytes 0x10000 1 0x6A ++ laneBytes 0x20000 2 0
/-- The part in IDLE with the directory at 4000h and the anchor on it. -/
def idlePart : State :=
  { State.reset with control := { engine := .idle }, link := { mem := cells 0x4000 dirBytes, anchorLow := 0x4000 } }
/-- The part in STARTING, its directory passed. -/
def startingPart : State :=
  { State.reset with
    control := { engine := .starting, startAnchor := 0x4000, starting := some dir, engineWords := some 0x200000 }
    store := { header := { header := { partition := some 15, next := 77 } } } }

/-- The engine, its fault and the notice register's bits. -/
def engine (c : Instr) (s : State) : Option (EngineState × FaultCode × Nat) :=
  (after c s).map (fun t => (t.control.engine, t.control.fault, t.notices.raised.bits))

theorem test_power_on : engine (.powerOnReset q) quietPart = some (.scrubbing, .none, 0) := by decide +kernel
theorem test_scrub_end : engine (.scrubEnd q) State.reset = some (.idle, .none, 16) := by decide +kernel
theorem test_link_reset :
    (after (.linkReset q) { quietPart with link := { anchorLow := 4096 } }).map (fun t => (t.link.anchorLow, t.control.engine, t.lanes.lane)) =
    some (0, .idle, []) := by decide +kernel
theorem test_reset :
    (after (.reset q) { quietPart with link := { anchorLow := 4096 } }).map (fun t => (t.link.anchorLow, t.control.engine, t.clock.set)) =
    some (4096, .idle, true) := by decide +kernel
theorem test_reset_end :
    (after (.resetEnd q) { quietPart with
        control := { engine := .idle, resetting := true }
        store := { trailStatus := [(3, { journal := .pending, answer := .done })] } }).map
      (fun t => (t.trailStatusAt 3, t.notices.raised.bits)) = some ({ journal := .abandoned, answer := .done }, 16) := by decide +kernel
/-- R183, R184: a START with a good directory takes the clock and records partition 15's 33,554,432 hold rows. -/
theorem test_start :
    (after (.start q) idlePart).map (fun t => (t.control.engine, t.clock.now, t.header.partition, t.holds.free.count)) =
    some (.starting, 28951800, some 15, 33554432) := by decide +kernel
/-- R183: an anchor that is not a multiple of 4,096. -/
theorem test_start_bad_anchor : engine (.start q) { idlePart with link := { anchorLow := 0x4010 } } = some (.faulted, .badRevision, 16) := by
  decide +kernel
theorem test_starting_complete :
    (after (.startingComplete q) startingPart).map
      (fun t => (t.control.engine, t.journal.next, (t.laneState 0).isOpen, memBytes t.link.mem 0x200110 18)) =
    some (.running, some 77, true, leBytes 4 16777216 ++ leBytes 4 33554432 ++ leBytes 4 32768 ++ [64, 8, 64, 6, 4, 1]) := by decide +kernel
/-- The opening of 11 (log 61): the unnamed bytes of the engine-word block are written 0, and nothing behind the block. -/
theorem test_starting_complete_unnamed_bytes :
    (after (.startingComplete { writes := [(0x20010C, 7), (0x200122, 7), (0x200FFF, 7), (0x201000, 7)] }) startingPart).map
      (fun t => [0x20010C, 0x200122, 0x200FFF, 0x201000].map (Memory.read t.link.mem)) = some [0, 0, 0, 7] := by decide +kernel
theorem test_drain : engine (.drain q) quietPart = some (.draining, .none, 0) := by decide +kernel
theorem test_drain_complete :
    engine (.drainComplete q) { quietPart with control := { engine := .draining, directory := some dir } } = some (.idle, .none, 16) := by
  decide +kernel
theorem test_control_unknown :
    (after (.controlUnknownCommand 4 q) quietPart).map (fun t => (t.control.engine, t.control.controlIgnored)) = some (.running, true) := by
  decide +kernel
/-- R189: two bytes written at offset 5 are a write of the whole high anchor register, its other bytes 0. -/
theorem test_register_write :
    (after (.registerWrite 5 [0x12, 0x34] q) { quietPart with link := { anchorHigh := 0xFFFFFFFF } }).map (·.link.anchorHigh) =
    some 0x00341200 := by decide +kernel
theorem test_nudge :
    (after (.nudge 1 { writes := [(0x20000, 1)] }) quietPart).map (fun t => ((t.laneState 0).ready, (t.laneState 1).ready)) =
    some (false, true) := by decide +kernel
/-- R171: a drained count above the written count is taken as the written count. -/
theorem test_nudge_255 :
    (after (.nudge255 { writes := [(0x10000, 1), (0x300000, 9)] }) { quietPart with journal := { written := 5, cached := 2 } }).map
      (fun t => ((t.laneState 0).ready, (t.laneState 1).ready, t.journal.cached)) = some (true, false, 5) := by decide +kernel
theorem test_notice_read :
    (after (.noticeRead 15 q) { quietPart with notices := { raised := { answers := true, store := true } } }).map
      (fun t => (t.link.readData, t.notices.raised)) = some (9, {}) := by decide +kernel
/-- R132: a wrong bit in each of two code words is put right at the read, two in one word are not, a bit that changes twice is right again, and a
card row has no word 16. -/
theorem test_bit_errors :
    (let f := fun l => ((State.reset.outside { flips := l.map (fun b => { unit := .cardRow 5, word := b.1, bit := b.2 }) }).card 5).ecc.outcome
    f [(0, 3), (15, 3)] = .corrected ∧ f [(0, 3), (7, 3), (7, 71)] = .uncorrectable ∧ f [(4, 3), (4, 3)] = .clean ∧ f [(16, 3), (16, 4)] = .clean) := by
  decide +kernel
/-- R132, R135: a milder error after an uncorrectable one leaves the row uncorrectable. -/
theorem test_bit_errors_stay :
    (((State.reset.outside { flips := [{ unit := .cardRow 5, word := 2, bit := 0 }, { unit := .cardRow 5, word := 2, bit := 1 }] }).outside
      { flips := [{ unit := .cardRow 5, word := 9, bit := 0 }] }).card 5).ecc.outcome = .uncorrectable := by decide +kernel
/-- R189: a narrow read is of the register whose four bytes it touches: byte 0Dh is the fault code, byte 05h of the high anchor. -/
theorem test_register_read :
    (let s : State := { quietPart with control := { engine := .faulted, fault := .linkLost }, link := { anchorLow := 0x11223000, anchorHigh := 0x55667788 } }
    readRegister s 0x0D 1 = [13] ∧ readRegister s 0x01 2 = [0x30, 0x22] ∧ readRegister s 0x03 2 = [0x11, 0x88] ∧
    readRegister s 0x18 4 = zeroBytes 4 ∧ readRegister s 0x08 4 = zeroBytes 4) := by decide +kernel
/-- R179: the first enabled cause sends the message the host programmed, a second one none; with MSI disabled none is sent. -/
theorem test_msi :
    (let s := fun on => ({ quietPart with
      notices := { enable := { store := true, engine := true } }, link := { msi := { enabled := on, address := 0xFEE00000, data := 0x41 } } } : State)
    (raiseCause .till (s true)).link.msiSent = [] ∧
    (raiseCause .engine (raiseCause .store (s true))).link.msiSent = [(0xFEE00000, 0x41)] ∧ (raiseCause .store (s false)).link.msiSent = []) := by
  decide +kernel
/-- R175: after minute 1439 comes minute 0 of the next day. -/
theorem test_minute_event :
    (after (.minuteEvent q) { quietPart with clock := { day := 20105, minute := 1439, set := true } }).map
      (fun t => (t.clock.day, t.clock.minute)) = some (20106, 0) := by decide +kernel
/-- 4.7, event 4: the move of bucket 1,912 at minute index 28,952,440. -/
theorem test_sweep_move :
    (after (.sweepMove q) { fileRow 40 28952440 quietPart with
        clock := { day := 20105, minute := 1240, set := true }
        holds := { (fileRow 40 28952440 quietPart).holds with sweep := some 28952439 } }).map
      (fun t => (t.holds.due.head, t.holds.due.count, t.chain (.bucket 1912), t.holds.sweep)) =
    some (some 40, 1, {}, some 28952440) := by decide +kernel
theorem test_look_timer :
    (after (.lookTimerExpiry 0 { writes := [(0x10000, 1)] }) { quietPart with
        lanes := { lane := [(0, { isOpen := true, lookTimer := some 0 })] } }).map (fun t => ((t.laneState 0).ready, (t.laneState 0).lookTimer)) =
    some (true, some 100) := by decide +kernel
theorem test_hold_timer :
    (after (.noticeHoldExpiry 0 q) { quietPart with lanes := { lane := [(0, { pendingAnswers := 2, holdTimer := some 0 })] } }).map
      (fun t => ((t.laneState 0).pendingAnswers, (t.laneState 0).holdTimer, t.notices.raised.bits)) = some (0, none, 1) := by decide +kernel
/-- R174: the last cycle of a minute queues the minute event and the sweep's move. -/
theorem test_idle_cycle :
    (match step { quietPart with clock := { day := 20105, minute := 600, second := 59, tick := 99999, phase := 999, set := true } } with
      | .next t => some (t.clock.second, t.clock.tick, t.clock.phase, t.pending) | _ => none) =
    some (0, 0, 0, [.minuteEvent q, .sweepMove q]) := by decide +kernel

/-! ### Workers, jobs, answers, journal -/

/-- A REDEEM posted in slot 0 of lane 0, found by a look. -/
def posted : State :=
  { quietPart with
    link := { mem := cells 0x10000 (tillAsk 4 310 2000).half }
    lanes := { lane := [(0, { isOpen := true, ready := true })], lastServed := some 1 } }
theorem test_dispatch_take :
    (after (.workerDispatch 2 q) posted).map
      (fun t => ((t.worker 2).map (fun k => (k.place, k.room)), t.journal.reserved, (t.laneState 0).scan, Memory.read t.link.mem 0x10000)) =
    some (some (0, 3), 3, 1, 2) := by decide +kernel
/-- R155: a withdraw mark. -/
theorem test_dispatch_withdrawn :
    (after (.workerDispatch 2 { writes := [(0x10001, 1)] }) posted).map (fun t => (t.worker 2, answer t, Memory.read t.link.mem 0x10000)) =
    some (none, some [4, 0, 0, 0, 4294967295, 4294967295, 0], 2) := by decide +kernel
/-- Work whose till lock, and whose card lock, has been handed to it. -/
def gotTill : Work := { onTill (tillAsk 1 300 0) with tillLock := some 7, phase := .gotTill }
/-- Work whose card lock has been handed to it. -/
def gotCard : Work := { onOffice (officeAsk 18 1) with cardLock := some 123, selection := some (sel lunch), rowIndex := some 123, phase := .gotCard }
/-- A part with one ready entry. -/
def readyPart (k : Work) : State := { quietPart with units := { ready := [k], places := [0] }, journal := { next := some 500, reserved := 3 } }
theorem test_resume_till :
    (after (.resumeAfterTillLock 5 q) (readyPart gotTill)).map (fun t => ((answer t).map (·.take 2), t.units.ready, (t.worker 5).isSome)) =
    some (some [1, 0], [], true) := by decide +kernel
theorem test_resume_card :
    (after (.resumeAfterCardLock 5 q) (readyPart gotCard)).map (fun t => ((answer t).map (·.take 2), (t.card 123).val.state)) =
    some (some [1, 0], .suspended) := by decide +kernel
/-- A plan of a wrong code that locks a card on a BALANCE. -/
def lockPlan : Plan := { result := .declined, reason := .wrongCode, status := some (.active, .locked) }
theorem test_room_granted :
    (after (.balanceRoomGranted 0 q) { sit { onTill (tillAsk 1 300 0) with phase := .awaitRoom lockPlan } {} till7 lunch with
        units := { workers := [(0, some { onTill (tillAsk 1 300 0) with room := 0, phase := .awaitRoom lockPlan })], roomWaiters := [0] } }).map
      (fun t => ((answer t).map (·.take 2), t.journal.queue.length)) = some (some [3, 18], 1) := by decide +kernel
theorem test_trail_freed :
    (after (.trailPlaceFreed 0 q) (sit { onTill (tillAsk 1 300 0) with phase := .awaitTrail lockPlan } {} till7 lunch)).map
      (fun t => (answer t).map (·.take 2)) = some (some [3, 18]) := by decide +kernel
/-- A job on hold row 40 of the card (4.7, event 6). -/
def job : Work := { task := .expiry 40 0 123, place := 0, room := 1 }
/-- Hold row 40, due. -/
def hold40 : HoldRow := { isOpen := true, card := 123, till := 7, seq := 301, amount := 800, deadline := 28951800 }
/-- The part with row 40 in the due chain. -/
def duePart (s : State) : State := fileRow 40 28951800 (s.putHold 40 hold40)
/-- The part with that row's job on worker 0. -/
def jobPart : State :=
  let s := duePart (sit job { active [paid 900] with refs := [{ index := 40, gen := 0, amount := 800 }], held := 800 } till7 lunch)
  s.setHolds { s.holds with hand := [{ kind := .expiry, hold := 40, gen := 0, card := 123, place := 0 }] }
theorem test_expiry_job :
    (after (.expiryJob 0 q) jobPart).map
      (fun t => ((t.card 123).val.held, (t.hold 40).val.gen, t.holds.free.tail, t.journal.queue.map (fun x => x.entry.words))) =
    some (0, 1, some 40, [[40, 0, 301, 800, 800, 28951800]]) := by decide +kernel
theorem test_due_handout :
    (after (.workerDispatch 0 q) (duePart quietPart)).map (fun t => ((t.worker 0).map (·.task), t.holds.due.count, t.journal.reserved)) =
    some (some (.expiry 40 0 123), 1, 1) := by decide +kernel
/-- A handed answer of lane 1, slot 2. -/
def handed : HandedAnswer :=
  { lane := 1, slot := 2, entry := office1, half := [3, 1] ++ zeroBytes 62, tillCause := false, worker := some 0, trail := some 4 }
/-- The part with that answer handed, its worker waiting. -/
def answerPart : State := { sit (onOffice (officeAsk 18 1)) {} till7 lunch with notices := { answers := [handed] } }
/-- R156: a withdraw mark set meanwhile joins WITHDRAW_LATE to the flags. -/
theorem test_answer_write :
    (after (.answerWrite 1 { writes := [(0x20101, 1)] }) answerPart).map
      (fun t => (Memory.read t.link.mem 0x20100, memBytes t.link.mem 0x20140 4, (t.laneState 1).tally, t.worker 0, t.trailStatusAt 4)) =
    some (3, [3, 1, 0x20, 0], 1, none, { answer := .done }) := by decide +kernel
/-- R162: a failed answer write is given up and not counted. -/
theorem test_answer_write_fails :
    (after (.answerWrite 1 { writesFail := some [(0x20140, 64)] }) answerPart).map
      (fun t => (Memory.read t.link.mem 0x20100, (t.laneState 1).tally, t.worker 0, t.trailStatusAt 4)) =
    some (0, 0, none, { answer := .abandoned }) := by decide +kernel
/-- An entry for the journal. -/
def entry500 : JournalEntry :=
  { number := 500, prior := 0, kind := .load, programme := 2, stamp := {}, source := some (0, 3), till := some (7, 312), cardRow := 123
    balanceAfter := 2870, heldAfter := 0, words := [2500] }
/-- R173: the append queue and the next movement number outlast the RESET and go at the RESET_END, the written count does not. -/
theorem test_reset_keeps_the_queue_to_its_end :
    (let s : State := { quietPart with journal := { written := 5, reserved := 3, next := some 9, queue := [{ entry := entry500, last := none }] } }
    ((after (.reset q) s).map (fun t => t.journal) = some s.journal ∧
    ((after (.reset q) s).bind (after (.resetEnd q))).map (fun t => t.journal) = some { written := 5 })) := by decide +kernel
/-- The part with that entry queued, 1,025 written before it. -/
def queuePart : State :=
  { quietPart with journal := { written := 1025, cached := 1000, reserved := 1, queue := [{ entry := entry500, last := some 2 }] } }
theorem test_journal_append :
    (after (.journalAppend q) queuePart).map
      (fun t => (t.journal.written, t.journal.reserved, t.trailStatusAt 2, leNat (memBytes t.link.mem 0x100040 6), memBytes t.link.mem 0x200100 2)) =
    some (1026, 0, { journal := .done }, 500, [2, 4]) := by decide +kernel
theorem test_journal_retry :
    (after (.journalWriteRetry { writesFail := some [(0x100040, 1)] }) { queuePart with journal := { queuePart.journal with retry := true } }).map
      (fun t => (t.journal.written, t.journal.retry)) = some (1025, true) := by decide +kernel

/-! ### Witnesses: what a request needs to reach its own step 16 -/

/-- An outside world that did nothing leaves the state as it is. -/
theorem quiet_outside (s : State) : s.outside q = s := rfl

theorem posted_of {kd : RequestKind} {k : Work} {s : State}
    (h : s.atStepOne 0 = some k ∧ k.kind? = some kd ∧ requestWellFormed k.half = true ∧ (kd.isTill = true ∨ k.onOfficeLane = true) ∧
      s.trailOwing s.store.trailPlace = false) : Posted kd 0 k s :=
  ⟨h.1, h.2.1, h.2.2.1, h.2.2.2.1, h.2.2.2.2⟩

theorem tillReads_of {k : Work} {t : TillRow} {s : State}
    (h : k.req.tillIndex < Config.tills ∧ s.isListed .till k.req.tillIndex = false ∧ s.tillRow k.req.tillIndex = { val := t, ecc := .clean } ∧
      t.admits k.req = true ∧ s.lockHeld (.till k.req.tillIndex) = false ∧ s.locks.till.length < Config.bankSize) : TillReads k t s :=
  ⟨h.1, h.2.1, h.2.2.1, h.2.2.2.1, h.2.2.2.2.1, h.2.2.2.2.2⟩

theorem tillPasses_of {kd : RequestKind} {k : Work} {t : TillRow} {s : State} (h : TillReads k t s)
    (g : findRecent k.req.seq t.recent = none ∧ standingGate kd (t.atSecondReading s.dir.recovery s.clock.reading.index).standing = none) :
    TillPasses kd k t s :=
  ⟨h.inTable, h.unlisted, h.stored, h.admits, h.free, h.bank, g.1, g.2⟩

theorem cardPasses_of {kd : RequestKind} {k : Work} {sl : Selection} {row : CardRow} {s : State}
    (h : checkDigitOk k.req.digits = true ∧ selectProgramme s.tables k.req.digits = some sl ∧ kindAllowed kd sl = true ∧
      rowIndex sl k.req.serial = some 123 ∧ s.isListed .card 123 = false ∧ s.lockHeld (.card 123) = false ∧
      s.locks.card.length < Config.bankSize ∧ s.card 123 = { val := row, ecc := .clean }) : CardPasses kd k sl 123 row s :=
  ⟨h.1, h.2.1, h.2.2.1, h.2.2.2.1, h.2.2.2.2.1, h.2.2.2.2.2.1, h.2.2.2.2.2.2.1, h.2.2.2.2.2.2.2⟩

theorem rowPasses_of {kd : RequestKind} {k : Work} {sl : Selection} {row : CardRow} {s : State}
    (h : owned row sl.programmeNo = true ∧ cardGate kd (upkeep kd sl s.clock.reading row).state = none ∧
      (codeCheck kd k.req sl (upkeep kd sl s.clock.reading row)).reason = none) : RowPasses kd k sl row s :=
  ⟨h.1, h.2.1, h.2.2⟩

/-- A till request of the tests on worker 0 that passes all admission checks, the outside world quiet. -/
def TReady (kd : RequestKind) (k : Work) (row : CardRow) (t : TillRow) (p : Programme) (s : State) : Prop :=
  s.outside q = s ∧ TillReady kd 0 k t (sel p) 123 row s

/-- The facts behind it, as one test. -/
def treadyB (kd : RequestKind) (k : Work) (row : CardRow) (t : TillRow) (p : Programme) (s : State) : Bool :=
  decide (s.atStepOne 0 = some k ∧ k.kind? = some kd ∧ requestWellFormed k.half = true ∧ (kd.isTill = true ∨ k.onOfficeLane = true) ∧
    s.trailOwing s.store.trailPlace = false) && decide (kd.isTill = true) &&
  decide (k.req.tillIndex < Config.tills ∧ s.isListed .till k.req.tillIndex = false ∧ s.tillRow k.req.tillIndex = { val := t, ecc := .clean } ∧
    t.admits k.req = true ∧ s.lockHeld (.till k.req.tillIndex) = false ∧ s.locks.till.length < Config.bankSize) &&
  decide (findRecent k.req.seq t.recent = none ∧ standingGate kd (t.atSecondReading s.dir.recovery s.clock.reading.index).standing = none) &&
  decide (checkDigitOk k.req.digits = true ∧ selectProgramme s.tables k.req.digits = some (sel p) ∧ kindAllowed kd (sel p) = true ∧
    rowIndex (sel p) k.req.serial = some 123 ∧ s.isListed .card 123 = false ∧ s.lockHeld (.card 123) = false ∧
    s.locks.card.length < Config.bankSize ∧ s.card 123 = { val := row, ecc := .clean }) &&
  decide (owned row 2 = true ∧ cardGate kd (upkeep kd (sel p) s.clock.reading row).state = none ∧
    (codeCheck kd k.req (sel p) (upkeep kd (sel p) s.clock.reading row)).reason = none)

theorem tready_of {kd : RequestKind} {k : Work} {row : CardRow} {t : TillRow} {p : Programme} {s : State} (h : treadyB kd k row t p s = true) :
    TReady kd k row t p s := by
  simp only [treadyB, Bool.and_eq_true] at h
  obtain ⟨⟨⟨⟨⟨a, b⟩, c⟩, d⟩, e⟩, f⟩ := h
  have a := of_decide_eq_true a
  have b := of_decide_eq_true b
  have c := of_decide_eq_true c
  have d := of_decide_eq_true d
  have e := of_decide_eq_true e
  have f := of_decide_eq_true f
  exact ⟨rfl, posted_of a, b, tillPasses_of (tillReads_of c) d, cardPasses_of e, rowPasses_of f⟩

/-- The working copy of a till request of the tests. -/
def wk (kd : RequestKind) (k : Work) (row : CardRow) (p : Programme) (s : State) : CardRow := workingRow kd k (sel p) row s
/-- The office form of readiness. -/
def OReady (kd : RequestKind) (k : Work) (row : CardRow) (p : Programme) (s : State) : Prop :=
  s.outside q = s ∧ OfficeReady kd 0 k (sel p) 123 row s
/-- The facts behind a card's passing, as one test. -/
def cardB (kd : RequestKind) (k : Work) (row : CardRow) (p : Programme) (s : State) : Bool :=
  decide (s.atStepOne 0 = some k ∧ k.kind? = some kd ∧ requestWellFormed k.half = true ∧ (kd.isTill = true ∨ k.onOfficeLane = true) ∧
    s.trailOwing s.store.trailPlace = false) &&
  decide (checkDigitOk k.req.digits = true ∧ selectProgramme s.tables k.req.digits = some (sel p) ∧ kindAllowed kd (sel p) = true ∧
    rowIndex (sel p) k.req.serial = some 123 ∧ s.isListed .card 123 = false ∧ s.lockHeld (.card 123) = false ∧
    s.locks.card.length < Config.bankSize ∧ s.card 123 = { val := row, ecc := .clean })

theorem oready_of {kd : RequestKind} {k : Work} {row : CardRow} {p : Programme} {s : State} (h : cardB kd k row p s = true)
    (o : kd = .cardStatus ∨ kd = .bonusGrant)
    (g : owned row 2 = true ∧ cardGate kd (upkeep kd (sel p) s.clock.reading row).state = none ∧
      (codeCheck kd k.req (sel p) (upkeep kd (sel p) s.clock.reading row)).reason = none) : OReady kd k row p s := by
  simp only [cardB, Bool.and_eq_true] at h
  have a := of_decide_eq_true h.1
  have b := of_decide_eq_true h.2
  exact ⟨rfl, posted_of a, o, cardPasses_of b, rowPasses_of g⟩

theorem rowReady_of {kd : RequestKind} {k : Work} {row : CardRow} {p : Programme} {s : State} (h : cardB kd k row p s = true)
    (o : kd = .rowRead ∨ kd = .rowWrite) : RowReady kd 0 k (sel p) 123 row s := by
  simp only [cardB, Bool.and_eq_true] at h
  have a := of_decide_eq_true h.1
  have b := of_decide_eq_true h.2
  exact ⟨posted_of a, o, cardPasses_of b⟩

/-! ### Witnesses: the till kinds -/

/-- The test state of a till request. -/
def at7 (r : Ask) (row : CardRow) (t : TillRow) (p : Programme) : State := sit (onTill r) row t p

/-- Six BONUS lots: no room. -/
def full : List Lot := [bonus 20201 1, bonus 20202 1, bonus 20203 1, bonus 20204 1, bonus 20205 1, bonus 20206 1]

theorem witness_BalanceReportsTheCard :
    TReady .balance (onTill (tillAsk 1 300 0)) (active [paid 900]) till7 lunch (at7 (tillAsk 1 300 0) (active [paid 900]) till7 lunch) :=
  tready_of (by decide +kernel)
/-- One wrong bit. -/
def oneBit : BitErrors := { bits := [(0, 3)] }
/-- A state with one wrong bit in till row 7 and one in card row 123. -/
def corrupt (s : State) : State :=
  (s.putTillStored 7 { val := (s.tillRow 7).val, ecc := oneBit }).putCardStored 123 { val := (s.card 123).val, ecc := oneBit }
theorem corrupted_corrupt (s : State) : Corrupted 7 123 s (corrupt s) := by
  have ht : (corrupt s).tillRow 7 = { val := (s.tillRow 7).val, ecc := oneBit } := Sparse.get_set_same ..
  have hc : (corrupt s).card 123 = { val := (s.card 123).val, ecc := oneBit } := Sparse.get_set_same ..
  refine ⟨⟨by rw [ht], ?_⟩, fun n h => Sparse.get_set_other _ _ _ h, ⟨by rw [hc], ?_⟩, fun n h => Sparse.get_set_other _ _ _ h, rfl, rfl⟩
  · rw [ht]
    exact (by decide : oneBit.outcome ≠ .uncorrectable)
  · rw [hc]
    exact (by decide : oneBit.outcome ≠ .uncorrectable)
theorem witness_BalanceReportsTheCard_corrected :
    (let k := onTill (tillAsk 1 300 0)
    let s := at7 (tillAsk 1 300 0) (active [paid 900]) till7 lunch
    TReady .balance k (active [paid 900]) till7 lunch s ∧ Corrupted k.req.tillIndex 123 s (corrupt s) ∧ (corrupt s).outside q = corrupt s) :=
  ⟨tready_of (by decide +kernel), corrupted_corrupt _, rfl⟩
/-- R133: rows that read corrected are served and written back, the till row at its first reading. -/
theorem test_corrected_rows_are_written_back :
    (after (.balance 0 q) (corrupt (at7 (tillAsk 1 300 0) (active [paid 900]) till7 lunch))).map
      (fun t => ((answer t).map (·.take 6), (t.card 123).ecc, (t.tillRow 7).ecc)) =
    some (some [1, 0, 0, 0, 900, 0], .clean, .clean) := by decide +kernel

theorem witness_ActivateChecksAndLoads :
    (let r := tillAsk 2 300
    let s := fun a row => at7 (r a) row till7 capped
    let c := fun a row => wk .activate (onTill (r a)) row capped (s a row)
    (TReady .activate (onTill (r 999)) (active []) till7 capped (s 999 (active [])) ∧ (c 999 (active [])).state ≠ .issued) ∧
    (TReady .activate (onTill (r 999)) issued till7 capped (s 999 issued) ∧ (c 999 issued).state = .issued ∧ 999 < capped.activationMin) ∧
    (TReady .activate (onTill (r 10001)) issued till7 capped (s 10001 issued) ∧ (c 10001 issued).state = .issued ∧
      capped.cap < balance 20105 (c 10001 issued).lots + 10001) ∧
    (TReady .activate (onTill (r 1000)) { issued with lots := full } till7 capped (s 1000 { issued with lots := full }) ∧
      addPaid 1000 (c 1000 { issued with lots := full }).lots = none) ∧
    (TReady .activate (onTill (r 10000)) issued till7 capped (s 10000 issued) ∧ balance 20105 (c 10000 issued).lots + 10000 ≤ capped.cap ∧
      addPaid 10000 (c 10000 issued).lots = some [paid 10000])) := by
  refine ⟨⟨tready_of ?_, ?_⟩, ⟨tready_of ?_, ?_⟩, ⟨tready_of ?_, ?_⟩, ⟨tready_of ?_, ?_⟩, ⟨tready_of ?_, ?_⟩⟩ <;> decide +kernel

theorem witness_LoadAddsValueAndBonus :
    (let r := tillAsk 3 300
    let s := fun a row => at7 (r a) row till7 capped
    let c := fun a row => wk .load (onTill (r a)) row capped (s a row)
    (TReady .load (onTill (r 1001)) (active [paid 9000]) till7 capped (s 1001 (active [paid 9000])) ∧
      capped.cap < balance 20105 (c 1001 (active [paid 9000])).lots + 1001) ∧
    (TReady .load (onTill (r 1000)) (active full) till7 capped (s 1000 (active full)) ∧ addPaid 1000 (c 1000 (active full)).lots = none) ∧
    (TReady .load (onTill (r 1000)) (active [paid 9000]) till7 capped (s 1000 (active [paid 9000])) ∧
      balance 20105 (c 1000 (active [paid 9000])).lots + 1000 ≤ capped.cap ∧
      addPaid 1000 (c 1000 (active [paid 9000])).lots = some [paid 10000])) := by
  refine ⟨⟨tready_of ?_, ?_⟩, ⟨tready_of ?_, ?_⟩, ⟨tready_of ?_, ?_⟩⟩ <;> decide +kernel

theorem witness_RedeemDrawsTheLots :
    (let row := { active [paid 900] with windowIndex := 482530, windowCount := 3 }
    let r := tillAsk 4 300
    let v := { lunch with velocityLimit := 3 }
    let no := { lunch with partialAllowed := false }
    let s := fun a p => at7 (r a) row till7 p
    let c := fun a p => wk .redeem (onTill (r a)) row p (s a p)
    (TReady .redeem (onTill (r 900)) row till7 v (s 900 v) ∧ 0 < v.velocityLimit ∧ v.velocityLimit ≤ (c 900 v).windowCount) ∧
    (TReady .redeem (onTill (r 900)) row till7 lunch (s 900 lunch) ∧ lunch.velocityLimit = 0 ∧ 900 ≤ balance 20105 (c 900 lunch).lots - (c 900 lunch).held) ∧
    (TReady .redeem (onTill (r 901)) row till7 lunch (s 901 lunch) ∧ balance 20105 (c 901 lunch).lots - (c 901 lunch).held < 901 ∧
      lunch.partialAllowed = true ∧ 1 ≤ balance 20105 (c 901 lunch).lots - (c 901 lunch).held) ∧
    (TReady .redeem (onTill (r 901)) row till7 no (s 901 no) ∧ balance 20105 (c 901 no).lots - (c 901 no).held < 901 ∧ no.partialAllowed = false)) := by
  refine ⟨⟨tready_of ?_, ?_⟩, ⟨tready_of ?_, ?_⟩, ⟨tready_of ?_, ?_⟩, ⟨tready_of ?_, ?_⟩⟩ <;> decide +kernel

theorem witness_HoldOpenClaimsARow :
    (let row := { active [paid 900] with windowIndex := 482530, windowCount := 3 }
    let r := tillAsk 5 300
    let v := { lunch with velocityLimit := 3 }
    let s := fun a p => at7 (r a) row till7 p
    let c := fun a p => wk .holdOpen (onTill (r a)) row p (s a p)
    let none_ := { lunch with holdsPerCard := 0 }
    let empty := (s 900 lunch).setHolds {}
    (TReady .holdOpen (onTill (r 900)) row till7 v (s 900 v) ∧ 0 < v.velocityLimit ∧ v.velocityLimit ≤ (c 900 v).windowCount) ∧
    (TReady .holdOpen (onTill (r 901)) row till7 lunch (s 901 lunch) ∧ balance 20105 (c 901 lunch).lots - (c 901 lunch).held < 901) ∧
    (TReady .holdOpen (onTill (r 900)) row till7 none_ (s 900 none_) ∧ none_.holdsPerCard ≤ (c 900 none_).refs.length) ∧
    (TReady .holdOpen (onTill (r 900)) row till7 lunch empty ∧ row.refs.length < lunch.holdsPerCard ∧ empty.holds.free.count = 0) ∧
    (TReady .holdOpen (onTill (r 900)) row till7 lunch (s 900 lunch) ∧ 900 ≤ balance 20105 (c 900 lunch).lots - (c 900 lunch).held ∧
      1 ≤ (s 900 lunch).holds.free.count ∧ (s 900 lunch).holds.free.head = some 0 ∧ (s 900 lunch).isListed .hold 0 = false ∧
      (s 900 lunch).isClaimed 0 = false ∧ (s 900 lunch).hold 0 = { val := {}, ecc := .clean })) := by
  refine ⟨⟨tready_of ?_, ?_⟩, ⟨tready_of ?_, ?_⟩, ⟨tready_of ?_, ?_⟩, ⟨tready_of ?_, ?_⟩, ⟨tready_of ?_, ?_⟩⟩ <;> decide +kernel

/-- A HOLD_OPEN before whose claim the free chain's head cannot be read and the next row is claimed; and one whose one free row is listed. -/
theorem witness_HoldOpenClaimsARow_passes :
    (let row := active [paid 900]
    let r := tillAsk 5 300 900
    let at_ := at7 r row till7 lunch
    let s := (at_.putHoldStored 0 { val := {}, ecc := lostBits }).setHolds
      { at_.holds with hand := [{ kind := .claim, hold := 1, gen := 0, card := 9, place := 1 }] }
    let u := s.bothLocked (onTill r) 123
    let v := quarantineJoin .hold 0 u
    let last := ((at_.putLinkStored 0 { word := { prev := none, next := none } }).setHolds
      { at_.holds with free := { head := some 0, tail := some 0, count := 1 } }).setStore
        { (at_.putLinkStored 0 { word := { prev := none, next := none } }).store with quarantine := [{ kind := .hold, index := 0, listedAt := none }] }
    let z := last.bothLocked (onTill r) 123
    let long := last.setStore { last.store with links := [] }
    let y := long.bothLocked (onTill r) 123
    (TReady .holdOpen (onTill r) row till7 lunch s ∧ RowsPassed ClaimPassed s.holds.free.head [0, 1] (some 2) u v ∧ 2 < s.holds.free.count ∧
      v.isClaimed 2 = false ∧ HoldRead 2 {} v v) ∧
    (TReady .holdOpen (onTill r) row till7 lunch last ∧ RowsPassed ClaimPassed last.holds.free.head [0] none z z ∧ 1 = last.holds.free.count) ∧
    (TReady .holdOpen (onTill r) row till7 lunch long ∧ RowsPassed ClaimPassed long.holds.free.head [0] (some 1) y y ∧ 1 = long.holds.free.count)) := by
  refine ⟨⟨tready_of ?_, .on 0 (some 1) [1] _ _ _ _ _ (.inr ⟨?_, .inr ⟨?_, ?_, rfl⟩⟩) ⟨?_, .inl ⟨?_, rfl⟩⟩
      (.on 1 (some 2) [] _ _ _ _ _ (.inl ⟨?_, rfl⟩) ⟨?_, .inl ⟨?_, rfl⟩⟩ (.here _ _)), ?_, ?_, ⟨?_, ?_, .inl ⟨?_, rfl⟩⟩⟩,
    ⟨tready_of ?_, .on 0 none [] _ _ _ _ _ (.inr ⟨?_, .inl ⟨?_, rfl⟩⟩) ⟨?_, .inl ⟨?_, rfl⟩⟩ (.here _ _), ?_⟩,
    ⟨tready_of ?_, .on 0 (some 1) [] _ _ _ _ _ (.inr ⟨?_, .inl ⟨?_, rfl⟩⟩) ⟨?_, .inl ⟨?_, rfl⟩⟩ (.here _ _), ?_⟩⟩ <;> decide +kernel

/-- A reference request on lunchCard's hold, now at a minute index. -/
def refAsk (kind amount : Nat) : Ask := { tillAsk kind 311 amount with hold := (9, 4) }
/-- Its state: the hold row as given. -/
def refState (kind amount : Nat) (row : CardRow) (p : Programme) (h : HoldRow) : State := (at7 (refAsk kind amount) row till7 p).putHold 9 h
/-- The same with the hold row in the quarantine list. -/
def refListed (kind amount : Nat) (row : CardRow) (p : Programme) : State :=
  let s := at7 (refAsk kind amount) row till7 p
  s.setStore { s.store with quarantine := [{ kind := .hold, index := 9, listedAt := none }] }
/-- The same with the hold row uncorrectable. -/
def refLost (kind amount : Nat) (row : CardRow) (p : Programme) : State :=
  (at7 (refAsk kind amount) row till7 p).putHoldStored 9 { val := hold9, ecc := lostBits }
/-- The hold's reference. -/
def ref9 : CardRef := { index := 9, gen := 4, amount := 1200 }
/-- A card without that hold. -/
def bare : CardRow := active lunchLots

theorem witness_HoldRenewMovesTheDeadline :
    (let k := onTill (refAsk 6 0)
    let s := fun h => refState 6 0 lunchCard lunch h
    let ended := { hold9 with deadline := 28951800 }
    let live := { hold9 with deadline := 28951801 }
    (TReady .holdRenew k bare till7 lunch (refState 6 0 bare lunch hold9) ∧ findRef k.req.hold (wk .holdRenew k bare lunch (refState 6 0 bare lunch hold9)) = none) ∧
    (TReady .holdRenew k lunchCard till7 lunch (refListed 6 0 lunchCard lunch) ∧ findRef k.req.hold lunchCard = some ref9 ∧
      (refListed 6 0 lunchCard lunch).isListed .hold 9 = true) ∧
    (TReady .holdRenew k lunchCard till7 lunch (refLost 6 0 lunchCard lunch) ∧ (refLost 6 0 lunchCard lunch).isListed .hold 9 = false ∧
      ((refLost 6 0 lunchCard lunch).hold 9).ecc.outcome = .uncorrectable) ∧
    (TReady .holdRenew k lunchCard till7 lunch (s ended) ∧ (s ended).hold 9 = { val := ended, ecc := .clean } ∧ ended.deadline ≤ (s ended).clock.now) ∧
    (TReady .holdRenew k lunchCard till7 lunch (s { live with renewals := 1 }) ∧ (s live).clock.now < live.deadline ∧ lunch.renewalLimit ≤ 1) ∧
    (TReady .holdRenew k lunchCard till7 lunch (s live) ∧ (s live).isListed .hold 9 = false ∧ (s live).hold 9 = { val := live, ecc := .clean } ∧
      findRef k.req.hold (wk .holdRenew k lunchCard lunch (s live)) = some ref9 ∧ (s live).clock.now < live.deadline ∧
      live.renewals < lunch.renewalLimit) ∧
    (let v := (s live).putHoldStored 9 { val := live, ecc := oneBit }
    TReady .holdRenew k lunchCard till7 lunch v ∧ HoldRead 9 live v (v.putHold 9 live))) := by
  refine ⟨⟨tready_of ?_, ?_⟩, ⟨tready_of ?_, ?_⟩, ⟨tready_of ?_, ?_⟩, ⟨tready_of ?_, ?_⟩, ⟨tready_of ?_, ?_⟩, ⟨tready_of ?_, ?_⟩,
    ⟨tready_of ?_, ?_, ?_, .inr ⟨?_, rfl⟩⟩⟩ <;> decide +kernel

theorem witness_HoldCloseCaptures :
    (let k := fun f => onTill (refAsk 7 f)
    let s := fun f row p h => refState 7 f row p h
    let live := { hold9 with deadline := 28951801 }
    let ended := { hold9 with deadline := 28951800 }
    let short : CardRow := { lunchCard with lots := [paid 1000] }
    let no := { lunch with partialAllowed := false }
    let funds := fun (row : CardRow) => (balance 20105 row.lots : Int) - row.held + 1200
    (TReady .holdClose (k 1) bare till7 lunch (s 1 bare lunch live) ∧ findRef (k 1).req.hold bare = none) ∧
    (TReady .holdClose (k 1) lunchCard till7 lunch (refListed 7 1 lunchCard lunch) ∧ (refListed 7 1 lunchCard lunch).isListed .hold 9 = true) ∧
    (TReady .holdClose (k 1) lunchCard till7 lunch (refLost 7 1 lunchCard lunch) ∧ (refLost 7 1 lunchCard lunch).isListed .hold 9 = false ∧
      ((refLost 7 1 lunchCard lunch).hold 9).ecc.outcome = .uncorrectable) ∧
    (TReady .holdClose (k 1) lunchCard till7 lunch (s 1 lunchCard lunch ended) ∧ ended.deadline ≤ (s 1 lunchCard lunch ended).clock.now) ∧
    (TReady .holdClose (k 1441) lunchCard till7 lunch (s 1441 lunchCard lunch live) ∧ 1200 + 1200 * lunch.tipTolerance / 100 < 1441) ∧
    (TReady .holdClose (k 1440) lunchCard till7 lunch (s 1440 lunchCard lunch live) ∧ ¬ 1200 + 1200 * lunch.tipTolerance / 100 < 1440 ∧
      1440 ≤ funds lunchCard ∧ wk .holdClose (k 1440) lunchCard lunch (s 1440 lunchCard lunch live) = lunchCard ∧
      findRef (k 1440).req.hold lunchCard = some ref9 ∧ (s 1440 lunchCard lunch live).hold 9 = { val := live, ecc := .clean } ∧
      (s 1440 lunchCard lunch live).clock.now < live.deadline) ∧
    (TReady .holdClose (k 1001) short till7 lunch (s 1001 short lunch live) ∧ funds short < 1001 ∧ lunch.partialAllowed = true ∧ 1 ≤ funds short) ∧
    (TReady .holdClose (k 1001) short till7 no (s 1001 short no live) ∧ funds short < 1001 ∧ no.partialAllowed = false)) := by
  refine ⟨⟨tready_of ?_, ?_⟩, ⟨tready_of ?_, ?_⟩, ⟨tready_of ?_, ?_⟩, ⟨tready_of ?_, ?_⟩, ⟨tready_of ?_, ?_⟩, ⟨tready_of ?_, ?_⟩, ⟨tready_of ?_, ?_⟩, ⟨tready_of ?_, ?_⟩⟩ <;>
    decide +kernel

theorem witness_HoldCancelReleases :
    (let k := onTill (refAsk 8 0)
    let ko := onOffice (refAsk 8 0)
    let s := fun h => refState 8 0 lunchCard lunch h
    let live := { hold9 with deadline := 28951801 }
    let ended := { hold9 with deadline := 28951800 }
    let so := sit ko lunchCard till7 lunch
    let officeLost := so.putHoldStored 9 { val := hold9, ecc := lostBits }
    let officeListed := so.setStore { so.store with quarantine := [{ kind := .hold, index := 9, listedAt := none }] }
    (TReady .holdCancel k bare till7 lunch (refState 8 0 bare lunch live) ∧ findRef k.req.hold bare = none) ∧
    (TReady .holdCancel k lunchCard till7 lunch (refListed 8 0 lunchCard lunch) ∧ k.onOfficeLane = false) ∧
    (TReady .holdCancel ko lunchCard till7 lunch officeListed ∧ ko.onOfficeLane = true ∧ officeListed.isListed .hold 9 = true) ∧
    (TReady .holdCancel k lunchCard till7 lunch (refLost 8 0 lunchCard lunch) ∧ (refLost 8 0 lunchCard lunch).isListed .hold 9 = false ∧
      ((refLost 8 0 lunchCard lunch).hold 9).ecc.outcome = .uncorrectable) ∧
    (TReady .holdCancel ko lunchCard till7 lunch officeLost ∧ officeLost.isListed .hold 9 = false ∧
      (officeLost.hold 9).ecc.outcome = .uncorrectable) ∧
    (TReady .holdCancel k lunchCard till7 lunch (s ended) ∧ ended.deadline ≤ (s ended).clock.now) ∧
    (TReady .holdCancel k lunchCard till7 lunch (s live) ∧ findRef k.req.hold (wk .holdCancel k lunchCard lunch (s live)) = some ref9 ∧
      (s live).isListed .hold 9 = false ∧ (s live).hold 9 = { val := live, ecc := .clean } ∧ (s live).clock.now < live.deadline)) := by
  refine ⟨⟨tready_of ?_, ?_⟩, ⟨tready_of ?_, ?_⟩, ⟨tready_of ?_, ?_⟩, ⟨tready_of ?_, ?_⟩, ⟨tready_of ?_, ?_⟩, ⟨tready_of ?_, ?_⟩, ⟨tready_of ?_, ?_⟩⟩ <;> decide +kernel

/-- A REVERSE of sequence 41. -/
def revAsk : Ask := { tillAsk 9 43 0 with target := 41 }
/-- Its till row, with one recent entry. -/
def revTill (x : RecentEntry) : TillRow := { till7 with recent := [x] }
/-- Its state. -/
def revState (x : RecentEntry) : State := at7 revAsk (active [paid 150]) (revTill x) lunch
/-- The recent entry of a HOLD_OPEN of hold 9. -/
def opened : RecentEntry := { loaded with kind := some .holdOpen, ref := some { index := 9, gen := 4 }, parts := [] }

theorem witness_ReverseRestoresOrTakesBack :
    (let k := onTill revAsk
    let redeemed := { loaded with kind := some .redeem, parts := [paid 1000] }
    let plain := { loaded with parts := [] }
    (TReady .reverse k (active [paid 150]) (revTill redeemed) lunch (revState redeemed) ∧ findRecent k.req.target (revTill redeemed).recent = some redeemed ∧
      redeemed.state = .answered ∧ redeemed.cardRow = some 123 ∧ redeemed.result = some .approved ∧ redeemed.kind = some .redeem) ∧
    (TReady .reverse k (active [paid 150]) (revTill loaded) lunch (revState loaded) ∧ findRecent k.req.target (revTill loaded).recent = some loaded ∧
      loaded.kind = some .load ∧ loaded.parts = [{ expiry := some 20560, amount := 100 }]) ∧
    (TReady .reverse k (active [paid 150]) (revTill plain) lunch (revState plain) ∧ findRecent k.req.target (revTill plain).recent = some plain ∧
      plain.kind = some .load ∧ plain.parts = [])) := by
  refine ⟨⟨tready_of ?_, ?_⟩, ⟨tready_of ?_, ?_⟩, ⟨tready_of ?_, ?_⟩⟩ <;> decide +kernel

theorem witness_ReverseOfOtherTargets :
    (let k := onTill revAsk
    let row := active [paid 150]
    let found := fun x => findRecent k.req.target (revTill x).recent = some x
    let other := { loaded with seq := 40 }
    let ahead := { loaded with state := .reversedAhead, kind := none, requested := none, result := none, reason := none, approved := none, parts := [] }
    let strange := { loaded with cardRow := some 124 }
    let gone := { loaded with state := .reversed }
    let declined := { loaded with result := some .declined, reason := some .cardFull }
    let sh := fun (r : CardRow) (h : HoldRow) => (at7 revAsk r (revTill opened) lunch).putHold 9 h
    let live := { hold9 with deadline := 28951801 }
    let ended := { hold9 with deadline := 28951800 }
    let ko := onOffice revAsk
    let so := sit ko lunchCard (revTill opened) lunch
    let tillLost := (at7 revAsk lunchCard (revTill opened) lunch).putHoldStored 9 { val := hold9, ecc := lostBits }
    let officeLost := so.putHoldStored 9 { val := hold9, ecc := lostBits }
    let officeListed := so.setStore { so.store with quarantine := [{ kind := .hold, index := 9, listedAt := none }] }
    let sl := (revState opened).setStore { (at7 revAsk lunchCard (revTill opened) lunch).store with quarantine := [{ kind := .hold, index := 9, listedAt := none }] }
    (TReady .reverse k row (revTill other) lunch (revState other) ∧ findRecent k.req.target (revTill other).recent = none) ∧
    (TReady .reverse k row (revTill ahead) lunch (revState ahead) ∧ found ahead ∧ ahead.state = .reversedAhead) ∧
    (TReady .reverse k row (revTill strange) lunch (revState strange) ∧ found strange ∧ strange.cardRow = some 124) ∧
    (TReady .reverse k row (revTill gone) lunch (revState gone) ∧ found gone ∧ gone.cardRow = some 123 ∧ gone.state = .reversed) ∧
    (TReady .reverse k row (revTill declined) lunch (revState declined) ∧ found declined ∧ declined.state = .answered ∧
      declined.result ≠ some .approved ∧ declined.result ≠ some .partly) ∧
    (TReady .reverse k row (revTill opened) lunch (revState opened) ∧ found opened ∧ opened.kind = some .holdOpen ∧
      findRef { index := 9, gen := 4 } row = none) ∧
    (TReady .reverse k lunchCard (revTill opened) lunch sl ∧ findRef { index := 9, gen := 4 } lunchCard = some ref9 ∧ sl.isListed .hold 9 = true ∧
      k.onOfficeLane = false) ∧
    (TReady .reverse k lunchCard (revTill opened) lunch tillLost ∧ tillLost.isListed .hold 9 = false ∧
      (tillLost.hold 9).ecc.outcome = .uncorrectable) ∧
    (TReady .reverse ko lunchCard (revTill opened) lunch officeListed ∧ findRef { index := 9, gen := 4 } lunchCard = some ref9 ∧
      officeListed.isListed .hold 9 = true ∧ ko.onOfficeLane = true) ∧
    (TReady .reverse ko lunchCard (revTill opened) lunch officeLost ∧ officeLost.isListed .hold 9 = false ∧
      (officeLost.hold 9).ecc.outcome = .uncorrectable) ∧
    (TReady .reverse k lunchCard (revTill opened) lunch (sh lunchCard ended) ∧ ended.deadline ≤ (sh lunchCard ended).clock.now) ∧
    (TReady .reverse k lunchCard (revTill opened) lunch (sh lunchCard live) ∧ found opened ∧
      findRef { index := 9, gen := 4 } (wk .reverse k lunchCard lunch (sh lunchCard live)) = some ref9 ∧
      (sh lunchCard live).hold 9 = { val := live, ecc := .clean } ∧ (sh lunchCard live).clock.now < live.deadline)) := by
  refine ⟨⟨tready_of ?_, ?_⟩, ⟨tready_of ?_, ?_⟩, ⟨tready_of ?_, ?_⟩, ⟨tready_of ?_, ?_⟩, ⟨tready_of ?_, ?_⟩, ⟨tready_of ?_, ?_⟩, ⟨tready_of ?_, ?_⟩, ⟨tready_of ?_, ?_⟩, ⟨tready_of ?_, ?_⟩, ⟨tready_of ?_, ?_⟩,
    ⟨tready_of ?_, ?_⟩, ⟨tready_of ?_, ?_⟩⟩ <;> decide +kernel

/-! ### Witnesses: admission -/

/-- A till request of the tests up to its till row, the outside world quiet. -/
def TPosted (kd : RequestKind) (k : Work) (t : TillRow) (s : State) : Prop := s.outside q = s ∧ Posted kd 0 k s ∧ TillReads k t s
/-- The facts behind it, as one test. -/
def tpostedB (kd : RequestKind) (k : Work) (t : TillRow) (s : State) : Bool :=
  decide (s.atStepOne 0 = some k ∧ k.kind? = some kd ∧ requestWellFormed k.half = true ∧ (kd.isTill = true ∨ k.onOfficeLane = true) ∧
    s.trailOwing s.store.trailPlace = false) &&
  decide (k.req.tillIndex < Config.tills ∧ s.isListed .till k.req.tillIndex = false ∧ s.tillRow k.req.tillIndex = { val := t, ecc := .clean } ∧
    t.admits k.req = true ∧ s.lockHeld (.till k.req.tillIndex) = false ∧ s.locks.till.length < Config.bankSize)
theorem tposted_of {kd : RequestKind} {k : Work} {t : TillRow} {s : State} (h : tpostedB kd k t s = true) : TPosted kd k t s := by
  simp only [tpostedB, Bool.and_eq_true] at h
  exact ⟨rfl, posted_of (of_decide_eq_true h.1), tillReads_of (of_decide_eq_true h.2)⟩

/-- The same, the sequence new and the standing admitted. -/
def TPast (kd : RequestKind) (k : Work) (t : TillRow) (s : State) : Prop := s.outside q = s ∧ Posted kd 0 k s ∧ TillPasses kd k t s
theorem tpast_of {kd : RequestKind} {k : Work} {t : TillRow} {s : State} (h : tpostedB kd k t s = true)
    (g : findRecent k.req.seq t.recent = none ∧ standingGate kd (t.atSecondReading s.dir.recovery s.clock.reading.index).standing = none) :
    TPast kd k t s := ⟨rfl, (tposted_of h).2.1, tillPasses_of (tposted_of h).2.2 g⟩

theorem witness_StepsOneAndTwoDecline :
    (let bad := onTill { tillAsk 3 300 0 with till := 7 }
    let office := onTill { kind := 27, addr := 4096 }
    let unknown := onTill (tillAsk 99 300 0)
    let s := fun k => sit k {} till7 lunch
    (quietPart.outside q = quietPart ∧ quietPart.atStepOne 0 = none) ∧
    ((s bad).atStepOne 0 = some bad ∧ ofKind .load bad.req = true ∧ requestWellFormed bad.half = false ∧ ofKind .redeem bad.req = false ∧
      (s bad).trailOwing 0 = false) ∧
    ((s office).atStepOne 0 = some office ∧ office.kind? = some .quarantineRead ∧ requestWellFormed office.half = true ∧ office.onOfficeLane = false) ∧
    ((s unknown).atStepOne 0 = some unknown ∧ ofUnknownKind unknown.req = true) ∧
    ∃ row, (Instr.load, row) ∈ requestCommands) := by
  refine ⟨⟨rfl, ?_⟩, ?_, ?_, ?_, ofKind .load, by simp [requestCommands]⟩ <;> decide +kernel

theorem witness_TillAdmissionDeclinesByTheFirstFailedTest :
    (let k := fun r => onTill r
    let r := tillAsk 4 300 100
    let row := active [paid 900]
    let s := fun r row p => at7 r row till7 p
    let past := fun r p => TPast .redeem (k r) till7 (s r row p)
    let outside : Ask := { r with till := 32768 }
    let noRule := fun (p : Programme) => ({ at7 r row till7 p with tables := { programmes := [(2, p)] } } : State)
    let narrow := { lunch with kinds := 0 }
    let few := { lunch with rowCount := 123 }
    let listed := (s r row lunch).setStore { (s r row lunch).store with quarantine := [{ kind := .card, index := 123, listedAt := none }] }
    let lost := (s r row lunch).putCardStored 123 { val := row, ecc := lostBits }
    (Instr.redeem, RequestKind.redeem) ∈ tillCommands ∧
    ((s outside row lunch).atStepOne 0 = some (k outside) ∧ requestWellFormed (k outside).half = true ∧ 32768 ≤ (k outside).req.tillIndex) ∧
    ((s r row lunch).tillRow 7 = { val := till7, ecc := .clean } ∧ till7.storeNo ≠ (k { r with id := [1, 2, 3, 5, 5, 6] }).req.storeNo) ∧
    (past { r with card := card.take 18 ++ [8] } lunch ∧ checkDigitOk (k { r with card := card.take 18 ++ [8] }).req.digits = false) ∧
    (TPast .redeem (k r) till7 (noRule lunch) ∧ checkDigitOk (k r).req.digits = true ∧ selectProgramme (noRule lunch).tables (k r).req.digits = none) ∧
    (past r narrow ∧ selectProgramme (s r row narrow).tables (k r).req.digits = some (sel narrow) ∧ kindAllowed .redeem (sel narrow) = false) ∧
    (past r few ∧ kindAllowed .redeem (sel few) = true ∧ few.rowCount ≤ (k r).req.serial) ∧
    (TPast .redeem (k r) till7 listed ∧ (k r).req.serial < lunch.rowCount ∧ listed.isListed .card 123 = true) ∧
    (TPast .redeem (k r) till7 lost ∧ lost.isListed .card 123 = false ∧ lost.lockHeld (.card 123) = false ∧ (lost.card 123).ecc.outcome = .uncorrectable) ∧
    (TPast .redeem (k r) till7 (s r { row with programme := 3 } lunch) ∧ (s r { row with programme := 3 } lunch).card 123 = { val := { row with programme := 3 }, ecc := .clean }) ∧
    (TPast .redeem (k r) till7 (s r { row with state := .suspended } lunch) ∧
      owned { row with state := .suspended } 2 = true ∧ GateDeclines .redeem .suspended .suspended)) := by
  refine ⟨by simp [tillCommands], ?_, ?_, ⟨tpast_of ?_ ?_, ?_⟩, ⟨tpast_of ?_ ?_, ?_⟩, ⟨tpast_of ?_ ?_, ?_⟩, ⟨tpast_of ?_ ?_, ?_⟩, ⟨tpast_of ?_ ?_, ?_⟩,
    ⟨tpast_of ?_ ?_, ?_⟩, ⟨tpast_of ?_ ?_, ?_⟩, ⟨tpast_of ?_ ?_, ?_, .inr (.inl ⟨rfl, ?_, ?_, ?_, rfl⟩)⟩⟩ <;> decide +kernel
/-- R4's table (log 53): an ISSUED card admits ACTIVATE and BALANCE alone. -/
theorem test_gate_on_issued :
    stateGate .reverse .issued = some .notActive ∧ stateGate .load .issued = some .notActive ∧
    stateGate .activate .issued = none ∧ stateGate .reverse .locked = none := ⟨rfl, rfl, rfl, rfl⟩

theorem witness_CheckDigitTestAtStepSeven :
    (let bad := card.take 18 ++ [8]
    let office := onOffice { officeAsk 18 1 with card := bad }
    let s := sit office (active []) till7 lunch
    (card.length = 19 ∧ (∀ d ∈ card, d ≤ 9)) ∧
    (TPast .balance (onTill { tillAsk 1 300 0 with card := bad }) till7 (at7 { tillAsk 1 300 0 with card := bad } (active []) till7 lunch) ∧
      checkDigitOk bad = false) ∧
    (s.outside q = s ∧ Posted .cardStatus 0 office s ∧ ofAction .cardStatus 1 office.req = true ∧ checkDigitOk office.req.digits = false) ∧
    (Instr.cardStatusSuspend, ofAction .cardStatus 1) ∈ requestCommands ∧ till7.barred = false ∧ till7.score ≤ 247) := by
  refine ⟨?_, ⟨tpast_of ?_ ?_, ?_⟩, ⟨rfl, posted_of ?_, ?_⟩, by simp [requestCommands], ?_⟩ <;> decide +kernel

theorem witness_RepeatsClashesAndTheStandingGate :
    (let r := tillAsk 3 41 1000
    let k := onTill r
    let s := fun t => at7 r (active []) t lunch
    let t := revTill loaded
    let ahead := revTill { loaded with state := .reversedAhead }
    let rev := onTill { tillAsk 9 41 0 with target := 40 }
    let clash := onTill (tillAsk 3 41 1001)
    let restricted := { till7 with score := 128, standing := .restricted }
    let barred := { till7 with score := 255, standing := .barred, barred := true, lastMinute := some 28951673 }
    (Instr.load, RequestKind.load) ∈ tillCommands ∧
    (TPosted .load k t (s t) ∧ findRecent 41 t.recent = some loaded ∧ loaded.kind = some .load ∧ loaded.digits = k.req.digits ∧
      loaded.requested = some k.req.amount) ∧
    (TPosted .load k ahead (s ahead) ∧ findRecent 41 ahead.recent = some { loaded with state := .reversedAhead }) ∧
    (TPosted .reverse rev ahead (sit rev (active []) ahead lunch)) ∧
    (TPosted .load clash t (sit clash (active []) t lunch) ∧ loaded.requested ≠ some clash.req.amount) ∧
    (TPosted .load k restricted (s restricted) ∧ findRecent 41 restricted.recent = none ∧
      (restricted.atSecondReading 1 28951800).standing = .restricted) ∧
    (TPosted .load k barred (s barred) ∧ (barred.atSecondReading 1 28951800).standing = .barred)) := by
  refine ⟨by simp [tillCommands], ⟨tposted_of ?_, ?_⟩, ⟨tposted_of ?_, ?_⟩, tposted_of ?_, ⟨tposted_of ?_, ?_⟩, ⟨tposted_of ?_, ?_⟩,
    ⟨tposted_of ?_, ?_⟩⟩ <;> decide +kernel

theorem witness_CodeCheckDeclines :
    (let p := { lunch with codePolicy := .always }
    let row := fun n => { active [paid 900] with code := some 4716, tries := n }
    let ask := fun kd code => { tillAsk kd 300 0 with code := code, amount := if kd = 1 then 0 else 100 }
    let k := fun kd code => onTill (ask kd code)
    let s := fun kd code n => at7 (ask kd code) (row n) till7 p
    let ok := fun rk kd code n => TPast rk (k kd code) till7 (s kd code n) ∧ CardPasses rk (k kd code) (sel p) 123 (row n) (s kd code n)
    let noRoom := (s 1 [0x11, 0x11] 2).setJournal { reserved := 1024 }
    (owned (row 0) 2 = true ∧ (upkeep .redeem (sel p) (s 4 [0xFF, 0xFF] 0).clock.reading (row 0)).state = .active ∧ (row 0).code ≠ none ∧
      p.codePolicy = .always ∧ cardGate .redeem .active = none) ∧
    (ok .redeem 4 [0xFF, 0xFF] 0 ∧ (k 4 [0xFF, 0xFF]).req.code = [0xFF, 0xFF]) ∧
    (ok .redeem 4 [0x11, 0x11] 1 ∧ (k 4 [0x11, 0x11]).req.code ≠ [0xFF, 0xFF] ∧ (k 4 [0x11, 0x11]).req.codeValue = 1111 ∧ min (1 + 1) 7 < p.triesLimit) ∧
    (ok .redeem 4 [0x11, 0x11] 2 ∧ p.triesLimit ≤ min (2 + 1) 7) ∧
    (ok .balance 1 [0x11, 0x11] 2 ∧
      (s 1 [0x11, 0x11] 2).journal.written - (s 1 [0x11, 0x11] 2).journal.cached + (s 1 [0x11, 0x11] 2).journal.reserved + 1 ≤ 1024) ∧
    (TPast .balance (k 1 [0x11, 0x11]) till7 (noRoom.setLink { noRoom.link with readsFail := [(0x300000, 1)] }) ∧
      1024 < noRoom.journal.reserved + 1 ∧ linkRead (noRoom.setLink { noRoom.link with readsFail := [(0x300000, 1)] }) 0x300000 8 = none)) := by
  refine ⟨?_, ⟨⟨tpast_of ?_ ?_, cardPasses_of ?_⟩, ?_⟩, ⟨⟨tpast_of ?_ ?_, cardPasses_of ?_⟩, ?_⟩, ⟨⟨tpast_of ?_ ?_, cardPasses_of ?_⟩, ?_⟩,
    ⟨⟨tpast_of ?_ ?_, cardPasses_of ?_⟩, ?_⟩, ⟨tpast_of ?_ ?_, ?_⟩⟩ <;> decide +kernel

/-! ### Witnesses: the office kinds -/

theorem witness_CardStatusAndBonusGrant :
    (let k := fun a => onOffice (officeAsk 18 a)
    let s := fun a row => sit (k a) row till7 lunch
    let g := fun amount day => onOffice { officeAsk 19 0 with amount := amount, params := leBytes 2 day }
    let gs := fun amount day row => sit (g amount day) row till7 lunch
    let stored := (s 4 lunchCard).putHold 9 hold9
    let listed := (s 4 lunchCard).setStore { (s 4 lunchCard).store with quarantine := [{ kind := .hold, index := 9, listedAt := none }] }
    let lost := (s 4 lunchCard).putHoldStored 9 { val := hold9, ecc := lostBits }
    (OReady .cardStatus (k 1) (active []) lunch (s 1 (active [])) ∧ (k 1).req.action = 1) ∧
    (OReady .cardStatus (k 2) (active []) lunch (s 2 (active [])) ∧ (active []).state ≠ .suspended) ∧
    (OReady .cardStatus (k 2) { state := .suspended, programme := 2 } lunch (s 2 { state := .suspended, programme := 2 }) ∧ (k 2).req.action = 2) ∧
    (OReady .cardStatus (k 3) { state := .locked, programme := 2 } lunch (s 3 { state := .locked, programme := 2 }) ∧ (k 3).req.action = 3) ∧
    (OReady .cardStatus (k 4) lunchCard lunch stored ∧ (k 4).req.action = 4 ∧
      (workingRow .cardStatus (k 4) (sel lunch) lunchCard stored).refs = [ref9] ∧ stored.isListed .hold 9 = false ∧ (stored.hold 9).ecc = .clean) ∧
    (OReady .cardStatus (k 4) lunchCard lunch listed ∧ listed.isListed .hold 9 = true) ∧
    (OReady .cardStatus (k 4) lunchCard lunch lost ∧ lost.isListed .hold 9 = false ∧ (lost.hold 9).ecc.outcome = .uncorrectable) ∧
    (OReady .bonusGrant (g 1 20104) (active []) lunch (gs 1 20104 (active [])) ∧ fieldAt (g 1 20104).req.params 0 2 < 20105) ∧
    (OReady .bonusGrant (g 1 20105) (active [paid 50000]) lunch (gs 1 20105 (active [paid 50000])) ∧ lunch.cap < balance 20105 [paid 50000] + 1) ∧
    (OReady .bonusGrant (g 1 20105) (active full) lunch (gs 1 20105 (active full)) ∧ addBonus 1 20105 full = none) ∧
    (OReady .bonusGrant (g 1 20105) (active [paid 49999]) lunch (gs 1 20105 (active [paid 49999])) ∧ balance 20105 [paid 49999] + 1 ≤ lunch.cap ∧
      addBonus 1 20105 [paid 49999] = some [bonus 20105 1, paid 49999])) := by
  refine ⟨⟨oready_of ?_ (.inl rfl) ?_, ?_⟩, ⟨oready_of ?_ (.inl rfl) ?_, ?_⟩, ⟨oready_of ?_ (.inl rfl) ?_, ?_⟩, ⟨oready_of ?_ (.inl rfl) ?_, ?_⟩, ⟨oready_of ?_ (.inl rfl) ?_, ?_⟩, ⟨oready_of ?_ (.inl rfl) ?_, ?_⟩,
    ⟨oready_of ?_ (.inl rfl) ?_, ?_⟩, ⟨oready_of ?_ (.inr rfl) ?_, ?_⟩, ⟨oready_of ?_ (.inr rfl) ?_, ?_⟩, ⟨oready_of ?_ (.inr rfl) ?_, ?_⟩,
    ⟨oready_of ?_ (.inr rfl) ?_, ?_⟩⟩ <;> decide +kernel

/-- An image with one reference, to hold row 9. -/
def refImage : List Byte :=
  [2, 2, 0xFF, 0xFF, 0, 0, 1, 0] ++ zeroBytes 64 ++ leBytes 4 9 ++ [4, 0, 0, 0] ++ leBytes 4 1200 ++ zeroBytes 36 ++ List.replicate 8 0xFF
/-- The row that image gives. -/
def refRow : CardRow := { active [] with refs := [ref9], held := 1200 }

theorem witness_RowReadAndRowWrite :
    (let rd := onOffice { officeAsk 17 0 with addr := 0x60000 }
    let wr := onOffice { officeAsk 16 0 with addr := 0x60000 }
    let s := fun k row (bs : List Byte) => ({ sit k row till7 lunch with link := { mem := cells 0x60000 bs } } : State)
    let fails := { s rd (active []) [] with link := { writesFail := [(0x6007F, 1)] } }
    let unread := { s wr (active []) image with link := { readsFail := [(0x6007F, 1)] } }
    let closed := [5, 2, 0xFF, 0xFF] ++ zeroBytes 116 ++ List.replicate 8 0xFF
    let lost := fun (h : HoldRow) => ((s wr {} refImage).putHold 9 h).setStore
      { ((s wr {} refImage).putHold 9 h).store with quarantine := [{ kind := .card, index := 123, listedAt := none }] }
    let lostBoth := (lost hold9).setStore { (lost hold9).store with
      quarantine := [{ kind := .card, index := 123, listedAt := none }, { kind := .hold, index := 9, listedAt := none }] }
    (RowReady .rowRead 0 rd (sel lunch) 123 (active []) (s rd (active []) []) ∧ (active []).image.length = 128 ∧
      ∀ i, i < 128 → (s rd (active []) []).link.writeFailsAt (0x60000 + i) = false) ∧
    (RowReady .rowRead 0 rd (sel lunch) 123 (active []) fails ∧ fails.link.writeFailsAt (0x60000 + 127) = true) ∧
    (RowReady .rowWrite 0 wr (sel lunch) 123 (active []) unread ∧ linkRead unread wr.req.address 128 = none) ∧
    (RowReady .rowWrite 0 wr (sel lunch) 123 (active []) (s wr (active []) []) ∧
      linkRead (s wr (active []) []) wr.req.address 128 = some (zeroBytes 128) ∧ rowOfImage 33554432 2 (zeroBytes 128) = none) ∧
    (RowReady .rowWrite 0 wr (sel lunch) 123 lunchCard (s wr lunchCard closed) ∧
      rowOfImage (s wr lunchCard closed).holdRows 2 closed = some { state := .closed, programme := 2 } ∧ lunchCard.refs ≠ []) ∧
    (RowReady .rowWrite 0 wr (sel lunch) 123 lunchCard (s wr lunchCard image) ∧ linkRead (s wr lunchCard image) wr.req.address 128 = some image ∧
      rowOfImage (s wr lunchCard image).holdRows 2 image = some { issued with code := some 1234 }) ∧
    (Posted .rowWrite 0 wr (lost hold9) ∧ selectProgramme (lost hold9).tables wr.req.digits = some (sel lunch) ∧ (lost hold9).isListed .card 123 = true ∧
      linkRead (lost hold9) wr.req.address 128 = some refImage ∧ rowOfImage (lost hold9).holdRows 2 refImage = some refRow ∧
      (lost hold9).isListed .hold 9 = false ∧ (lost hold9).hold 9 = { val := hold9, ecc := .clean } ∧ hold9.card = 123) ∧
    (Posted .rowWrite 0 wr lostBoth ∧ lostBoth.isListed .hold 9 = true)) := by
  refine ⟨⟨rowReady_of ?_ (.inl rfl), ?_⟩, ⟨rowReady_of ?_ (.inl rfl), ?_⟩, ⟨rowReady_of ?_ (.inr rfl), ?_⟩, ⟨rowReady_of ?_ (.inr rfl), ?_⟩,
    ⟨rowReady_of ?_ (.inr rfl), ?_⟩, ⟨rowReady_of ?_ (.inr rfl), ?_⟩, ⟨posted_of ?_, ?_⟩, ⟨posted_of ?_, ?_⟩⟩ <;> decide +kernel

theorem witness_CardImageRoundTrip :
    (let c : CardRow := { lunchCard with
      code := some 9999, tries := 7, windowIndex := 94371839, windowCount := 255, lastMovement := 2 ^ 48 - 1, activationDay := some 65535 }
    lotsWf c.lots = true ∧ c.held = (c.refs.map (·.amount)).sum ∧ c.image.length = 128 ∧ rowOfImage 33554432 2 c.image = some c) := by
  decide +kernel

theorem tillTable_of {kd : RequestKind} {k : Work} {s : State} (o : kd = .tillWrite ∨ kd = .tillRelease)
    (h : s.atStepOne 0 = some k ∧ k.kind? = some kd ∧ requestWellFormed k.half = true ∧ (kd.isTill = true ∨ k.onOfficeLane = true) ∧
      s.trailOwing s.store.trailPlace = false)
    (g : s.lockHeld (.till k.req.tillIndex) = false ∧ s.locks.till.length < Config.bankSize) : TillTableReady kd 0 k s :=
  ⟨posted_of h, o, g.1, g.2⟩

theorem witness_TillWriteAndTillRelease :
    (let wr := fun a => onOffice { kind := 20, action := a, till := 32767, id := if a = 1 then [1, 2, 3, 4, 5, 6] else [0, 0, 0, 0, 0, 0] }
    let rel := onOffice { kind := 21, till := 7, id := [1, 2, 3, 4, 5, 6] }
    let s := fun k t => sit k {} t lunch
    let listed := (s rel till7).setStore { (s rel till7).store with quarantine := [{ kind := .till, index := 7, listedAt := none }] }
    (TillTableReady .tillWrite 0 (wr 1) (s (wr 1) till7) ∧ (wr 1).req.action = 1) ∧ (TillTableReady .tillWrite 0 (wr 2) (s (wr 2) till7) ∧ (wr 2).req.action = 2) ∧
    (TillTableReady .tillRelease 0 rel listed ∧ listed.isListed .till 7 = true) ∧
    (TillTableReady .tillRelease 0 rel (s rel {}) ∧ (s rel {}).tillRow 7 = { val := {}, ecc := .clean }) ∧
    (TillTableReady .tillRelease 0 rel (s rel till7) ∧ (s rel till7).isListed .till 7 = false ∧ (s rel till7).tillRow 7 = { val := till7, ecc := .clean } ∧
      till7.registered = true ∧ till7.storeNo = rel.req.storeNo ∧ till7.tillNo = rel.req.tillNo)) := by
  refine ⟨⟨tillTable_of (.inl rfl) ?_ ?_, ?_⟩, ⟨tillTable_of (.inl rfl) ?_ ?_, ?_⟩, ⟨tillTable_of (.inr rfl) ?_ ?_, ?_⟩,
    ⟨tillTable_of (.inr rfl) ?_ ?_, ?_⟩, ⟨tillTable_of (.inr rfl) ?_ ?_, ?_⟩⟩ <;> decide +kernel

/-- An office request without a card number, at step 1 in the tests' part. -/
def TaReady (kd : RequestKind) (k : Work) (s : State) : Prop := s.outside q = s ∧ TableReady kd 0 k s
theorem taReady_of {kd : RequestKind} {k : Work} {s : State}
    (o : kd = .ruleWrite ∨ kd = .programmeWrite ∨ kd = .laneMode ∨ kd = .clockSet ∨ kd = .trailRead ∨ kd = .quarantineRead)
    (h : s.atStepOne 0 = some k ∧ k.kind? = some kd ∧ requestWellFormed k.half = true ∧ (kd.isTill = true ∨ k.onOfficeLane = true) ∧
      s.trailOwing s.store.trailPlace = false) : TaReady kd k s := ⟨rfl, posted_of h, o⟩

theorem witness_TableRequestsActAtTheirCommitPoint :
    (let s := fun (r : Ask) => sit (onOffice r) {} till7 lunch
    let rw_ := fun ix => ({ kind := 22, params := [ix, 1, 0x60, 0x01, 0x20, 0x00, 0x1F, 15, 0xFF, 0x01, 0x36, 0x01] } : Ask)
    let pw : Ask := { kind := 23, addr := 0x50000, params := [3] }
    let lm := fun a n => ({ kind := 24, action := a, params := [n] } : Ask)
    let cs := fun m => ({ kind := 25, params := leBytes 2 20105 ++ leBytes 2 m ++ [59] } : Ask)
    let mem := fun base => ({ s pw with link := { mem := cells 0x50000 (record base) } } : State)
    (TaReady .ruleWrite (onOffice (rw_ 63)) (s (rw_ 63)) ∧ fieldAt (onOffice (rw_ 63)).req.params 0 1 ≤ 63) ∧
    (TaReady .ruleWrite (onOffice (rw_ 64)) (s (rw_ 64)) ∧ ¬ fieldAt (onOffice (rw_ 64)).req.params 0 1 ≤ 63) ∧
    (TaReady .programmeWrite (onOffice pw) { s pw with link := { readsFail := [(0x5003F, 1)] } } ∧
      linkRead { s pw with link := { readsFail := [(0x5003F, 1)] } } 0x50000 64 = none) ∧
    (TaReady .programmeWrite (onOffice pw) (s pw) ∧ linkRead (s pw) 0x50000 64 = some (zeroBytes 64) ∧
      (programmeOfBytes (zeroBytes 64)).map (·.rangesOk) = some false) ∧
    (TaReady .programmeWrite (onOffice pw) (mem 999) ∧ (programmeOfBytes (record 999)).map (fun r => (r.rangesOk, r.rowBase)) = some (true, 999) ∧
      999 < lunch.rowBase + lunch.rowCount) ∧
    (TaReady .programmeWrite (onOffice pw) (mem 1000) ∧ (programmeOfBytes (record 1000)).map (fun r => (r.rangesOk, r.rowBase)) = some (true, 1000)) ∧
    (TaReady .laneMode (onOffice (lm 1 1)) (s (lm 1 1)) ∧ (s (lm 1 1)).laneEntry 1 = some office1 ∧ (s (lm 1 1)).control.engine = .running) ∧
    (TaReady .laneMode (onOffice (lm 2 2)) (s (lm 2 2)) ∧ (s (lm 2 2)).dir.laneCount ≤ 2) ∧
    (TaReady .clockSet (onOffice (cs 720)) (s (cs 720)) ∧ 20105 * 1440 + 720 ≤ (s (cs 720)).clock.now + 120) ∧
    (TaReady .clockSet (onOffice (cs 721)) (s (cs 721)) ∧ (s (cs 721)).clock.now + 120 < 20105 * 1440 + 721) ∧
    (let far := (s (cs 720)).setHolds { (s (cs 720)).holds with sweep := some 28947824 }
    TaReady .clockSet (onOffice (cs 720)) far ∧ far.clock.now < 28951920 ∧ (4096 : Int) ≤ 28951920 - 28947824 ∧ far.header.damaged = false) ∧
    (TaReady .clockSet (onOffice (cs 599)) (s (cs 599)) ∧ 20105 * 1440 + 599 < (s (cs 599)).clock.now ∧ (s (cs 599)).holds.sweep = some 28951800)) := by
  refine ⟨⟨taReady_of (by simp) ?_, ?_⟩, ⟨taReady_of (by simp) ?_, ?_⟩, ⟨taReady_of (by simp) ?_, ?_⟩, ⟨taReady_of (by simp) ?_, ?_⟩,
    ⟨taReady_of (by simp) ?_, ?_⟩, ⟨taReady_of (by simp) ?_, ?_⟩, ⟨taReady_of (by simp) ?_, ?_⟩, ⟨taReady_of (by simp) ?_, ?_⟩,
    ⟨taReady_of (by simp) ?_, ?_⟩, ⟨taReady_of (by simp) ?_, ?_⟩, ⟨taReady_of (by simp) ?_, ?_⟩, ⟨taReady_of (by simp) ?_, ?_⟩⟩ <;> decide +kernel

/-- A quiet link fails no write below the last host address. -/
theorem quiet_writable (a n : Nat) (h : a + n ≤ Config.hostAddresses) (l : Link) (hl : l.writesFail = []) : l.writable a n := by
  intro i hi
  have h : a + i < Config.hostAddresses := by omega
  simp [Link.writeFailsAt, inRanges, hl, h]

theorem witness_ReadOutsGoToTheHost :
    (let qr : Ask := { kind := 27, addr := 0x70000 }
    let tr : Ask := { kind := 26, addr := 0x70000 }
    let s := fun (r : Ask) => sit (onOffice r) {} till7 lunch
    (TaReady .quarantineRead (onOffice qr) (s qr) ∧ (s qr).link.writable (onOffice qr).req.address 1040) ∧
    (TaReady .trailRead (onOffice tr) (s tr) ∧ (s tr).link.writable (onOffice tr).req.address 16384) ∧
    (TaReady .trailRead (onOffice tr) { s tr with link := { writesFail := [(0x70000 + 16383, 1)] } } ∧
      ¬ ({ s tr with link := { writesFail := [(0x70000 + 16383, 1)] } } : State).link.writable (onOffice tr).req.address 16384)) := by
  refine ⟨⟨taReady_of (by simp) ?_, quiet_writable _ _ ?_ _ rfl⟩, ⟨taReady_of (by simp) ?_, quiet_writable _ _ ?_ _ rfl⟩, ⟨taReady_of (by simp) ?_, ?_⟩⟩
  · decide +kernel
  · decide +kernel
  · decide +kernel
  · decide +kernel
  · decide +kernel
  · intro h
    exact absurd (h 16383 (by decide)) (by decide +kernel)

/-! ### Witnesses: queue, invariants, resets, control -/

theorem witness_StepRunsTheFrontCommand :
    ({ quietPart with pending := [.reset q, .resetEnd q] } : State).pending = .reset q :: [.resetEnd q] := rfl

theorem witness_EmptyQueueCountsOneCycle :
    (let s := fun c => ({ quietPart with clock := c } : State)
    let c : Clock := { day := 20105, minute := 600, second := 58, tick := 99999, phase := 999, set := true }
    (quietPart.canonical = true ∧ quietPart.pending = []) ∧
    ((quietPart.setHolds { sweep := some 28951799 }).holds.sweep = some 28951799 ∧ (28951799 : Int) < (quietPart.clock.now : Int)) ∧
    (∀ p, quietPart.holds.sweep = some p → (quietPart.clock.now : Int) ≤ p) ∧
    (State.reset.clock.set = false ∧ State.reset.canonical = true ∧ State.reset.holds.sweep = none) ∧
    ((s { c with phase := 998 }).clock.set = true ∧ (s { c with phase := 998 }).clock.phase < 999) ∧
    ((s c).clock.phase = 999 ∧ 99999 ≤ (s c).clock.tick ∧ (s c).clock.second < 59 ∧ (s c).canonical = true) ∧
    ((s { c with second := 59 }).clock.phase = 999 ∧ 59 ≤ (s { c with second := 59 }).clock.second) ∧
    ((s { c with tick := 99998 }).clock.phase = 999 ∧ (s { c with tick := 99998 }).clock.tick < 99999)) := by
  refine ⟨by decide +kernel, by decide +kernel, ?_, by decide +kernel, by decide +kernel, by decide +kernel, by decide +kernel, by decide +kernel⟩
  intro p hp
  have h : quietPart.holds.sweep = some 28951800 := rfl
  rw [h] at hp
  cases hp
  decide +kernel

/-- The part's first cycle after power-on: the clock is not set. -/
theorem reset_steps : step State.reset = .next State.reset := by rfl
theorem witness_StepsKeepTablesCanonical : State.reset.canonical = true ∧ step State.reset = .next State.reset :=
  ⟨by decide +kernel, reset_steps⟩
theorem witness_StepsKeepClockQuarantineListAndLocks :
    State.reset.clockOk = true ∧ State.reset.store.quarantine.length ≤ 64 ∧ (State.reset.store.quarantine.map (fun x => (x.kind, x.index))).Nodup ∧
    State.reset.locksOk ∧ step State.reset = .next State.reset :=
  ⟨by decide +kernel, by decide +kernel, by decide +kernel, ⟨by decide, by decide, by decide, by decide⟩, reset_steps⟩
theorem witness_StepsKeepTillStandings : State.reset.tillsOk ∧ step State.reset = .next State.reset := by
  refine ⟨⟨fun i => ?_, fun w k h => ?_, fun x h => ?_, fun k h => ?_⟩, reset_steps⟩
  · show (Sparse.get scrubbedTill [] i).val.ok = true
    rw [show Sparse.get scrubbedTill [] i = scrubbedTill from rfl]
    decide
  · cases h
  · cases h
  · cases h
theorem witness_QueueAnchorsAndPartitionChangeOnlyByTheirCommands :
    exec (.drain q) quietPart = .next (match exec (.drain q) quietPart with | .next t => t | _ => quietPart) ∧ quietPart.header.partition = some 15 ∧
    (∀ e, Instr.drain q ≠ .powerOnReset e) ∧ (∀ e, Instr.drain q ≠ .linkReset e) ∧ ∀ o d e, Instr.drain q ≠ .registerWrite o d e := by
  refine ⟨?_, rfl, ?_, ?_, ?_⟩
  · simp [exec, execDrain]
  · simp
  · simp
  · simp

theorem witness_ResetsLeaveTheirValues : quietPart.outside q = quietPart := rfl

/-- The part in a reset. -/
def resettingPart (g : EngineState) : State := { idlePart with control := { engine := g, resetting := true, startAnchor := 0x4000 } }
theorem witness_ResetEndSettlesTheTrail :
    ((resettingPart .idle).control.resetting = true ∧ (resettingPart .idle).control.engine ≠ .starting) ∧ quietPart.control.resetting = false ∧
    (let s := resettingPart .starting
    s.control.resetting = true ∧ s.control.engine = .starting ∧ s.control.startAnchor = s.anchor ∧ s.control.startPending = false ∧
      s.control.starting = none) := by decide +kernel

theorem witness_ScrubEndEntersIdleOrStarting :
    (let p : State := { idlePart with control := { engine := .scrubbing, startPending := true } }
    State.reset.control.engine = .scrubbing ∧ State.reset.control.startPending = false ∧ quietPart.control.engine ≠ .scrubbing ∧
    p.control.engine = .scrubbing ∧ p.control.startPending = true) := by decide +kernel

theorem witness_ControlWritesPendOrAreIgnored :
    State.reset.control.engine = .scrubbing ∧ startingPart.control.engine = .starting ∧ quietPart.control.engine = .running ∧
    idlePart.control.engine ≠ .running ∧ (4 : Word32) ≠ 1 ∧ (4 : Word32) ≠ 2 ∧ (4 : Word32) ≠ 3 ∧ (0 : Word32) ≠ 1 := by decide +kernel

/-- The part in IDLE with the anchor at 4000h on a directory. -/
def idleWith (bs : List Byte) (part : Option Nat) (c : Clock) : State :=
  { idlePart with
    link := { mem := cells 0x4000 bs, anchorLow := 0x4000 }, clock := c
    store := { header := { header := { partition := part } } }
    holds := { sweep := if c.set then some 28951800 else none } }
/-- A START's directory reads as `d` and passes its checks. -/
def startB (s : State) (bs : List Byte) (d : Directory) : Bool :=
  decide (s.control.engine = .idle ∨ s.control.engine = .faulted) && decide (s.control.resetting = false) && decide (s.anchor ≠ 0) && decide (s.anchor % 4096 = 0) &&
  decide (linkRead s s.anchor 64 = some (bs.take 64)) && decide (directoryRevision (bs.take 64) = 1) &&
  decide (linkRead s (s.anchor + 64) (32 * min (directoryLaneCount (bs.take 64)) 64) = some (bs.drop 64)) &&
  decide (d = Directory.ofBytes (bs.take 64) (bs.drop 64)) && decide (d.partition ≤ 15) && decide (s.store.header.one.outcome ≠ .uncorrectable ∨ s.store.header.two.outcome ≠ .uncorrectable) &&
  decide (s.header.partition = none ∨ s.header.partition = some d.partition) && decide (checkDirectory d s.clock.set = none)
/-- The directory with another byte. -/
def dirWith (i : Nat) (b : Byte) : List Byte := dirBytes.set i b
theorem witness_StartMakesTheStartingSteps :
    (let clk : Clock := { day := 20105, minute := 601, set := true }
    let keep := dirWith 2 0
    let s := idleWith dirBytes (some 15) clk
    let damaged : State := { s with control := { engine := .faulted, fault := .linkLost }, store := { header := { header := { partition := some 15, damaged := true } } } }
    (startB idlePart dirBytes dir = true ∧ dir.clockTake = 1 ∧ idlePart.clock.set = false ∧ idlePart.header.partition = none ∧
      idlePart.header.damaged = false) ∧
    (startB s dirBytes dir = true ∧ clk.set = true ∧ s.holds.sweep = some 28951800 ∧ s.header.damaged = false) ∧
    (startB (idleWith keep (some 15) clk) keep { dir with clockTake := 0 } = true) ∧
    (startB damaged dirBytes dir = true ∧ damaged.header.damaged = true) ∧
    (let far := (idleWith dirBytes (some 15) { day := 20102, minute := 0, set := true }).setHolds { sweep := some 28946880 }
    startB far dirBytes dir = true ∧ far.clock.set = true ∧ far.clock.now < 28951800 ∧ (4096 : Int) ≤ 28951800 - 28946880 ∧
      far.header.damaged = false) ∧
    (let one := s.setStore { s.store with header := { s.store.header with one := lostBits } }
    startB one dirBytes dir = true ∧ one.store.header.one.outcome = .uncorrectable)) := by decide +kernel
/-- R138: the rebuild of some rows, in index order: an OPEN one by the filing rule, a FREE one and one that cannot be read in the free chain. -/
theorem test_rebuild_rows :
    (let s := (((duePart quietPart).putHold 42 { hold40 with deadline := 28951801 }).putHoldStored 43 { val := hold40, ecc := lostBits }).setHolds
      { sweep := some 28951800 }
    let t := [40, 41, 42, 43].foldl rebuildRow s
    (t.holds.due, t.holds.free, t.chain (.bucket (28951801 % 4096)), t.store.quarantine.map (fun x => x.index))) =
    ({ head := some 40, tail := some 40, count := 1 }, { head := some 41, tail := some 43, count := 2 },
      { head := some 42, tail := some 42, count := 1 }, [43]) := by decide +kernel

theorem witness_StartFaultsByTheFirstFailedCheck :
    (let s := fun bs => idleWith bs none {}
    let read := fun (t : State) (bs : List Byte) => decide (t.anchor ≠ 0) && decide (t.anchor % 4096 = 0) && decide (t.control.resetting = false) &&
      decide (linkRead t t.anchor 64 = some (bs.take 64)) && decide (directoryRevision (bs.take 64) = 1) &&
      decide (linkRead t (t.anchor + 64) (32 * min (directoryLaneCount (bs.take 64)) 64) = some (bs.drop 64))
    let lost : State := { idlePart with store := { header := { one := lostBits, two := lostBits } } }
    let tableLost := idlePart.setLink { idlePart.link with readsFail := [(0x407F, 1)] }
    (idlePart.control.engine = .idle ∧ ({ idlePart with link := {} } : State).anchor = 0) ∧
    ({ idlePart with link := { anchorLow := 0x4010 } } : State).anchor % 4096 ≠ 0 ∧
    linkRead (idlePart.setLink { idlePart.link with readsFail := [(0x403F, 1)] }) 0x4000 64 = none ∧
    (linkRead (s (dirWith 0 2)) 0x4000 64 = some ((dirWith 0 2).take 64) ∧ directoryRevision ((dirWith 0 2).take 64) ≠ 1) ∧
    (linkRead tableLost 0x4000 64 = some (dirBytes.take 64) ∧ linkRead tableLost 0x4040 64 = none) ∧
    (read (s (dirWith 1 16)) (dirWith 1 16) = true ∧ 15 < (Directory.ofBytes ((dirWith 1 16).take 64) ((dirWith 1 16).drop 64)).partition) ∧
    (read (idleWith dirBytes (some 14) {}) dirBytes = true ∧ (idleWith dirBytes (some 14) {}).header.partition = some 14 ∧ dir.partition = 15) ∧
    (read lost dirBytes = true ∧ lost.store.header.one.outcome = .uncorrectable ∧ lost.store.header.two.outcome = .uncorrectable) ∧
    (read (s (dirWith 2 0)) (dirWith 2 0) = true ∧ checkDirectory { dir with clockTake := 0 } false = some .clockUnset ∧
      { dir with clockTake := 0 } = Directory.ofBytes ((dirWith 2 0).take 64) ((dirWith 2 0).drop 64))) := by decide +kernel

theorem witness_DrainAndItsEnd :
    (let d := fun u => ({ quietPart with control := { engine := .draining, directory := some dir }, units := u } : State)
    (quietPart.control.engine = .running ∧ quietPart.canonical = true) ∧
    ((d {}).control.engine = .draining ∧ (∀ w, w < 8 → (d {}).worker w = none) ∧ (d {}).units.ready = [] ∧ (d {}).units.places = []) ∧
    (quietPart.control.engine ≠ .draining ∧ (d { workers := [(7, some (onTill (tillAsk 1 300 0)))] }).worker 7 ≠ none ∧
      (d { ready := [onTill (tillAsk 1 300 0)] }).units.ready ≠ [] ∧ (d { places := [0] }).units.places ≠ [])) := by decide +kernel

theorem witness_StartingCompletesIntoRunning :
    (startingPart.control.engine = .starting ∧ startingPart.control.resetting = false ∧ startingPart.journal.queue = [] ∧
      startingPart.control.starting = some dir ∧ dir.laneCount = dir.lanes.length ∧ dir.laneCount ≤ 64) ∧
    startingPart.link.writable dir.engineWords 4096 ∧
    ({ startingPart with journal := { queue := [{ entry := entry500, last := none }] } } : State).journal.queue ≠ [] := by
  refine ⟨by decide +kernel, quiet_writable _ _ (by decide) _ rfl, by decide +kernel⟩

/-! ### Witnesses: registers, notices, timers, clock -/

theorem witness_RegisterWritesByTheMap :
    ([1] : List Byte) ≠ [] ∧ 3 + ([1] : List Byte).length ≤ 4 ∧ (BitVec.ofNat 32 (leNat [1] * 256 ^ 0) : Word32) = 1 ∧
    (List.replicate 8 (1 : Byte)).length = 8 ∧ (4 % 4 = 0 ∧ 2 < 4 ∧ 4 < 2 + (List.replicate 4 (1 : Byte)).length) := by decide
theorem witness_NoticeReadReturnsAndEmptiesTheRaisedSet :
    quietPart.outside q = quietPart ∧ (8 : BitVec 4) ≠ 0 ∧
    (({} : CauseSet).add .answers = CauseSet.ofBits (BitVec.ofNat 8 (2 ^ 0)) ∧ ({} : CauseSet).add .engine = CauseSet.ofBits (BitVec.ofNat 8 (2 ^ 4))) ∧
    (zeroBytes 4).length = 4 := by refine ⟨rfl, ?_, ?_, ?_⟩ <;> decide
theorem witness_NudgesLookAndReadTheDrainedCount :
    (let draining : State := { quietPart with control := { engine := .draining, directory := some dir } }
    let fails := quietPart.setLink { readsFail := [(0x300007, 1)] }
    let waits : Work := { onTill (tillAsk 1 300 0) with room := 0, phase := .awaitRoom lockPlan }
    let ks : List (Nat × Work × Plan) := [(0, waits, lockPlan), (5, { waits with place := 1 }, lockPlan)]
    let rises : State := { quietPart with
      units := { workers := [(0, some waits), (5, some { waits with place := 1 })], roomWaiters := [0, 5] }
      journal := { written := 2024, cached := 1000, reserved := 0, fillTested := 0 }, link := { mem := cells 0x300000 (leBytes 8 1001) } }
    (quietPart.laneEntry 1 = some office1 ∧ quietPart.control.engine = .running ∧ (quietPart.laneState 1).isOpen = true) ∧
    (quietPart.dir.laneCount ≤ (2 : Word32).toNat ∧ idlePart.control.engine ≠ .running ∧ idlePart.control.engine ≠ .draining ∧
      (({ quietPart with lanes := {} } : State).laneState 1).isOpen = false) ∧
    (linkRead quietPart quietPart.dir.hostWords 8 = some (zeroBytes 8) ∧ quietPart.units.roomWaiters = [] ∧ quietPart.laneEntry 2 = none) ∧
    (draining.control.engine = .draining ∧ linkRead draining draining.dir.hostWords 8 = some (zeroBytes 8)) ∧
    (linkRead fails fails.dir.hostWords 8 = none ∧ fails.control.engine = .running) ∧
    (ks.map (·.1) = [0, 5] ∧ (ks.map (·.1)).Nodup ∧ rises.units.roomWaiters = [0, 5] ∧ linkRead rises rises.dir.hostWords 8 = some (leBytes 8 1001) ∧
      (∀ x ∈ ks, rises.worker x.1 = some x.2.1 ∧ x.2.1.phase = .awaitRoom x.2.2) ∧ rises.journal.cached < 1001 ∧
      rises.journal.fillTested < rises.dir.mark ∧ rises.dir.mark ≤ rises.journal.written - 1001 ∧
      rises.dir.journalCount - (rises.journal.written - 1001 + rises.journal.reserved) = 1)) := by decide +kernel
theorem witness_TimersExpire :
    (let held : State := { quietPart with lanes := { lane := [(0, { pendingAnswers := 2, holdTimer := some 0 })] } }
    (quietPart.laneEntry 0 = some till0 ∧ quietPart.control.engine = .running ∧ (quietPart.laneState 0).isOpen = true ∧
      (quietPart.laneState 0).lookTimer.isSome = true) ∧
    (held.laneState 0).lookTimer = none ∧ (held.laneState 0).holdTimer.isSome = true ∧ (quietPart.laneState 0).holdTimer = none) := by decide +kernel
theorem witness_MinuteEventAdvancesTheClock :
    (let s := fun m => ({ quietPart with clock := { day := 65535, minute := m, set := true } } : State)
    ((s 1438).clockOk = true ∧ (s 1438).clock.set = true ∧ (s 1438).clock.now < 94371839) ∧
    ((s 1439).clockOk = true ∧ (s 1439).clock.now = 94371839) ∧ (State.reset.clockOk = true ∧ State.reset.clock.set = false)) := by decide +kernel

/-- Row 40 filed in the bucket of a deadline one minute on, the sweep one minute behind. -/
def sweepPart : State := ((fileRow 40 28951801 (quietPart.putHold 40 { hold40 with deadline := 28951801 }))).setClock
  { quietPart.clock with minute := 601 }
theorem witness_SweepMovesOneBucket :
    (let row41 := appendRow .due 41 sweepPart
    let b := 28951801 % 4096
    (quietPart.holds.sweep = some 28951800 ∧ (quietPart.clock.now : Int) ≤ 28951800 ∧ ((b : Nat) : Int) = (28951800 + 1) % 4096) ∧
    (sweepPart.holds.sweep = some 28951800 ∧ (28951800 : Int) < (sweepPart.clock.now : Int) ∧ sweepPart.header.damaged = false ∧
      (sweepPart.chain (.bucket b)).head = some 40 ∧ sweepPart.holds.due.tail = none) ∧
    (({ quietPart with clock := { quietPart.clock with minute := 601 } } : State).chain (.bucket b)).head = none ∧
    (row41.holds.sweep = some 28951800 ∧ row41.holds.due.tail = some 41 ∧ (row41.chain (.bucket b)).head = some 40 ∧ 40 ≠ 41 ∧
      (28951800 : Int) < (row41.clock.now : Int) ∧ row41.header.damaged = false)) := by decide +kernel

/-! ### Witnesses: dispatch, takes, handouts, resumptions, jobs -/

theorem witness_DispatchTakesTheOldestReadyEntry :
    (let s := readyPart gotTill
    let idleEngine := { s with control := { engine := .idle } }
    let empty : State := { quietPart with control := { engine := .draining, directory := some dir } }
    let busy := sit gotTill {} till7 lunch
    (s.worker 7 = none ∧ s.control.engine = .running ∧ s.units.ready = [gotTill]) ∧ busy.worker 0 ≠ none ∧
    (idleEngine.control.engine ≠ .running ∧ idleEngine.control.engine ≠ .draining) ∧
    (empty.control.engine = .draining ∧ empty.units.ready = [])) := by decide +kernel

/-- A directory whose lanes have their numbers as priorities, in an arbitration mode, both lanes ready. -/
def readyLanes (mode : Nat) : State :=
  { quietPart with
    control := { engine := .running, directory := some { dir with arbitration := mode, lanes := [till0, { office1 with priority := 1 }] } }
    lanes := { lane := [(0, { isOpen := true, ready := true }), (1, { isOpen := true, ready := true })], lastServed := some 0 } }
theorem witness_LanesAreTriedInOrder : ∀ m, m = 1 ∨ m = 2 →
    (let s := readyLanes m
    (∀ l, s.lanes.lastServed = some l → l < s.dir.laneCount) ∧
    (∀ n, n < s.dir.laneCount → ∃ l, s.laneEntry n = some l ∧ l.priority = n ∧ n < 8) ∧
    (s.dir.arbitration = 1 ∨ s.dir.arbitration = 2) ∧ (s.laneState 0).ready = true ∧ (s.laneState 1).ready = true) := by
  intro m hm
  refine ⟨?_, ?_, hm, by cases hm <;> subst m <;> decide +kernel, by cases hm <;> subst m <;> decide +kernel⟩
  · intro l h
    cases h
    show 0 < 2
    decide
  · intro n hn
    have hn : n < 2 := hn
    match n, hn with
    | 0, _ => exact ⟨till0, rfl, rfl, by decide⟩
    | 1, _ => exact ⟨{ office1 with priority := 1 }, rfl, rfl, by decide⟩

/-- Both lanes ready, host memory and journal as given. -/
def bothReady (l : Link) (j : Journal) : State :=
  { posted with link := l, journal := j, lanes := { lane := [(0, { isOpen := true, ready := true }), (1, { isOpen := true, ready := true })], lastServed := some 1 } }
/-- What a dispatch needs to try lanes 0 and 1 in this order. -/
def triesB (s : State) : Bool :=
  decide (s.worker 2 = none) && decide (s.control.engine = .running) && decide (s.units.ready = []) && decide (s.holds.due.count < 64) &&
  decide (laneOrder s = [0, 1])
/-- The slot of lane `n` at its scan position reads `half`, nothing in flight. -/
def slotB (s : State) (n : Nat) (l : LaneEntry) (half : List Byte) : Bool :=
  decide (s.laneEntry n = some l) && decide (linkRead s (l.base + (s.laneState n).scan * 128) 64 = some half) &&
  decide (s.inFlight n (s.laneState n).scan = false)
theorem slotReads_of {s : State} {n : Nat} {l : LaneEntry} {half : List Byte} (h : slotB s n l half = true) : s.slotReads n l half := by
  simp only [slotB, Bool.and_eq_true, decide_eq_true_eq] at h
  exact ⟨h.1.1, h.1.2, h.2⟩
/-- A REDEEM in slot 0 of lane 0. -/
def redeemHalf : List Byte := (tillAsk 4 310 2000).half
/-- The journal 1024 entries ahead of the cached drained count: no room. -/
def fullJournal : Journal := { next := some 500, written := 1024 }
/-- A state whose lane 0 has been tried without a take. -/
def pastLaneZero (s : State) : State := s.setLaneState 0 { s.laneState 0 with ready := false }
theorem witness_TakeServesTheFirstLane :
    (let s := bothReady { mem := cells 0x10000 redeemHalf } { next := some 500 }
    let short := bothReady { mem := memWrite (cells 0x10000 redeemHalf) 0x300000 (leBytes 8 1000) } fullJournal
    let u := refreshDrained short
    let second := bothReady { mem := cells 0x20000 redeemHalf } { next := some 500 }
    (triesB s = true ∧ PassedOver [] s s ∧ s.slotReads 0 till0 redeemHalf ∧ (s.laneState 0).isOpen = true ∧ byteAt redeemHalf 0 = 1 ∧
      byteAt redeemHalf 1 = 0 ∧ s.freePlace = some 0 ∧ (Req.ofBytes redeemHalf).kind? = some .redeem ∧ RequestKind.redeem.room = 3 ∧
      s.journal.written - s.journal.cached + s.journal.reserved + 3 ≤ s.dir.journalCount) ∧
    (triesB short = true ∧ short.slotReads 0 till0 redeemHalf ∧
      ¬ short.journal.written - short.journal.cached + short.journal.reserved + 3 ≤ short.dir.journalCount ∧
      u.journal.written - u.journal.cached + u.journal.reserved + 3 ≤ u.dir.journalCount) ∧
    (triesB second = true ∧ PassedOver [0] second (pastLaneZero second) ∧ (pastLaneZero second).slotReads 1 office1 redeemHalf ∧
      ((pastLaneZero second).laneState 1).isOpen = true ∧ (pastLaneZero second).freePlace = some 0)) := by
  refine ⟨⟨?_, .nil _, slotReads_of ?_, ?_⟩, ⟨?_, slotReads_of ?_, ?_⟩,
    ⟨?_, .cleared 0 [] _ _ till0 ?_ (.inr ⟨zeroBytes 64, ?_, .inl ?_⟩) (.nil _), slotReads_of ?_, ?_⟩⟩ <;> decide +kernel
theorem witness_AttemptsThatReachNoWorker :
    (let marked := redeemHalf.set 1 1
    let first := bothReady { mem := cells 0x10000 marked } { next := some 500 }
    let second := bothReady { mem := cells 0x20000 marked } { next := some 500 }
    let unread := bothReady { mem := [], readsFail := [(0x1003F, 1), (0x2003F, 1)] } { next := some 500 }
    let running : State := { bothReady { mem := cells 0x10000 redeemHalf } { next := some 500 } with
      units := { waiting := [{ lock := .till 7, work := { (onTill (tillAsk 4 310 2000)) with task := .request 0 0 till0 redeemHalf } }] } }
    let full : State := { bothReady { mem := memWrite (cells 0x10000 redeemHalf) 0x20000 redeemHalf } { next := some 500 } with
      units := { places := List.range 32 } }
    let short := bothReady { mem := memWrite (cells 0x10000 redeemHalf) 0x20000 redeemHalf } fullJournal
    (triesB first = true ∧ PassedOver [] first first ∧ first.slotReads 0 till0 marked ∧ (first.laneState 0).isOpen = true ∧
      byteAt marked 0 = 1 ∧ byteAt marked 1 ≠ 0) ∧
    (triesB second = true ∧ PassedOver [0] second (pastLaneZero second) ∧ (pastLaneZero second).slotReads 1 office1 marked ∧
      ((pastLaneZero second).laneState 1).isOpen = true) ∧
    (triesB unread = true ∧ ∃ t, PassedOver [0, 1] unread t) ∧
    (triesB running = true ∧ ∃ t, PassedOver [0, 1] running t) ∧
    (triesB full = true ∧ PassedOver [0, 1] full full) ∧
    (triesB short = true ∧ ∃ t, PassedOver [0, 1] short t)) := by
  refine ⟨⟨?_, .nil _, slotReads_of ?_, ?_⟩,
    ⟨?_, .cleared 0 [] _ _ till0 ?_ (.inr ⟨zeroBytes 64, ?_, .inl ?_⟩) (.nil _), slotReads_of ?_, ?_⟩,
    ⟨?_, _, .cleared 0 [1] _ _ till0 ?_ (.inl ?_) (.cleared 1 [] _ _ office1 ?_ (.inl ?_) (.nil _))⟩,
    ⟨?_, _, .cleared 0 [1] _ _ till0 ?_ (.inr ⟨redeemHalf, ?_, .inr ?_⟩)
      (.cleared 1 [] _ _ office1 ?_ (.inr ⟨zeroBytes 64, ?_, .inl ?_⟩) (.nil _))⟩,
    ⟨?_, .noPlace 0 [1] _ _ till0 redeemHalf (slotReads_of ?_) ?_ ?_ ?_
      (.noPlace 1 [] _ _ office1 redeemHalf (slotReads_of ?_) ?_ ?_ ?_ (.nil _))⟩,
    ⟨?_, _, .noRoom 0 [1] _ _ till0 redeemHalf (slotReads_of ?_) ?_ ?_ ⟨0, ?_⟩ ?_ ?_ ?_
      (.noRoom 1 [] _ _ office1 redeemHalf (slotReads_of ?_) ?_ ?_ ⟨0, ?_⟩ ?_ ?_ ?_ (.nil _))⟩⟩ <;> decide +kernel

/-- A dispatch of worker 0 that comes to the due chain. -/
def seeksDue (s : State) : Bool :=
  decide (s.worker 0 = none) && decide (s.control.engine = .running) && decide (s.units.ready = []) &&
  (decide (64 ≤ s.holds.due.count) || (List.range s.dir.laneCount).all (fun n => !(s.laneState n).ready))
/-- The part with rows 40 to 43 in the due chain: 40 cannot be read, 41 is in hand, the card row of 42 is listed. -/
def duePassed : State :=
  let s := appendRow .due 43 (appendRow .due 42 (appendRow .due 41 (appendRow .due 40 quietPart)))
  let s := ((s.putHoldStored 40 { val := hold40, ecc := lostBits }).putHold 42 { hold40 with card := 9 }).putHold 43 hold40
  (s.setStore { s.store with quarantine := [{ kind := .card, index := 9, listedAt := none }] }).setHolds
    { s.holds with hand := [{ kind := .expiry, hold := 41, gen := 0, card := 123, place := 1 }] }
theorem rowsPassed_duePassed : RowsPassed DuePassed duePassed.holds.due.head [40, 41, 42] (some 43) duePassed (quarantineJoin .hold 40 duePassed) := by
  refine .on 40 (some 41) _ _ _ _ _ _ (.inr ⟨?_, .inl (.inr ⟨?_, ?_, rfl⟩)⟩) ⟨?_, .inl ⟨?_, rfl⟩⟩
    (.on 41 (some 42) _ _ _ _ _ _ (.inl ⟨?_, rfl⟩) ⟨?_, .inl ⟨?_, rfl⟩⟩
    (.on 42 (some 43) _ _ _ _ _ _ (.inr ⟨?_, .inr ⟨{ hold40 with card := 9 }, ⟨?_, ?_, .inl ⟨?_, rfl⟩⟩, ?_⟩⟩) ⟨?_, .inl ⟨?_, rfl⟩⟩ (.here _ _))) <;>
    decide +kernel
theorem witness_DueHandoutGivesAJob :
    (let fits := fun (v : State) => v.journal.written - v.journal.cached + v.journal.reserved + 1 ≤ v.dir.journalCount
    let many := (duePart posted).setHolds { (duePart posted).holds with due := { (duePart posted).holds.due with count := 64 } }
    let v := quarantineJoin .hold 40 duePassed
    let full := { duePassed with units := { places := List.range 32 } }
    let short := ((duePart quietPart).setJournal { written := 1024, next := some 500 }).setLink { mem := cells 0x300000 [1] }
    let stuck := duePassed.setJournal { reserved := 1024 }
    (seeksDue duePassed = true ∧ duePassed.freePlace = some 0 ∧ fits duePassed ∧ 3 < duePassed.holds.due.count ∧ v.inHand 43 = false ∧
      HoldRead 43 hold40 v v ∧ v.isListed .card hold40.card = false) ∧
    (seeksDue many = true ∧ 64 ≤ many.holds.due.count ∧ many.anyReady = true ∧ many.freePlace = some 0 ∧ fits many ∧
      many.holds.due.head = some 40 ∧ HoldRead 40 hold40 many many) ∧
    (seeksDue short = true ∧ short.freePlace = some 0 ∧ ¬ fits short ∧ fits (refreshDrained short) ∧
      short.holds.due.head = some 40 ∧ 0 < short.holds.due.count ∧ (refreshDrained short).inHand 40 = false ∧
      HoldRead 40 hold40 (refreshDrained short) (refreshDrained short) ∧ (refreshDrained short).isListed .card hold40.card = false) ∧
    (seeksDue full = true ∧ full.freePlace = none ∧ PassedOver (laneOrder full) full full) ∧
    (seeksDue stuck = true ∧ stuck.freePlace = some 0 ∧ ¬ fits stuck ∧ ¬ fits (refreshDrained stuck)) ∧
    (seeksDue quietPart = true ∧ quietPart.freePlace = some 0 ∧ fits quietPart ∧
      RowsPassed DuePassed quietPart.holds.due.head [] none quietPart quietPart ∧ PassedOver (laneOrder quietPart) quietPart quietPart)) := by
  refine ⟨⟨?_, ?_, ?_, ?_, ?_, ⟨?_, ?_, .inl ⟨?_, rfl⟩⟩, ?_⟩, ⟨?_, ?_, ?_, ?_, ?_, ?_, ⟨?_, ?_, .inl ⟨?_, rfl⟩⟩⟩,
    ⟨?_, ?_, ?_, ?_, ?_, ?_, ?_, ⟨?_, ?_, .inl ⟨?_, rfl⟩⟩, ?_⟩, ⟨?_, ?_, .nil _⟩, ?_,
    ⟨?_, ?_, ?_, .here _ _, .nil _⟩⟩ <;> decide +kernel

theorem witness_RequestsWaitForTheirLocks :
    (let r := tillAsk 4 300 100
    let k := onTill r
    let s := fun l => ({ at7 r (active [paid 900]) till7 lunch with locks := l } : State)
    let others := (List.range 8).map (fun i => ({ row := 1000 + i, holder := i } : Lock))
    let up := fun l => decide ((s l).atStepOne 0 = some k ∧ k.kind? = some .redeem ∧ requestWellFormed k.half = true ∧
      (RequestKind.redeem.isTill = true ∨ k.onOfficeLane = true) ∧ (s l).trailOwing (s l).store.trailPlace = false) &&
      decide (k.req.tillIndex < 32768) && decide ((s l).isListed .till k.req.tillIndex = false) &&
      decide ((s l).tillRow k.req.tillIndex = { val := till7, ecc := .clean }) && decide (till7.admits k.req = true)
    let past := fun l => TPast .redeem k till7 (s l)
    let chosen := fun l => decide (checkDigitOk k.req.digits = true) && decide (selectProgramme (s l).tables k.req.digits = some (sel lunch)) &&
      decide (kindAllowed .redeem (sel lunch) = true) && decide (rowIndex (sel lunch) k.req.serial = some 123) && decide ((s l).isListed .card 123 = false)
    (Instr.redeem, RequestKind.redeem) ∈ tillCommands ∧
    (up { till := [{ row := 7, holder := 3 }] } = true ∧ (s { till := [{ row := 7, holder := 3 }] }).lockHeld (.till 7) = true) ∧
    (up { till := others } = true ∧ 8 ≤ (s { till := others }).locks.till.length) ∧
    (past { card := [{ row := 123, holder := 3 }] } ∧ chosen { card := [{ row := 123, holder := 3 }] } = true ∧
      (s { card := [{ row := 123, holder := 3 }] }).lockHeld (.card 123) = true) ∧
    (past { card := others } ∧ chosen { card := others } = true ∧ 8 ≤ (s { card := others }).locks.card.length)) := by
  refine ⟨by simp [tillCommands], ?_, ?_, ⟨tpast_of ?_ ?_, ?_⟩, ⟨tpast_of ?_ ?_, ?_⟩⟩ <;> decide +kernel

/-- The office requests that take a card lock, and those that take a till lock, before a held lock and before a full bank. -/
theorem witness_RequestsWaitForTheirLocks_office :
    (let others := (List.range 8).map (fun i => ({ row := 1000 + i, holder := i } : Lock))
    let s := fun k l => ({ sit k (active []) till7 lunch with locks := l } : State)
    let cards : Locks := { card := [{ row := 123, holder := 3 }] }
    let cs := onOffice (officeAsk 18 1)
    let bg := onOffice { officeAsk 19 0 with amount := 1, params := leBytes 2 20105 }
    let rd := onOffice { officeAsk 17 0 with addr := 0x60000 }
    let wr := onOffice { officeAsk 16 0 with addr := 0x60000 }
    let tw := onOffice { kind := 20, action := 2, till := 7 }
    let tr := onOffice { kind := 21, till := 7, id := [1, 2, 3, 4, 5, 6] }
    let found := fun (kd : RequestKind) (k : Work) (t : State) => checkDigitOk k.req.digits = true ∧
      selectProgramme t.tables k.req.digits = some (sel lunch) ∧ kindAllowed kd (sel lunch) = true ∧ rowIndex (sel lunch) k.req.serial = some 123
    let narrow := { lunch with kinds := 0 }
    let barred := ({ sit bg (active []) till7 narrow with locks := cards } : State)
    let listed := (s wr { card := others }).setStore
      { (s wr { card := others }).store with quarantine := [{ kind := .card, index := 123, listedAt := none }] }
    ((Instr.cardStatusSuspend, ofAction .cardStatus 1) ∈ requestCommands ∧ (Instr.rowWrite, ofKind .rowWrite) ∈ requestCommands ∧
      (Instr.tillWriteRemove, ofAction .tillWrite 2) ∈ requestCommands ∧ (Instr.tillRelease, ofKind .tillRelease) ∈ requestCommands) ∧
    (Posted .cardStatus 0 cs (s cs cards) ∧ ofAction .cardStatus 1 cs.req = true ∧ found .cardStatus cs (s cs cards) ∧ (s cs cards).isListed .card 123 = false ∧
      (s cs cards).lockHeld (.card 123) = true) ∧
    (Posted .bonusGrant 0 bg (s bg cards) ∧ found .bonusGrant bg (s bg cards)) ∧ (Posted .rowRead 0 rd (s rd cards) ∧ found .rowRead rd (s rd cards)) ∧
    (Posted .rowWrite 0 wr listed ∧ ofKind .rowWrite wr.req = true ∧ found .rowWrite wr listed ∧ listed.isListed .card 123 = true ∧
      8 ≤ listed.locks.card.length) ∧
    (Posted .tillWrite 0 tw (s tw { till := [{ row := 7, holder := 3 }] }) ∧ ofAction .tillWrite 2 tw.req = true ∧
      (s tw { till := [{ row := 7, holder := 3 }] }).lockHeld (.till tw.req.tillIndex) = true) ∧
    (Posted .bonusGrant 0 bg barred ∧ ofKind .bonusGrant bg.req = true ∧ selectProgramme barred.tables bg.req.digits = some (sel narrow) ∧
      kindAllowed .bonusGrant (sel narrow) = false) ∧
    (Posted .tillRelease 0 tr (s tr { till := others }) ∧ ofKind .tillRelease tr.req = true ∧ 8 ≤ (s tr { till := others }).locks.till.length)) := by
  refine ⟨⟨by simp [requestCommands], by simp [requestCommands], by simp [requestCommands], by simp [requestCommands]⟩, ⟨posted_of ?_, ?_⟩,
    ⟨posted_of ?_, ?_⟩, ⟨posted_of ?_, ?_⟩, ⟨posted_of ?_, ?_⟩, ⟨posted_of ?_, ?_⟩, ⟨posted_of ?_, ?_⟩, ⟨posted_of ?_, ?_⟩⟩ <;> decide +kernel

/-- A step 16 that brings a plan to its commit. -/
def comesB (x : State × Option Plan) : Bool :=
  match x with
  | (u, some p) => decide (p.status = none) && !u.trailOwing u.store.trailPlace
  | _ => false
theorem comes_of {x : State × Option Plan} (h : comesB x = true) :
    ∃ p u, x = (u, some p) ∧ p.status = none ∧ u.trailOwing u.store.trailPlace = false := by
  match x with
  | (u, some p) =>
    simp only [comesB, Bool.and_eq_true, Bool.not_eq_true'] at h
    exact ⟨p, u, rfl, of_decide_eq_true h.1, h.2⟩
theorem witness_ReadyWorkGoesOnFromItsLock :
    (let row := active []
    let k := gotTill
    let s := readyPart k
    let u := (s.setUnits { s.units with ready := [] }).setWorker 5 (some k)
    let k' := { onTill (tillAsk 4 300 1) with tillLock := some 7, till := some till7, selection := some (sel lunch), rowIndex := some 123
                                              cardLock := some 123, phase := .gotCard }
    let s' := readyPart k'
    let u' := (s'.setUnits { s'.units with ready := [] }).setWorker 5 (some k')
    (s.worker 5 = none ∧ s.control.engine = .running ∧ s.units.ready = [k] ∧ k.kind? = some .balance ∧ k.phase = .gotTill ∧
      k.tillLock = some k.req.tillIndex ∧ k.req.tillIndex < 32768 ∧ s.isListed .till k.req.tillIndex = false) ∧
    (s.tillRow k.req.tillIndex = { val := till7, ecc := .clean } ∧ till7.admits k.req = true ∧ findRecent k.req.seq till7.recent = none ∧
      standingGate .balance (till7.atSecondReading s.dir.recovery s.clock.reading.index).standing = none) ∧
    (CardPasses .balance k (sel lunch) 123 row s ∧ RowPasses .balance k (sel lunch) row s) ∧
    (∃ p v, stepSixteen .balance ({ k with phase := .taken }.tillServed till7 (sel lunch) 123 s) (servedPlan .balance k (sel lunch) row s)
      (u.cardLocked k 123) = (v, some p) ∧ p.status = none ∧ v.trailOwing v.store.trailPlace = false) ∧
    (s'.units.ready = [k'] ∧ k'.phase = .gotCard ∧ k'.kind? = some .redeem ∧ k'.selection = some (sel lunch) ∧ k'.rowIndex = some 123) ∧
    (s'.card 123 = { val := row, ecc := .clean } ∧ RowPasses .redeem k' (sel lunch) row s') ∧
    (∃ p v, stepSixteen .redeem { k' with phase := .taken, cardReading := some s'.clock.reading } (servedPlan .redeem k' (sel lunch) row s') u' =
      (v, some p) ∧ p.status = none ∧ v.trailOwing v.store.trailPlace = false)) := by
  refine ⟨?_, ?_, ⟨cardPasses_of ?_, rowPasses_of ?_⟩, comes_of ?_, ?_, ⟨?_, rowPasses_of ?_⟩, comes_of ?_⟩ <;> decide +kernel

/-- A worker that holds its entry already; TILL_RELEASE, ROW_READ, ROW_WRITE and an expiry job from the ready queue; an empty queue. -/
theorem witness_ReadyWorkGoesOnFromItsLock_other :
    (let row := active []
    let busy := sit gotTill row till7 lunch
    let office := fun (r : Ask) (p : Phase) => ({ onOffice r with
      selection := some (sel lunch), rowIndex := some 123, cardLock := some 123, phase := p } : Work)
    let rd := office { officeAsk 17 0 with addr := 0x60000 } .gotCard
    let wr := office { officeAsk 16 0 with addr := 0x60000 } .gotCard
    let tr : Work := { onOffice { kind := 21, till := 7, id := [1, 2, 3, 4, 5, 6] } with tillLock := some 7, phase := .gotTill }
    let part := fun (k : Work) => ({ readyPart k with link := { mem := cells 0x60000 image } } : State)
    let listed := (part wr).setStore { (part wr).store with quarantine := [{ kind := .card, index := 123, listedAt := none }] }
    let taken := fun (s : State) (k : Work) => (s.setUnits { s.units with ready := [] }).setWorker 5 (some k)
    let at16 := fun (k : Work) (s : State) => ({ k with phase := .taken, cardReading := some s.clock.reading } : Work)
    let data : Plan := { today := 20105, card := some row, cardRead := some row }
    let jk : Work := { job with cardLock := some 123, phase := .gotCard }
    let js := jobPart.setUnits { ready := [jk], places := [0] }
    let comes := fun (x : State × Option Plan) => ∃ p u, x = (u, some p) ∧ p.status = none ∧ u.trailOwing u.store.trailPlace = false
    (busy.worker 0 = some gotTill ∧ CardPasses .balance gotTill (sel lunch) 123 row busy ∧ RowPasses .balance gotTill (sel lunch) row busy ∧
      comes (stepSixteen .balance ({ gotTill with phase := .taken }.tillServed till7 (sel lunch) 123 busy)
        (servedPlan .balance gotTill (sel lunch) row busy) (busy.cardLocked gotTill 123))) ∧
    ((part tr).units.ready = [tr] ∧ tr.kind? = some .tillRelease ∧ tr.phase = .gotTill ∧
      comes (stepSixteen .tillRelease { tr with phase := .taken } {} (taken (part tr) tr))) ∧
    ((part rd).units.ready = [rd] ∧ rd.kind? = some .rowRead ∧ rd.phase = .gotCard ∧ rd.rowIndex = some 123 ∧
      (part rd).card 123 = { val := row, ecc := .clean } ∧ comes (stepSixteen .rowRead (at16 rd (part rd)) data (taken (part rd) rd))) ∧
    (wr.kind? = some .rowWrite ∧ (part wr).isListed .card 123 = false ∧ (part wr).clock.day = 20105 ∧
      comes (stepSixteen .rowWrite (at16 wr (part wr)) data (taken (part wr) wr))) ∧
    (listed.units.ready = [wr] ∧ listed.isListed .card 123 = true ∧
      comes (stepSixteen .rowWrite (at16 wr listed) { today := 20105 } (taken listed wr))) ∧
    (js.units.ready = [jk] ∧ jk.task = .expiry 40 0 123 ∧ jk.phase = .gotCard ∧ js.trailOwing js.store.trailPlace = false ∧
      (taken js jk).isListed .card 123 = false ∧ ((taken js jk).card 123).ecc = .clean ∧ (taken js jk).isListed .hold 40 = false ∧
      (taken js jk).hold 40 = { val := hold40, ecc := .clean } ∧ hold40.isOpen = true ∧ hold40.deadline ≤ (taken js jk).clock.now ∧
      ∃ x ∈ (taken js jk).holds.hand, x.kind = .expiry ∧ x.hold = 40 ∧ x.gen = 0 ∧ x.place = jk.place) ∧
    (quietPart.worker 5 = none ∧ quietPart.units.ready = [] ∧ idlePart.worker 5 = none ∧ idlePart.control.engine ≠ .running ∧
      idlePart.control.engine ≠ .draining)) := by
  refine ⟨⟨?_, cardPasses_of ?_, rowPasses_of ?_, comes_of ?_⟩, ⟨?_, ?_, ?_, comes_of ?_⟩, ⟨?_, ?_, ?_, ?_, ?_, comes_of ?_⟩,
    ⟨?_, ?_, ?_, comes_of ?_⟩, ⟨?_, ?_, comes_of ?_⟩, ?_, ?_⟩ <;> decide +kernel

theorem witness_WaitingCommitsGoOn :
    (let kr := { onTill (tillAsk 1 300 0) with room := 0, phase := .awaitRoom lockPlan }
    let kt := { onTill (tillAsk 1 300 0) with phase := .awaitTrail lockPlan }
    let kg := { onTill (tillAsk 1 300 0) with room := 1, phase := .roomGranted lockPlan }
    let s := fun (k : Work) r => ({ sit k {} till7 lunch with units := { workers := [(0, some k)], roomWaiters := [0] }, journal := { next := some 500, reserved := r } } : State)
    let owing := fun k j a => (s k 3).setStore { (s k 3).store with trailStatus := [(0, { journal := j, answer := a })] }
    ((s kr 1023).worker 0 = some kr ∧ kr.phase = .awaitRoom lockPlan ∧ (s kr 1023).units.roomWaiters = [0] ∧
      (s kr 1023).journal.written - (s kr 1023).journal.cached + (s kr 1023).journal.reserved + 1 ≤ (s kr 1023).dir.journalCount ∧
      (s kr 1023).trailOwing (s kr 1023).store.trailPlace = false) ∧
    ((s kg 1024).worker 0 = some kg ∧ kg.phase = .roomGranted lockPlan ∧ (s kg 1024).dir.journalCount <
      (s kg 1024).journal.written - (s kg 1024).journal.cached + (s kg 1024).journal.reserved + 1 ∧
      (s kg 1024).trailOwing (s kg 1024).store.trailPlace = false) ∧
    (((s kg 1).setUnits { (s kg 1).units with roomWaiters := [] }).units.roomWaiters = [] ∧
      ((s kg 1).setUnits { (s kg 1).units with roomWaiters := [] }).worker 0 = some kg) ∧
    ((owing kg .pending .none).worker 0 = some kg ∧ (owing kg .pending .none).trailOwing (owing kg .pending .none).store.trailPlace = true) ∧
    ((s kr 1024).dir.journalCount < (s kr 1024).journal.written - (s kr 1024).journal.cached + (s kr 1024).journal.reserved + 1) ∧
    ((s kt 3).worker 0 = some kt ∧ kt.phase = .awaitTrail lockPlan ∧ ((s kt 3).trailStatusAt 0).journal ≠ .pending ∧
      ((s kt 3).trailStatusAt 0).answer ≠ .pending) ∧
    ((owing kt .pending .done).worker 0 = some kt ∧ ((owing kt .pending .done).trailStatusAt 0).journal = .pending) ∧
    ((owing kt .done .pending).trailStatusAt 0).answer = .pending) := by decide +kernel

/-- What a job of row 40 needs. -/
def jobB (s : State) : Bool :=
  decide (s.worker 0 = some job) && decide (job.task = .expiry 40 0 123) && decide (job.phase = .taken) &&
  decide (s.trailOwing s.store.trailPlace = false) && decide (s.lockHeld (.card 123) = false) && decide (s.locks.card.length < 8)
theorem witness_ExpiryJobDecides :
    (let listed := fun kind index => jobPart.setStore { jobPart.store with quarantine := [{ kind := kind, index := index, listedAt := none }] }
    let row := { active [paid 900] with refs := [{ index := 40, gen := 0, amount := 800 }], held := 800 }
    let bare := jobPart.putCardStored 123 { val := active [paid 900], ecc := .clean }
    let held := jobPart.setLocks { card := [{ row := 123, holder := 3 }] }
    let full := jobPart.setLocks { card := (List.range 8).map (fun i => { row := 1000 + i, holder := i }) }
    let lost := (jobPart.putCardStored 123 { val := row, ecc := lostBits }).setStore
      { (jobPart.putCardStored 123 { val := row, ecc := lostBits }).store with
        quarantine := (List.range 64).map (fun i => { kind := .till, index := i, listedAt := none }), overflow := true }
    let unread := jobPart.putHoldStored 40 { val := hold40, ecc := lostBits }
    let room := jobPart.putCardStored 123 { val := row, ecc := lostBits }
    let live := { hold40 with deadline := 28951801 }
    let entry := fun (s : State) => ∃ x ∈ s.holds.hand, x.kind = .expiry ∧ x.hold = 40 ∧ x.gen = 0 ∧ x.place = job.place
    (held.worker 0 = some job ∧ held.lockHeld (.card 123) = true) ∧ 8 ≤ full.locks.card.length ∧
    (jobB (listed .card 123) = true ∧ (listed .card 123).isListed .card 123 = true) ∧
    (jobB (listed .hold 40) = true ∧ (listed .hold 40).isListed .card 123 = false ∧ (listed .hold 40).card 123 = { val := row, ecc := .clean } ∧
      (listed .hold 40).isListed .hold 40 = true) ∧
    (jobB jobPart = true ∧ entry jobPart ∧ jobPart.hold 40 = { val := hold40, ecc := .clean } ∧ hold40.isOpen = true ∧ hold40.gen = 0 ∧
      hold40.deadline ≤ jobPart.clock.now ∧ findRef { index := 40, gen := 0 } row = some { index := 40, gen := 0, amount := 800 }) ∧
    (¬ entry (jobPart.setHolds { jobPart.holds with hand := [] }) ∧ (jobPart.putHold 40 { hold40 with isOpen := false }).hold 40 =
      { val := { hold40 with isOpen := false }, ecc := .clean } ∧ (1 : Nat) ≠ 0) ∧
    (jobB (jobPart.putHold 40 live) = true ∧ entry (jobPart.putHold 40 live) ∧ (jobPart.putHold 40 live).clock.now < live.deadline) ∧
    (jobB bare = true ∧ entry bare ∧ findRef { index := 40, gen := 0 } (bare.card 123).val = none) ∧
    (jobB lost = true ∧ lost.isListed .card 123 = false ∧ (lost.card 123).ecc.outcome = .uncorrectable ∧ lost.store.quarantine.length = 64 ∧
      lost.store.overflow = true ∧ entry lost) ∧
    (jobB unread = true ∧ unread.isListed .card 123 = false ∧ unread.card 123 = { val := row, ecc := .clean } ∧ unread.isListed .hold 40 = false ∧
      (unread.hold 40).ecc.outcome = .uncorrectable) ∧
    (jobB room = true ∧ room.isListed .card 123 = false ∧ (room.card 123).ecc.outcome = .uncorrectable ∧ room.store.quarantine.length < 64)) := by
  decide +kernel

/-- The card row cannot be read, the quarantine list is full and the overflow flag is clear; the EXPIRY entry is there, or gone. -/
theorem witness_ExpiryJobDecides_fullList :
    (let s := (jobPart.putCardStored 123 { val := {}, ecc := lostBits })
    let clear := s.setStore { s.store with quarantine := (List.range 64).map (fun i => { kind := .till, index := i, listedAt := none }) }
    let gone := clear.setHolds { clear.holds with hand := [] }
    jobB clear = true ∧ clear.isListed .card 123 = false ∧ (clear.card 123).ecc.outcome = .uncorrectable ∧ clear.store.quarantine.length = 64 ∧
    clear.store.overflow = false ∧ clear.holds.hand = jobPart.holds.hand ∧ jobB gone = true ∧ gone.holds.hand = []) := by decide +kernel

/-! ### Witnesses: commits, answers, journal -/

theorem witness_CommitPointFixesEntriesRowsAndAnswer :
    (let t := { till7 with score := 248, standing := .restricted }
    let k := { onTill (tillAsk 3 300 1000) with tillLock := some 7, till := some t, rowIndex := some 123, cardLock := some 123 }
    let no : Plan := { result := .declined, reason := .unknownCard }
    let yes : Plan := { card := some (active [paid 1000]), seen := true, own := [(.load, [1000])], reversedSeq := some 41 }
    (1 ≤ 2 ^ 48 - 1 ∧ k.till = some t ∧ k.kind? = some .load ∧ k.isRequest = true ∧ (onOffice (officeAsk 18 1)).till = none) ∧
    (no.repeated = none ∧ no.result = .declined ∧ no.reason.isCardFault = true ∧ t.barred = false ∧ 255 < t.score + 8) ∧
    (yes.repeated = none ∧ yes.result = .approved ∧ yes.adds = true ∧ yes.reversedSeq = some 41 ∧ yes.ahead = none ∧ yes.seen = true ∧
      yes.card ≠ none ∧ yes.ref = none) ∧
    ((List.range 7).filter (fun n => k.embed.getLsbD n) = [1, 3, 5, 6] ∧ (onOffice (officeAsk 18 1)).embed = 0)) := by decide +kernel
/-- R43, R101, R160: a LOAD's flags and trailer: movement number and standing present, no hold and no dated lot; the till is WATCHED. -/
theorem test_flags_and_trailer :
    (let t := { till7 with score := 97, standing := .watched }
    let k := { onTill (tillAsk 3 300 1000) with tillLock := some 7, till := some t, rowIndex := some 123, cardLock := some 123 }
    let p : Plan := { result := .approved, reason := .none, card := some (active [paid 1000]), seen := true, own := [(.load, [1000])]
                      flags := { bonusClamped := true } }
    ((sealPlan k p {} 500).half.drop 2).take 2 = [0x14, 0] ∧
    ((sealPlan k p {} 500).half.drop 28) =
      [2, 4, 0x86, 0x87] ++ leBytes 8 500 ++ [1, 96, 0, 0, 0, 0, 0, 0] ++ zeroBytes 16) := by decide +kernel

theorem witness_CommitWritesItsRows :
    (∀ o ∈ [HoldOp.openRow 0 hold40, .renewRow 40 hold40, .freeRow 40 hold40 true, .refile 40, .requeue 40],
      (let p : Plan := { holdOps := [o], leaves := [(.card, 123)] }
      commitAction p jobPart = (jobPart, p) ∧ (p.holdOps.map HoldOp.row).Nodup ∧ (moveHolds p.holdOps jobPart).2 = true)) ∧
    (moveHolds [.refile 40, .openRow 0 hold40] jobPart).2 = true ∧ (onTill (tillAsk 1 300 0)).isRequest = true ∧
    job.isRequest = false ∧ job.tillLock = none ∧ jobPart.units.roomWaiters = [] := by
  refine ⟨?_, by decide +kernel⟩
  intro o ho
  simp only [List.mem_cons, List.not_mem_nil, or_false] at ho
  rcases ho with rfl | rfl | rfl | rfl | rfl <;> exact ⟨rfl, List.nodup_singleton _, by decide +kernel⟩
/-- R136: a row that leaves the quarantine list with a commit leaves its count word one less. -/
theorem test_commit_takes_a_row_out_of_the_list :
    (let s := jobPart.setStore { jobPart.store with
      quarantine := [{ kind := .card, index := 123, listedAt := none }, { kind := .till, index := 9, listedAt := none }] }
    let t := commitNow 0 (onOffice (officeAsk 16 0)) { leaves := [(.card, 123)] } (s.setControl { s.control with engineWords := some 0x200000 })
    (t.store.quarantine.map (·.index), memBytes t.link.mem 0x200108 4)) = ([9], [1, 0, 0, 0]) := by decide +kernel

/-- Locks of both banks held, work waiting for a lock. -/
def waitPart (l : List Waiter) : State :=
  { quietPart with locks := { till := [{ row := 7, holder := 0 }], card := [{ row := 123, holder := 0 }] }, units := { waiting := l } }
theorem witness_LockReleasesGoToTheOldestWaiter :
    (let on := fun n => ({ lock := n, work := onTill (tillAsk 1 300 0) } : Waiter)
    let w1 := [on (.till 9), on (.card 123), on (.card 123)]
    ((waitPart w1).units.waiting = [on (.till 9)] ++ on (.card 123) :: [on (.card 123)] ∧ ∀ y ∈ [on (.till 9)], y.lock ≠ .card 123) ∧
    ((waitPart [on (.card 124)]).units.waiting = [] ++ on (.card 124) :: [] ∧ (waitPart [on (.card 124)]).lockHeld (.card 124) = false) ∧
    ((∀ y ∈ (waitPart [on (.till 7)]).units.waiting, y.lock ≠ .card 123 ∧ ∀ i, y.lock = .card i → (waitPart [on (.till 7)]).lockHeld (.card i) = true)) ∧
    ((waitPart []).units.waiting = []) ∧
    ((waitPart [on (.till 7)]).units.waiting = [] ++ on (.till 7) :: []) ∧
    ((waitPart [on (.card 123), on (.till 9)]).units.waiting = [on (.card 123)] ++ on (.till 9) :: [] ∧
      (waitPart []).lockHeld (.till 9) = false ∧ ∀ y ∈ [on (.card 123), on (.till 9)], y.lock ≠ .till 7) ∧
    (LockName.till = LockName.till ∨ LockName.till = LockName.card) ∧ (LockName.card = LockName.till ∨ LockName.card = LockName.card)) := by
  refine ⟨by decide +kernel, by decide +kernel, ?_, rfl, rfl, by decide +kernel, .inl rfl, .inr rfl⟩
  intro y hy
  have : y = { lock := .till 7, work := onTill (tillAsk 1 300 0) } := by simpa [waitPart] using hy
  subst this
  exact ⟨by simp, by simp⟩

theorem witness_ChainOperationsJoinAndPart :
    (let s := duePart quietPart
    (s.chain .free).tail ≠ some 40 ∧ (s.chain (.bucket 5)).tail ≠ some 40 ∧
    ((s.linkWord 40).one = .clean ∧ chainOf s 40 = some .due ∧ prevTarget 40 (s.linkWord 40).word = none) ∧
    ((s.linkWord 5).one = .clean ∧ chainOf s 5 = some .free ∧ prevTarget 5 (s.linkWord 5).word = some 4 ∧ nextTarget 5 (s.linkWord 5).word = some 6) ∧
    (let v := s.putLinkStored 40 { s.linkWord 40 with one := lostBits }
    (v.linkWord 40).one.outcome = .uncorrectable ∧ (v.linkWord 40).two.outcome ≠ .uncorrectable ∧ chainOf v 40 = some .due ∧
      ((unlinkRow 40 v).1.linkWord 40).one = .clean) ∧
    s.holds.sweep = some 28951800 ∧ (unlinkRow 40 s).2 = true ∧ (unlinkRow 0 (dropHand .claim 0 s)).2 = true) := by decide +kernel

/-- A state whose link word of a row has lost both copies. -/
def loseLink (i : Nat) (s : State) : State := s.setStore { s.store with links := Sparse.set {} s.store.links i { one := lostBits, two := lostBits } }
/-- A state with a row in the quarantine list. -/
def listRow (k : RowKind) (i : Nat) (s : State) : State := s.setStore { s.store with quarantine := [{ kind := k, index := i, listedAt := none }] }
/-- R136, R138: a row an office frees leaves the quarantine list at the store write, though its chain then turns out to be lost. -/
theorem test_freed_row_leaves_the_list :
    (let t := commitNow 0 (onOffice (officeAsk 18 4)) { holdOps := [.freeRow 40 { gen := 1 } true] } (loseLink 40 (listRow .hold 40 jobPart))
    t.store.quarantine = [] ∧ t.hold 40 = { val := { gen := 1 }, ecc := .clean } ∧ t.control.fault = .linkLost ∧ t.header.damaged = true) := by
  decide +kernel
theorem witness_LostLinkWordFaultsTheEngine :
    (let s := loseLink 40 (listRow .hold 40 jobPart)
    (∀ o ∈ [HoldOp.openRow 40 hold40, .renewRow 40 hold40, .freeRow 40 hold40 true, .refile 40, .requeue 40],
      (let p : Plan := { holdOps := [o] }
      p.holdOps = [o] ∧ p.leaves = [] ∧ p.action = .nothing ∧ (p.holdOps.map HoldOp.row).Nodup ∧ o.row = 40)) ∧
    s.isListed .hold 40 = true ∧ (s.linkWord 40).one.outcome = .uncorrectable ∧ (s.linkWord 40).two.outcome = .uncorrectable) := by
  refine ⟨?_, ?_⟩
  · intro o ho
    simp only [List.mem_cons, List.not_mem_nil, or_false] at ho
    rcases ho with rfl | rfl | rfl | rfl | rfl <;> exact ⟨rfl, rfl, rfl, by decide, rfl⟩
  · decide +kernel
/-- The claim of a HOLD_OPEN, the free chain's head listed and its link word lost; or the head claimed, the next row unreadable and its link
word lost. -/
theorem witness_LostLinkWordFaultsTheEngine_claim :
    (let r := tillAsk 5 300 900
    let row := active [paid 900]
    let s := loseLink 0 (listRow .hold 0 (at7 r row till7 lunch))
    let u := s.bothLocked (onTill r) 123
    let second := ((loseLink 1 (at7 r row till7 lunch)).putHoldStored 1 { val := {}, ecc := lostBits }).setHolds
      { (at7 r row till7 lunch).holds with hand := [{ kind := .claim, hold := 0, gen := 0, card := 9, place := 1 }] }
    let v := second.bothLocked (onTill r) 123
    let x := quarantineJoin .hold 1 v
    (TReady .holdOpen (onTill r) row till7 lunch s ∧
      lunch.velocityLimit = 0 ∧ 900 ≤ balance 20105 (wk .holdOpen (onTill r) row lunch s).lots - (wk .holdOpen (onTill r) row lunch s).held ∧
      (wk .holdOpen (onTill r) row lunch s).refs.length < lunch.holdsPerCard ∧
      RowsPassed ClaimPassed s.holds.free.head [] (some 0) u u ∧ 0 < s.holds.free.count ∧ ClaimPassed 0 u u ∧ u.linkIsLost 0) ∧
    (TReady .holdOpen (onTill r) row till7 lunch second ∧ RowsPassed ClaimPassed second.holds.free.head [0] (some 1) v v ∧
      1 < second.holds.free.count ∧ ClaimPassed 1 v x ∧ x.linkIsLost 1)) := by
  refine ⟨⟨tready_of ?_, ?_, ?_, ?_, .here _ _, ?_, .inr ⟨?_, .inl ⟨?_, rfl⟩⟩, ⟨?_, ?_⟩⟩,
    ⟨tready_of ?_, .on 0 (some 1) [] _ _ _ _ _ (.inl ⟨?_, rfl⟩) ⟨?_, .inl ⟨?_, rfl⟩⟩ (.here _ _), ?_, .inr ⟨?_, .inr ⟨?_, ?_, rfl⟩⟩,
      ⟨?_, ?_⟩⟩⟩ <;> decide +kernel
/-- The search of a due handout, the due chain's head listed and its link word lost; or the head unreadable and passed over,
the next row in hand and its link word lost. -/
theorem witness_LostLinkWordFaultsTheEngine_handout :
    (let s := loseLink 40 (listRow .hold 40 (duePart quietPart))
    let second := loseLink 41 duePassed
    let v := quarantineJoin .hold 40 second
    let room := fun (v : State) => v.freePlace = some 0 ∧ v.journal.written - v.journal.cached + v.journal.reserved + 1 ≤ v.dir.journalCount
    (seeksDue s = true ∧ room s ∧ RowsPassed DuePassed s.holds.due.head [] (some 40) s s ∧ 0 < s.holds.due.count ∧ DuePassed 40 s s ∧ s.linkIsLost 40) ∧
    (seeksDue second = true ∧ room second ∧ RowsPassed DuePassed second.holds.due.head [40] (some 41) second v ∧ 1 < second.holds.due.count ∧
      DuePassed 41 v v ∧ v.linkIsLost 41)) := by
  refine ⟨⟨?_, ⟨?_, ?_⟩, .here _ _, ?_, .inr ⟨?_, .inl (.inl ⟨?_, rfl⟩)⟩, ⟨?_, ?_⟩⟩,
    ⟨?_, ⟨?_, ?_⟩, .on 40 (some 41) [] _ _ _ _ _ (.inr ⟨?_, .inl (.inr ⟨?_, ?_, rfl⟩)⟩) ⟨?_, .inl ⟨?_, rfl⟩⟩ (.here _ _), ?_, .inl ⟨?_, rfl⟩,
      ⟨?_, ?_⟩⟩⟩ <;> decide +kernel

theorem witness_LotOperationsKeepTheValue :
    addPaid 5 [paid 1] = some [paid 6] ∧ addPaid 5 full = none ∧ addBonus 3 20201 full = some (bonus 20201 4 :: full.tail) ∧
    lotsOrdered full = true ∧ addBonus 3 20200 full = none ∧ 6 ≤ lotSum full := by decide +kernel

theorem witness_AnswerWriteCountsAndFreesTheWorker :
    (let s := answerPart
    let marked := s.setLink { mem := cells 0x20101 [1] }
    let fails := s.setLink { writesFail := [(0x2017F, 1)] }
    (s.notices.answers = [] ++ handed :: [] ∧ handed.lane = 1 ∧ handed.half.length = 64 ∧ s.units.waiting = [] ∧ s.units.roomWaiters = [] ∧
      s.worker 0 = some (onOffice (officeAsk 18 1)) ∧ handed.worker = some 0 ∧ (∀ b ∈ s.notices.answers, b.lane ≠ 2)) ∧
    (handed.entry.base + handed.slot * 128 = 0x20100 ∧ 0x20100 + 128 ≤ s.dir.engineWords + 4 * 1) ∧
    (s.link.writable 0x20100 1 ∧ s.link.writable 0x20140 64 ∧ s.link.writable 0x200004 4) ∧
    (handed.worker.isSome = true ∧ linkRead marked (0x20100 + 1) 1 = some [1]) ∧ ¬ fails.link.writable 0x20140 64) := by
  refine ⟨by decide +kernel, by decide +kernel, ⟨quiet_writable _ _ (by decide) _ rfl, quiet_writable _ _ (by decide) _ rfl,
    quiet_writable _ _ (by decide) _ rfl⟩, by decide +kernel, ?_⟩
  intro h
  exact absurd (h 63 (by decide)) (by decide +kernel)

theorem witness_JournalAppendsInOrder :
    (let s := queuePart
    let again := s.setJournal { s.journal with retry := true }
    let fails := s.setLink { writesFail := [(0x10007F, 1)] }
    (Instr.journalAppend, false) ∈ [(Instr.journalAppend, false), (Instr.journalWriteRetry, true)] ∧
    (s.control.directory = some dir ∧ s.journal.retry = false ∧ s.journal.queue = [{ entry := entry500, last := some 2 }] ∧
      dir.journalBase + 64 * (s.journal.written % dir.journalCount) = 0x100040) ∧
    (s.link.writable 0x100040 64 ∧ s.link.writable (dir.engineWords + 256) 8) ∧ again.journal.retry = true ∧
    ¬ fails.link.writable 0x100040 64 ∧ State.reset.control.directory = none ∧ quietPart.journal.queue = []) := by
  refine ⟨by simp, by decide +kernel, ⟨quiet_writable _ _ (by decide) _ rfl, quiet_writable _ _ (by decide) _ rfl⟩, rfl, ?_, rfl, rfl⟩
  intro h
  exact absurd (h 63 (by decide)) (by decide +kernel)

end Sys2Proof.Tests
end

section
/-! PROOFS. Card numbers: the check digit test of step 7 (spec/02, R24), and the path of a request with a card number to that step. -/

namespace Sys2Proof.Machine

/-! ### The weighted sum -/

/-- The weight of the digit at place `i` from the left, which over an odd number of digits is its weight from the right too (R24). -/
def digitWeight (i : Nat) : Nat := if i % 2 = 0 then 1 else 3

theorem digitWeight_add_two (i : Nat) : digitWeight (i + 2) = digitWeight i := by
  simp [digitWeight]

theorem weightedSum_eq_sum (ds : List Nat) :
    weightedSum ds = ((List.range ds.length).map (fun i => ds.getD i 0 * digitWeight i)).sum := by
  induction ds using weightedSum.induct with
  | case1 => rfl
  | case2 a => simp [weightedSum, digitWeight]
  | case3 a b r ih =>
    have hrest : ((List.range r.length).map (fun i => (a :: b :: r).getD (i + 2) 0 * digitWeight (i + 2))).sum =
        weightedSum r := by
      simp [ih, digitWeight_add_two]
    simp only [List.length_cons, List.range_succ_eq_map, List.map_cons, List.map_map, List.sum_cons, Function.comp_def,
      Nat.succ_eq_add_one, Nat.add_assoc, Nat.reduceAdd, hrest]
    simp [weightedSum, digitWeight]
    omega

/-- Nineteen digits of at most 9 weigh at most 9 times the weights' sum (R24). -/
theorem weightedSum_le {ds : List Nat} (hlen : ds.length = 19) (hds : ∀ d ∈ ds, d ≤ 9) : weightedSum ds ≤ 333 := by
  have hdigit : ∀ i ∈ List.range 19, ds.getD i 0 * digitWeight i ≤ 9 * digitWeight i := fun i hi => by
    have hi : i < ds.length := hlen ▸ List.mem_range.mp hi
    rw [List.getD_eq_getElem _ _ hi]
    exact Nat.mul_le_mul_right _ (hds _ (List.getElem_mem hi))
  calc weightedSum ds = ((List.range 19).map (fun i => ds.getD i 0 * digitWeight i)).sum := hlen ▸ weightedSum_eq_sum ds
    _ ≤ ((List.range 19).map (fun i => 9 * digitWeight i)).sum := List.sum_le_sum hdigit
    _ = 333 := by decide

/-! ### The request commands -/

/-- Every request command begins the held request where it is of the command's row. -/
theorem exec_requestCommand {mk : Nat → Outside → Instr} {row : Req → Bool} (h : (mk, row) ∈ requestCommands) (w : Nat)
    (e : Outside) (s : State) : exec (mk w e) s = .next (beginRequest row w (s.outside e)) := by
  have hall : ∀ c ∈ requestCommands, exec (c.1 w e) s = .next (beginRequest c.2 w (s.outside e)) := by
    simp only [requestCommands, List.forall_mem_cons, List.not_mem_nil, false_imp_iff, implies_true, and_true]
    and_intros <;> rfl
  exact hall _ h

/-- The command of a till kind is a request command whose row is that kind. -/
theorem tillCommand_mem_requestCommands {mk : Nat → Outside → Instr} {kd : RequestKind} (h : (mk, kd) ∈ tillCommands) :
    (mk, ofKind kd) ∈ requestCommands := by
  have hfirst : tillCommands.map (fun c => (c.1, ofKind c.2)) = requestCommands.take 9 := rfl
  exact List.mem_of_mem_take (hfirst ▸ List.mem_map_of_mem h)

theorem tillCommand_isTill {mk : Nat → Outside → Instr} {kd : RequestKind} (h : (mk, kd) ∈ tillCommands) : kd.isTill = true := by
  have hkinds : ∀ c ∈ tillCommands.map Prod.snd, c.isTill = true := by decide
  exact hkinds _ (List.mem_map_of_mem h)

/-- A request of a kind is of the row of that kind. -/
theorem Posted.row_ofKind {kd : RequestKind} {w : Nat} {k : Work} {s : State} (h : Posted kd w k s) : ofKind kd k.req = true := by
  have hkind := h.kind
  unfold Work.kind? at hkind
  unfold ofKind Work.req
  split at hkind
  · simp_all
  · simp at hkind

/-! ### The path to step 7 -/

/-- The second reading keeps the recent list (R95, R103). -/
@[simp] theorem TillRow.atSecondReading_recent (t : TillRow) (recovery now : Nat) :
    (t.atSecondReading recovery now).recent = t.recent := by
  unfold TillRow.atSecondReading TillRow.recovered
  split
  · split
    · rfl
    · split <;> rfl
  · rfl

/-- Steps 5 and 6 with a new sequence and a standing that the gate admits lead to step 7 (R100, R107). -/
theorem onTillRow_passes {kd : RequestKind} {w : Nat} {k : Work} {t : TillRow} {s : State}
    (hfresh : findRecent k.req.seq t.recent = none) (hgate : standingGate kd t.standing = none) :
    onTillRow w kd k t s = stepsSevenOn w kd k s := by
  simp [onTillRow, recentCheck, hfresh, hgate]

/-- The second reading of a row that still admits the request leads to step 5 on its working copy (R95, R103). -/
theorem afterTillLock_admits {kd : RequestKind} {w : Nat} {k : Work} {t : TillRow} {s : State} (hkd : kd.isTill = true)
    (hread : readTill s k.req.tillIndex = (s, some t)) (hadmits : t.admits k.req = true) :
    (let copy := t.atSecondReading s.dir.recovery s.clock.reading.index
    afterTillLock w kd k s =
      onTillRow w kd { k with tillReading := some s.clock.reading, tillRead := some t, till := some copy } copy s) := by
  have hreq : ({ k with tillReading := some s.clock.reading } : Work).req = k.req := rfl
  simp only [afterTillLock, hkd, if_true, hreq, hread, hadmits]

@[simp] theorem Work.tillRowRead_req (k : Work) (t : TillRow) (s : State) : (k.tillRowRead t s).req = k.req := rfl

@[simp] theorem State.tillLocked_tables (s : State) (k : Work) : (s.tillLocked k).tables = s.tables := rfl

/-- A till request whose till row admits it comes to step 7 with its till lock and the row's copies (R38, R95). -/
theorem till_request_reaches_seven {kd : RequestKind} {f : Req → Bool} {w : Nat} {k : Work} {t : TillRow} {s : State}
    (hf : f k.req = true) (hkd : kd.isTill = true) (hp : Posted kd w k s) (ht : TillPasses kd k t s) :
    beginRequest f w s = stepsSevenOn w kd (k.tillRowRead t s) (s.tillLocked k) := by
  have hfirst : readTill s k.req.tillIndex = (s, some t) := readTill_clean ht.inTable ht.unlisted ht.stored
  have hsecond : readTill (s.tillLocked k) k.req.tillIndex = (s.tillLocked k, some t) :=
    readTill_clean ht.inTable ht.unlisted ht.stored
  have hlock : requestLock (.till k.req.tillIndex) k.place s = (s.tillLocked k, true) := requestLock_granted ht.free ht.bank
  calc beginRequest f w s = stepTwo w kd k s := by
        rw [beginRequest_held hp.held hf, stepOne_wellFormed hp.kind hp.wellFormed]
    _ = takeTillLock w kd k s := by simp [stepTwo, hkd, stepThree, hfirst, ht.admits]
    _ = afterTillLock w kd { k with tillLock := some k.req.tillIndex } (s.tillLocked k) := by simp only [takeTillLock, hlock]
    _ = onTillRow w kd (k.tillRowRead t s) (t.atSecondReading s.dir.recovery s.clock.reading.index) (s.tillLocked k) :=
        afterTillLock_admits hkd hsecond ht.admits
    _ = stepsSevenOn w kd (k.tillRowRead t s) (s.tillLocked k) := onTillRow_passes (by simpa using ht.fresh) ht.gate

/-- An office card request, which has no till row, comes to step 7 with no lock (R38, R40). -/
theorem office_card_request_reaches_seven {kd : RequestKind} {f : Req → Bool} {w : Nat} {k : Work} {s : State}
    (hf : f k.req = true) (hkd : kd.isTill = false) (hcard : kd.hasCard = true) (hp : Posted kd w k s) :
    beginRequest f w s = stepsSevenOn w kd k s := by
  have hlane : k.onOfficeLane = true := hp.authority.resolve_left (by simp [hkd])
  have hnoTillLock : kd.takesTillLock = false := by
    cases kd <;> simp_all [RequestKind.isTill, RequestKind.hasCard, RequestKind.takesTillLock]
  rw [beginRequest_held hp.held hf, stepOne_wellFormed hp.kind hp.wellFormed]
  simp [stepTwo, hkd, hlane, hnoTillLock, hcard]

/-! ### Steps 7 and 8 -/

/-- A request declined before its card row was read goes to its commit when the trail place owes nothing (R41, R142). -/
theorem declineNow_free {w : Nat} {k : Work} {r : Reason} {s : State} (ht : s.trailOwing s.store.trailPlace = false) :
    declineNow w k r s = commitNow w k { result := .declined, reason := r } s := prepareCommit_free rfl ht

/-- A number that fails the check digit test is declined at step 7 (R24). -/
theorem stepsSevenOn_checkDigit {kd : RequestKind} {w : Nat} {k : Work} {s : State} (ht : s.trailOwing s.store.trailPlace = false)
    (h : checkDigitOk k.req.digits = false) :
    stepsSevenOn w kd k s = commitNow w k { result := .declined, reason := .checkDigit } s := by
  simp [stepsSevenOn, h, declineNow_free ht]

/-- A number that passes it and that no rule selects is declined at step 8 (R26). -/
theorem stepsSevenOn_noProgramme {kd : RequestKind} {w : Nat} {k : Work} {s : State} (ht : s.trailOwing s.store.trailPlace = false)
    (h : checkDigitOk k.req.digits = true) (hsel : selectProgramme s.tables k.req.digits = none) :
    stepsSevenOn w kd k s = commitNow w k { result := .declined, reason := .noProgramme } s := by
  simp [stepsSevenOn, h, hsel, declineNow_free ht]

/-! ### The score -/

/-- A card fault adds 8 to a score that stays in range (R99). -/
theorem TillRow.scored_cardFault {t : TillRow} {r : Reason} (hr : r.isCardFault = true) (hb : t.barred = false)
    (hs : t.score ≤ 247) : (t.scored .declined r false).score = t.score + 8 := by
  have hrange : ¬ 255 < t.score + 8 := by omega
  simp [TillRow.scored, hr, TillRow.addFault, hb, hrange, TillRow.setScore]

/-! ### The statement -/

/-- Settles O34: the weighted sum is the digits' sum by weight, and each kind with a card number comes to step 7 by its own path. -/
theorem checkDigitTestAtStepSeven : Obligations.CheckDigitTestAtStepSeven := by
  unfold Obligations.CheckDigitTestAtStepSeven
  refine ⟨?weights, ?till, ?office, ?score⟩
  case weights =>
    intro ds hlen hds
    have hsum : weightedSum ds = ((List.range 19).map (fun i => ds.getD i 0 * digitWeight i)).sum := hlen ▸ weightedSum_eq_sum ds
    simp only [checkDigitOk, decide_eq_true_eq, hsum]
    exact ⟨Iff.rfl, hsum ▸ weightedSum_le hlen hds⟩
  case till =>
    rintro mk kd w e s₀ _ k t hmk rfl hp ht
    rw [exec_requestCommand (tillCommand_mem_requestCommands hmk),
      till_request_reaches_seven hp.row_ofKind (tillCommand_isTill hmk) hp ht]
    have hfree : ((s₀.outside e).tillLocked k).trailOwing ((s₀.outside e).tillLocked k).store.trailPlace = false := hp.trail
    exact ⟨fun hbad => by rw [stepsSevenOn_checkDigit hfree (by simpa using hbad)],
      fun hok hsel => by rw [stepsSevenOn_noProgramme hfree (by simpa using hok) (by simpa using hsel)]⟩
  case office =>
    rintro mk row kd w e s₀ _ k hmk rfl hp hrow hkd hcard
    rw [exec_requestCommand hmk, office_card_request_reaches_seven hrow hkd hcard hp]
    exact ⟨fun hbad => by rw [stepsSevenOn_checkDigit hp.trail hbad],
      fun hok hsel => by rw [stepsSevenOn_noProgramme hp.trail hok hsel]⟩
  case score =>
    intro t hb hs
    exact TillRow.scored_cardFault rfl hb hs

end Sys2Proof.Machine
end

section
/-! PROOFS. Till standings, part 1 (spec/05, R98, R106): what being in order says of a till row, which operations on a row and on its recent
list keep it, and how the invariant reads block by block. -/

namespace Sys2Proof.Machine

/-! ### A till row in order -/

theorem TillRow.ok_iff (t : TillRow) :
    t.ok = true ↔ t.standing = standingOf t.barred t.score ∧ t.score ≤ 255 ∧ (t.barred = true → t.score = 255) ∧
      t.recent.length ≤ Config.recentCapacity := by
  cases hb : t.barred <;> simp [TillRow.ok, hb, and_assoc]

theorem standingOf_barred (n : Nat) : standingOf true n = .barred := rfl

/-- The standing of a till that is not barred, by its score (R98). -/
theorem standing_eq_standingOf_iff (st : Standing) (n : Nat) :
    st = standingOf false n ↔
      (n ≤ 95 → st = .good) ∧ (96 ≤ n → n ≤ 127 → st = .watched) ∧ (128 ≤ n → st = .restricted) := by
  rcases Nat.lt_or_ge n 96 with hgood | hnot
  · simp [standingOf, hgood, show n ≤ 95 by omega, show ¬ 96 ≤ n by omega, show ¬ 128 ≤ n by omega]
  · rcases Nat.lt_or_ge n 128 with hwatched | hrestricted
    · simp [standingOf, hwatched, hnot, show ¬ n < 96 by omega, show ¬ n ≤ 95 by omega, show n ≤ 127 by omega,
        show ¬ 128 ≤ n by omega]
    · simp [standingOf, hrestricted, show ¬ n < 96 by omega, show ¬ n < 128 by omega, show ¬ n ≤ 95 by omega,
        show ¬ n ≤ 127 by omega]

/-- R98's table: a row is in order exactly when its score is in range, its list fits, and its standing is the one the table gives. -/
theorem TillRow.ok_iff_table (t : TillRow) : t.ok = true ↔
    t.score ≤ 255 ∧ t.recent.length ≤ 8 ∧
    (t.barred = true → t.score = 255 ∧ t.standing = .barred) ∧
    (t.barred = false →
      (t.score ≤ 95 → t.standing = .good) ∧ (96 ≤ t.score → t.score ≤ 127 → t.standing = .watched) ∧
      (128 ≤ t.score → t.standing = .restricted)) := by
  rw [TillRow.ok_iff]
  cases t.barred with
  | true =>
    simp only [standingOf_barred, forall_const, Bool.true_eq_false, false_imp_iff, and_true, Config.recentCapacity]
    tauto
  | false =>
    simp only [standing_eq_standingOf_iff, Bool.false_eq_true, false_imp_iff, true_and, forall_const, Config.recentCapacity]
    tauto

/-! ### Operations on a till row -/

section
variable {t : TillRow}

theorem TillRow.recent_le_of_ok (h : t.ok = true) : t.recent.length ≤ Config.recentCapacity := (t.ok_iff.mp h).2.2.2

/-- A score in range, 255 where the mark is set, written with its standing leaves the row in order (R98). -/
theorem TillRow.setScore_ok {b : Bool} {n : Nat} (h : t.ok = true) (hn : n ≤ 255) (hb : b = true → n = 255) :
    (t.setScore b n).ok = true :=
  (TillRow.ok_iff _).mpr ⟨rfl, hn, hb, t.recent_le_of_ok h⟩

/-- A till released: score 0 and the mark clear (R103, R104). -/
theorem TillRow.released_ok (h : t.ok = true) : (t.setScore false 0).ok = true := TillRow.setScore_ok h (Nat.zero_le _) nofun

/-- Only standing, score, mark and list decide whether a row is in order: another list that fits keeps it so. -/
theorem TillRow.withRecent_ok {l : List RecentEntry} (h : t.ok = true) (hl : l.length ≤ Config.recentCapacity) :
    ({ t with recent := l } : TillRow).ok = true := by
  obtain ⟨hstanding, hscore, hbarred, -⟩ := t.ok_iff.mp h
  exact (TillRow.ok_iff _).mpr ⟨hstanding, hscore, hbarred, hl⟩

theorem TillRow.addFault_ok (h : t.ok = true) : t.addFault.ok = true := by
  unfold TillRow.addFault
  split
  · exact h
  · split
    · exact TillRow.setScore_ok h (Nat.le_refl _) fun _ => rfl
    · exact TillRow.setScore_ok h (by omega) nofun

theorem TillRow.takeApproval_ok (h : t.ok = true) : t.takeApproval.ok = true := by
  have hscore : t.score ≤ 255 := (t.ok_iff.mp h).2.1
  unfold TillRow.takeApproval
  split
  · exact h
  · exact TillRow.setScore_ok h (by omega) nofun

/-- The score change of an answer (R99). -/
theorem TillRow.scored_ok (result : Result) (reason : Reason) (again : Bool) (h : t.ok = true) :
    (t.scored result reason again).ok = true := by
  unfold TillRow.scored
  split
  · exact h
  · cases result with
    | declined =>
      dsimp only
      split
      · exact TillRow.addFault_ok h
      · exact h
    | approved => exact TillRow.takeApproval_ok h
    | partly => exact TillRow.takeApproval_ok h
    | withdrawn => exact h

/-- The recovery test sets the score to 0 with the mark clear, or leaves the row as it was (R103). -/
theorem TillRow.recovered_ok (recovery now : Nat) (h : t.ok = true) : (t.recovered recovery now).ok = true := by
  unfold TillRow.recovered
  split
  · split
    · exact TillRow.released_ok h
    · split
      · exact TillRow.released_ok h
      · exact h
  · exact h

theorem TillRow.atSecondReading_ok (recovery now : Nat) (h : t.ok = true) : (t.atSecondReading recovery now).ok = true :=
  TillRow.recovered_ok recovery now h

end

/-! ### The recent list -/

theorem addRecent_length_le {l : List RecentEntry} (e : RecentEntry) (h : l.length ≤ Config.recentCapacity) :
    (addRecent e l).length ≤ Config.recentCapacity := by
  unfold addRecent
  split <;>
    · simp only [List.length_append, List.length_drop, List.length_singleton, Config.recentCapacity] at *
      omega

@[simp] theorem markReversed_length (q : Nat) (l : List RecentEntry) : (markReversed q l).length = l.length :=
  List.length_map _

/-- A commit leaves a list that fits (R106, R110). -/
theorem commitRecent_length_le {r : Req} {kd : RequestKind} {p : Plan} {row movement : Option Nat} {l : List RecentEntry}
    (h : l.length ≤ Config.recentCapacity) : (commitRecent r kd p row movement l).length ≤ Config.recentCapacity := by
  unfold commitRecent
  extract_lets marked full
  have hmarked : marked.length ≤ Config.recentCapacity := by
    unfold marked
    cases p.reversedSeq with
    | none => exact h
    | some q => exact (markReversed_length q l).le.trans h
  have hfull : full.length ≤ Config.recentCapacity := by
    unfold full
    cases p.ahead with
    | none => exact hmarked
    | some e => exact addRecent_length_le e hmarked
  split
  · exact addRecent_length_le _ hfull
  · exact hfull

/-! ### Plans, phases and work -/

/-- The till row a plan writes in place of a working copy is in order. -/
def Plan.tillOk (p : Plan) : Bool := p.tillNew.all TillRow.ok

/-- The condition a phase puts on the plan it carries is that of the plan. -/
@[simp] theorem Phase.tillOk_awaitRoom (p : Plan) : (Phase.awaitRoom p).tillOk = p.tillOk := rfl
@[simp] theorem Phase.tillOk_roomGranted (p : Plan) : (Phase.roomGranted p).tillOk = p.tillOk := rfl
@[simp] theorem Phase.tillOk_awaitTrail (p : Plan) : (Phase.awaitTrail p).tillOk = p.tillOk := rfl

/-- Work is in order when its working copy is, and the plan of its phase. -/
theorem Work.tillOk_iff (k : Work) : k.tillOk = true ↔ k.till.all TillRow.ok = true ∧ k.phase.tillOk = true := Bool.and_eq_true_iff

/-- Work in order stays so in any phase whose plan is in order. -/
theorem Work.withPhase_tillOk {k : Work} {ph : Phase} (hk : k.tillOk = true) (hp : ph.tillOk = true) :
    ({ k with phase := ph } : Work).tillOk = true :=
  (Work.tillOk_iff _).mpr ⟨(k.tillOk_iff.mp hk).1, hp⟩

/-- A working copy in order put into work in order. -/
theorem Work.withTill_tillOk {k : Work} {t : TillRow} (hk : k.tillOk = true) (ht : t.ok = true) :
    ({ k with till := some t } : Work).tillOk = true :=
  (Work.tillOk_iff _).mpr ⟨ht, (k.tillOk_iff.mp hk).2⟩

/-- The plan of work that waits is in order. -/
theorem Work.plan_tillOk {k : Work} {p : Plan} (hk : k.tillOk = true)
    (hph : k.phase = .awaitRoom p ∨ k.phase = .roomGranted p ∨ k.phase = .awaitTrail p) : p.tillOk = true := by
  obtain ⟨-, hphase⟩ := k.tillOk_iff.mp hk
  rcases hph with h | h | h <;> simpa [h] using hphase

theorem Work.received_tillOk {k : Work} (l : LockName) (hk : k.tillOk = true) : (k.received l).tillOk = true := by
  cases l <;> exact Work.withPhase_tillOk hk rfl

/-- The till row of a commit is in order: a working copy scored and with its entry, or the plan's own row (R96, R99, R104, R106). -/
theorem commitTill_ok {k : Work} {p : Plan} {movement : Option Nat} (hk : k.tillOk = true) (hp : p.tillOk = true) :
    (commitTill k p movement).all TillRow.ok = true := by
  obtain ⟨hcopy, -⟩ := k.tillOk_iff.mp hk
  unfold commitTill
  cases hk : k.till with
  | none => exact hp
  | some t =>
    have hscored := TillRow.scored_ok p.result p.reason p.repeated.isSome (t := t) (by simpa [hk] using hcopy)
    dsimp only
    split
    · exact TillRow.withRecent_ok hscored (commitRecent_length_le (TillRow.recent_le_of_ok hscored))
    · exact hscored

/-! ### The invariant, block by block -/

/-- Every till row of a store is in order. -/
def Store.tillsOk (v : Store) : Prop := ∀ i, (Sparse.get scrubbedTill v.tills i).val.ok = true

/-- Every till row that the work in flight carries is in order. -/
structure Units.tillsOk (u : Units) : Prop where
  workers : ∀ w k, Sparse.get none u.workers w = some k → k.tillOk = true
  waiting : ∀ x ∈ u.waiting, x.work.tillOk = true
  ready : ∀ k ∈ u.ready, k.tillOk = true

/-- The invariant speaks of the store and of the units alone. -/
theorem State.tillsOk_iff (s : State) : s.tillsOk ↔ s.store.tillsOk ∧ s.units.tillsOk :=
  ⟨fun ⟨hstore, hworkers, hwaiting, hready⟩ => ⟨hstore, hworkers, hwaiting, hready⟩,
    fun ⟨hstore, hworkers, hwaiting, hready⟩ => ⟨hstore, hworkers, hwaiting, hready⟩⟩

theorem Units.tillsOk_empty : ({} : Units).tillsOk := ⟨fun _ _ h => by simp [Sparse.get] at h, by simp, by simp⟩

/-- Till row contents and units that are the same keep the invariant. -/
theorem State.tillsOk_of_same {s t : State} (hs : s.tillsOk) (hrows : ∀ i, (t.tillRow i).val = (s.tillRow i).val)
    (hunits : t.units = s.units) : t.tillsOk := by
  obtain ⟨hstore, hu⟩ := s.tillsOk_iff.mp hs
  exact t.tillsOk_iff.mpr ⟨fun i => (congrArg TillRow.ok (hrows i)).trans (hstore i), hunits ▸ hu⟩

section
variable {s : State}

theorem State.setUnits_tillsOk {u : Units} (hs : s.tillsOk) (hu : u.tillsOk) : (s.setUnits u).tillsOk :=
  (State.tillsOk_iff _).mpr ⟨(s.tillsOk_iff.mp hs).1, hu⟩

/-- A store that keeps the table of till rows keeps the invariant. -/
theorem State.setStore_tillsOk {v : Store} (hs : s.tillsOk) (hv : v.tills = s.store.tills) : (s.setStore v).tillsOk :=
  State.tillsOk_of_same hs (fun i => by simp only [State.tillRow, State.setStore_store, hv]) rfl

theorem State.putTillStored_tillsOk {i : Nat} {c : Stored TillRow} (hs : s.tillsOk) (hc : c.val.ok = true) :
    (s.putTillStored i c).tillsOk := by
  obtain ⟨hstore, hunits⟩ := s.tillsOk_iff.mp hs
  refine (State.tillsOk_iff _).mpr ⟨fun j => ?_, hunits⟩
  by_cases hj : j = i
  · subst hj
    simpa only [State.putTillStored, State.setStore_store, Sparse.get_set_same] using hc
  · simpa only [State.putTillStored, State.setStore_store, Sparse.get_set_other _ _ _ hj] using hstore j

theorem State.setWorker_tillsOk {v : Option Work} (hs : s.tillsOk) (w : Nat) (hv : v.all Work.tillOk = true) :
    (s.setWorker w v).tillsOk := by
  obtain ⟨-, hworkers, hwaiting, hready⟩ := s.tillsOk_iff.mp hs
  refine State.setUnits_tillsOk hs ⟨fun x k hx => ?_, hwaiting, hready⟩
  by_cases hxw : x = w
  · subst hxw
    simp only [Sparse.get_set_same] at hx
    simpa [hx] using hv
  · simp only [Sparse.get_set_other _ _ _ hxw] at hx
    exact hworkers x k hx

theorem State.worker_tillOk {w : Nat} {k : Work} (hs : s.tillsOk) (hw : s.worker w = some k) : k.tillOk = true :=
  hs.2.1 w k hw

/-- What only reads rows keeps the invariant. -/
theorem Observed.tillsOk {s t : State} (h : Observed s t) (hs : s.tillsOk) : t.tillsOk := State.tillsOk_of_same hs h.tills h.units

/-- What only changes chains and link words keeps the invariant. -/
theorem ChainsOnly.tillsOk {s t : State} (h : ChainsOnly s t) (hs : s.tillsOk) : t.tillsOk := by
  rw [h]
  exact hs

/-- The state that an operation answers beside another value. -/
theorem tillsOk_of_eq {α : Type} {r : State × α} {t : State} {a : α} (h : r.1.tillsOk) (e : r = (t, a)) : t.tillsOk := by
  subst e
  exact h

/-- A fold of operations that keep the invariant keeps it. -/
theorem foldl_tillsOk {α : Type} {f : State → α → State} (hf : ∀ u a, u.tillsOk → (f u a).tillsOk) (l : List α) (hs : s.tillsOk) :
    (l.foldl f s).tillsOk :=
  List.foldlRecOn l f hs fun u hu a _ => hf u a hu

end

end Sys2Proof.Machine
end

section
/-! PROOFS. Till standings, part 2: each operation that the blocks share keeps the invariant. -/

namespace Sys2Proof.Machine

section
variable {s : State}

/-! ### Blocks that carry no till row -/

theorem State.setLink_tillsOk {v : Link} (hs : s.tillsOk) : (s.setLink v).tillsOk := hs
theorem State.setControl_tillsOk {v : Control} (hs : s.tillsOk) : (s.setControl v).tillsOk := hs
theorem State.setNotices_tillsOk {v : Notices} (hs : s.tillsOk) : (s.setNotices v).tillsOk := hs
theorem State.setLanes_tillsOk {v : Lanes} (hs : s.tillsOk) : (s.setLanes v).tillsOk := hs
theorem State.setLocks_tillsOk {v : Locks} (hs : s.tillsOk) : (s.setLocks v).tillsOk := hs
theorem State.setTables_tillsOk {v : Tables} (hs : s.tillsOk) : (s.setTables v).tillsOk := hs
theorem State.setHolds_tillsOk {v : HoldTable} (hs : s.tillsOk) : (s.setHolds v).tillsOk := hs
theorem State.setJournal_tillsOk {v : Journal} (hs : s.tillsOk) : (s.setJournal v).tillsOk := hs

/-! ### Link, notices and the quarantine list -/

theorem linkPut_tillsOk (a : Nat) (bs : List Byte) (hs : s.tillsOk) : (linkPut s a bs).1.tillsOk := by
  obtain ⟨m, hput, -⟩ := linkPut_only s a bs
  rw [hput]
  exact hs

theorem linkBlock_tillsOk (a : Nat) (bs : List Byte) (hs : s.tillsOk) : (linkBlock s a bs).1.tillsOk := hs

theorem raiseCause_tillsOk (c : Cause) (hs : s.tillsOk) : (raiseCause c s).tillsOk := (raiseCause_observed c s).tillsOk hs

theorem sendMsi_tillsOk (hs : s.tillsOk) : (sendMsi s).tillsOk := by
  unfold sendMsi
  split <;> exact hs

theorem quarantineLeave_tillsOk (k : RowKind) (i : Nat) (hs : s.tillsOk) : (quarantineLeave k i s).tillsOk := by
  obtain ⟨m, hleave, -⟩ := quarantineLeave_only k i s
  rw [hleave]
  exact hs

/-! ### Rows -/

/-- A read of a till row that gives one gives a row in order. -/
theorem readTill_ok {i : Nat} {t : State} {row : TillRow} (hs : s.tillsOk) (h : readTill s i = (t, some row)) : row.ok = true := by
  rw [readTill_value (congrArg Prod.snd h)]
  exact hs.1 i

theorem readTill_tillsOk (i : Nat) (hs : s.tillsOk) : (readTill s i).1.tillsOk := (readTill_observed s i).tillsOk hs
theorem readCard_tillsOk (i : Nat) (hs : s.tillsOk) : (readCard s i).1.tillsOk := (readCard_observed s i).tillsOk hs
theorem readHold_tillsOk (i : Nat) (hs : s.tillsOk) : (readHold s i).1.tillsOk := (readHold_observed s i).tillsOk hs

/-- A read of a card row that is left out where the row is listed. -/
theorem readCardUnlessListed_tillsOk (i : Nat) (hs : s.tillsOk) :
    (if s.isListed .card i then (s, none) else readCard s i).1.tillsOk := by
  split
  · exact hs
  · exact readCard_tillsOk i hs

theorem State.putTill_tillsOk {i : Nat} {row : TillRow} (hs : s.tillsOk) (hrow : row.ok = true) : (s.putTill i row).tillsOk :=
  State.putTillStored_tillsOk hs hrow

theorem State.putHeader_tillsOk (h : Header) (hs : s.tillsOk) : (s.putHeader h).tillsOk := State.setStore_tillsOk hs rfl

theorem setJournalStatus_tillsOk (k : Nat) (v : TrailStatus) (hs : s.tillsOk) : (setJournalStatus k v s).tillsOk :=
  State.setStore_tillsOk hs rfl
theorem setAnswerStatus_tillsOk (k : Nat) (v : TrailStatus) (hs : s.tillsOk) : (setAnswerStatus k v s).tillsOk :=
  State.setStore_tillsOk hs rfl

theorem abandonPending_tillsOk (hs : s.tillsOk) : (abandonPending s).tillsOk := by
  refine foldl_tillsOk (fun u k hu => ?_) _ hs
  extract_lets settled
  have hsettled : settled.tillsOk := by
    unfold settled
    split
    · exact setJournalStatus_tillsOk k _ hu
    · exact hu
  split
  · exact setAnswerStatus_tillsOk k _ hsettled
  · exact hsettled

/-! ### Journal room -/

theorem reserveRoom_tillsOk (n : Nat) (hs : s.tillsOk) : (reserveRoom n s).tillsOk := hs

theorem testMark_tillsOk (hs : s.tillsOk) : (testMark s).tillsOk := by
  unfold testMark
  dsimp only
  split
  · exact raiseCause_tillsOk _ hs
  · exact hs

/-- A list of room waiters is none of the work in flight. -/
theorem setRoomWaiters_tillsOk (ws : List Nat) (hs : s.tillsOk) : (s.setUnits { s.units with roomWaiters := ws }).tillsOk := hs

/-- A grant takes a waiting plan as it stands into the next phase (R170). -/
theorem grantWaiting_tillsOk (ws : List Nat) (hs : s.tillsOk) : (grantWaiting ws s).tillsOk := by
  induction ws generalizing s with
  | nil => exact setRoomWaiters_tillsOk [] hs
  | cons w ws ih =>
    unfold grantWaiting
    split
    · split
      · next k hw =>
        split
        · next p hph =>
          have hk := State.worker_tillOk hs hw
          have hgranted : ({ k with phase := .roomGranted p, room := k.room + 1 } : Work).tillOk = true :=
            Work.withPhase_tillOk hk (Work.plan_tillOk hk (.inl hph))
          exact ih (reserveRoom_tillsOk 1 (State.setWorker_tillsOk hs w hgranted))
        · exact ih hs
      · exact ih hs
    · exact setRoomWaiters_tillsOk _ hs

theorem grantBalances_tillsOk (hs : s.tillsOk) : (grantBalances s).tillsOk := grantWaiting_tillsOk _ hs

theorem refreshDrained_tillsOk (hs : s.tillsOk) : (refreshDrained s).tillsOk := by
  unfold refreshDrained
  split
  · exact hs
  · dsimp only
    split
    · exact grantBalances_tillsOk (testMark_tillsOk hs)
    · exact hs

theorem askRoom_tillsOk (n : Nat) (hs : s.tillsOk) : (askRoom n s).1.tillsOk := by
  unfold askRoom
  split
  · exact hs
  · split
    · exact reserveRoom_tillsOk n hs
    · dsimp only
      split
      · exact reserveRoom_tillsOk n (refreshDrained_tillsOk hs)
      · exact refreshDrained_tillsOk hs

theorem returnRoom_tillsOk (n : Nat) (hs : s.tillsOk) : (returnRoom n s).tillsOk := grantBalances_tillsOk hs

/-! ### Places, locks and the wait pool -/

theorem reservePlace_tillsOk (p : Nat) (hs : s.tillsOk) : (reservePlace p s).tillsOk := hs
theorem returnPlace_tillsOk (p : Nat) (hs : s.tillsOk) : (returnPlace p s).tillsOk := hs

theorem State.setBank_tillsOk (l : LockName) (b : List Lock) (hs : s.tillsOk) : (s.setBank l b).tillsOk := by
  cases l <;> exact hs

theorem requestLock_tillsOk (l : LockName) (place : Nat) (hs : s.tillsOk) : (requestLock l place s).1.tillsOk := by
  unfold requestLock
  split
  · exact hs
  · split
    · exact State.setBank_tillsOk l _ hs
    · exact hs

theorem enterPool_tillsOk {w : Nat} {k : Work} {l : LockName} (hk : k.tillOk = true) (hs : s.tillsOk) :
    (enterPool w k l s).tillsOk := by
  have hfree : (s.setWorker w none).tillsOk := State.setWorker_tillsOk hs w rfl
  obtain ⟨-, hworkers, hwaiting, hready⟩ := (State.tillsOk_iff _).mp hfree
  refine State.setUnits_tillsOk hfree ⟨hworkers, fun x hx => ?_, hready⟩
  rcases List.mem_append.mp hx with hold | hnew
  · exact hwaiting x hold
  · obtain rfl := List.mem_singleton.mp hnew
    exact hk

/-- A waiter taken and those left were all waiting. -/
theorem takeWaiter_mem {f : Waiter → Bool} {l rest : List Waiter} {x : Waiter} (h : takeWaiter f l = some (x, rest)) :
    x ∈ l ∧ ∀ y ∈ rest, y ∈ l := by
  induction l generalizing rest with
  | nil => simp [takeWaiter] at h
  | cons a r ih =>
    unfold takeWaiter at h
    split at h
    · cases h
      exact ⟨List.mem_cons_self, fun y hy => List.mem_cons_of_mem _ hy⟩
    · obtain ⟨⟨x', rest'⟩, htake, heq⟩ := Option.map_eq_some_iff.mp h
      cases heq
      obtain ⟨hx, hrest⟩ := ih htake
      refine ⟨List.mem_cons_of_mem _ hx, fun y hy => ?_⟩
      rcases List.mem_cons.mp hy with rfl | hy
      · exact List.mem_cons_self
      · exact List.mem_cons_of_mem _ (hrest y hy)

/-- Work that was waiting joins the ready queue with the copies it carried (R119). -/
theorem handOver_tillsOk {x : Waiter} {rest : List Waiter} {f : Waiter → Bool} (row : Nat)
    (htake : takeWaiter f s.units.waiting = some (x, rest)) (hs : s.tillsOk) : (handOver x rest row s).tillsOk := by
  obtain ⟨hx, hrest⟩ := takeWaiter_mem htake
  have hbank := State.setBank_tillsOk x.lock (passEntry row { row := x.lock.row, holder := x.work.place } (s.bank x.lock)) hs
  obtain ⟨-, -, hwaiting, -⟩ := s.tillsOk_iff.mp hs
  obtain ⟨-, hworkers, -, hready⟩ := (State.tillsOk_iff _).mp hbank
  refine State.setUnits_tillsOk hbank ⟨hworkers, fun y hy => hwaiting y (hrest y hy), fun k hk => ?_⟩
  rcases List.mem_append.mp hk with hold | hnew
  · exact hready k hold
  · obtain rfl := List.mem_singleton.mp hnew
    exact Work.received_tillOk x.lock (hwaiting x hx)

theorem releaseLock_tillsOk (l : LockName) (hs : s.tillsOk) : (releaseLock l s).tillsOk := by
  unfold releaseLock
  split
  · next htake => exact handOver_tillsOk _ htake hs
  · split
    · next htake => exact handOver_tillsOk _ htake hs
    · exact State.setBank_tillsOk l _ hs

theorem releaseTill_tillsOk (r : Option Nat) (hs : s.tillsOk) : (releaseTill r s).tillsOk := by
  cases r with
  | none => exact hs
  | some r => exact releaseLock_tillsOk _ hs

theorem releaseCard_tillsOk (r : Option Nat) (hs : s.tillsOk) : (releaseCard r s).tillsOk := by
  cases r with
  | none => exact hs
  | some r => exact releaseLock_tillsOk _ hs

theorem finishWork_tillsOk (w : Nat) (k : Work) (hs : s.tillsOk) : (finishWork w k s).tillsOk :=
  returnRoom_tillsOk _ (returnPlace_tillsOk _ (State.setWorker_tillsOk (releaseTill_tillsOk _ hs) w rfl))

/-! ### The outside world -/

/-- A bit that flips changes no content (R132). -/
theorem applyFlip_tillsOk (f : BitFlip) (hs : s.tillsOk) : (applyFlip s f).tillsOk := by
  unfold applyFlip
  dsimp only
  split
  · split
    case h_2 i _ => exact State.putTillStored_tillsOk hs (hs.1 i)
    all_goals exact State.setStore_tillsOk hs rfl
  · exact hs

theorem State.outside_tillsOk (e : Outside) (hs : s.tillsOk) : (s.outside e).tillsOk :=
  foldl_tillsOk (fun _ f hu => applyFlip_tillsOk f hu) _ hs

/-! ### Hold chains -/

theorem appendRow_tillsOk (c : ChainId) (i : Nat) (hs : s.tillsOk) : (appendRow c i s).tillsOk :=
  ((appendRow_chainStep c i).1 s).tillsOk hs

theorem fileRow_tillsOk (i deadline : Nat) (hs : s.tillsOk) : (fileRow i deadline s).tillsOk :=
  ((fileRow_chainStep i deadline).1 s).tillsOk hs

theorem moveHolds_tillsOk (os : List HoldOp) (hs : s.tillsOk) : (moveHolds os s).1.tillsOk :=
  (moveHolds_chain os s s ⟨rfl, rfl, rfl⟩ fun o _ => by cases o <;> trivial).1.tillsOk hs

theorem writeHoldContent_tillsOk (o : HoldOp) (hs : s.tillsOk) : (writeHoldContent o s).tillsOk := by
  have hput : ∀ i h, (s.putHold i h).tillsOk := fun _ _ => State.setStore_tillsOk hs rfl
  cases o with
  | openRow i h => exact hput i h
  | renewRow i h => exact hput i h
  | freeRow i h unlist =>
    cases unlist with
    | false => exact hput i h
    | true => exact quarantineLeave_tillsOk _ i (hput i h)
  | refile _ => exact hs
  | requeue _ => exact hs

/-- A bucket move leaves every block but chains and link words (R78). -/
theorem concatBucket_tillsOk (b : Nat) (hs : s.tillsOk) : (concatBucket b s).tillsOk := by
  have hjoined := concatBucket_joined b s
  have htills : (concatBucket b s).store.tills = s.store.tills := (congrArg Store.tills hjoined.store :)
  have hunits : (concatBucket b s).units = s.units := (congrArg State.units hjoined.rest :)
  exact State.tillsOk_of_same hs (fun i => by simp only [State.tillRow, htills]) hunits

theorem sweepStep_tillsOk (hs : s.tillsOk) : (sweepStep s).tillsOk := by
  unfold sweepStep
  split
  · exact hs
  · split
    · dsimp only
      split
      · exact hs
      · exact State.setHolds_tillsOk (concatBucket_tillsOk _ hs)
    · exact hs

theorem moveAllBuckets_tillsOk (p : Int) (hs : s.tillsOk) : (moveAllBuckets p s).tillsOk :=
  foldl_tillsOk (fun _ _ hu => concatBucket_tillsOk _ hu) _ hs

theorem followStep_tillsOk (old : Nat) (hs : s.tillsOk) : (followStep old s).tillsOk := by
  unfold followStep
  split
  · exact hs
  · dsimp only
    split
    · split
      · split
        · exact hs
        · exact State.setHolds_tillsOk (moveAllBuckets_tillsOk _ hs)
      · exact hs
    · split <;> exact hs

/-- The work in flight dropped leaves no copy (R128). -/
theorem dropWork_tillsOk (hs : s.tillsOk) : (dropWork s).tillsOk :=
  State.setNotices_tillsOk (State.setHolds_tillsOk (State.setLocks_tillsOk (State.setUnits_tillsOk hs Units.tillsOk_empty)))

theorem dropJournal_tillsOk (hs : s.tillsOk) : (dropJournal s).tillsOk := hs

theorem linkLost_tillsOk (hs : s.tillsOk) : (linkLost s).tillsOk := by
  unfold linkLost
  extract_lets header marked dropped lanesKept abandoned control
  have hmarked : marked.tillsOk := raiseCause_tillsOk .store (State.putHeader_tillsOk _ hs)
  have hdropped : dropped.tillsOk := dropJournal_tillsOk (dropWork_tillsOk hmarked)
  have habandoned : abandoned.tillsOk := abandonPending_tillsOk (State.setLanes_tillsOk hdropped)
  exact raiseCause_tillsOk .engine (State.setControl_tillsOk habandoned)

theorem rebuildRow_tillsOk (i : Nat) (hs : s.tillsOk) : (rebuildRow s i).tillsOk := by
  unfold rebuildRow
  split
  · next hread => exact appendRow_tillsOk _ i (tillsOk_of_eq (readHold_tillsOk i hs) hread)
  · next hread =>
    have hread := tillsOk_of_eq (readHold_tillsOk i hs) hread
    split
    · exact fileRow_tillsOk i _ hread
    · exact appendRow_tillsOk _ i hread

theorem rebuildChains_tillsOk (hs : s.tillsOk) : (rebuildChains s).tillsOk :=
  State.putHeader_tillsOk _ (foldl_tillsOk (fun _ i hu => rebuildRow_tillsOk i hu) _ (State.setHolds_tillsOk hs))

/-! ### Lanes -/

theorem look_tillsOk (n : Nat) (hs : s.tillsOk) : (look n s).tillsOk := by
  unfold look
  split
  · exact hs
  · dsimp only
    split <;> exact hs

theorem lookAll_tillsOk (hs : s.tillsOk) : (lookAll s).tillsOk := foldl_tillsOk (fun _ n hu => look_tillsOk n hu) _ hs

theorem setLaneMode_tillsOk (n : Nat) (isOpen : Bool) (hs : s.tillsOk) : (setLaneMode n isOpen s).tillsOk := by
  cases isOpen with
  | false => exact hs
  | true => exact look_tillsOk n hs

theorem gatherAnswer_tillsOk (n : Nat) (e : LaneEntry) (hs : s.tillsOk) : (gatherAnswer n e s).tillsOk := by
  unfold gatherAnswer
  dsimp only
  split
  · exact raiseCause_tillsOk _ hs
  · split <;> exact hs

end

end Sys2Proof.Machine
end

section
/-! PROOFS. Till standings, part 3: the commit sequence, each step 16 and the admission steps keep the invariant, given work and plan in
order. -/

namespace Sys2Proof.Machine

section
variable {s : State} {k : Work} {p : Plan}

/-! ### The commit sequence -/

/-- The checks at the commit point decline a plan or leave it; its till row stays (R124). -/
theorem commitAction_tillNew (p : Plan) (s : State) : (commitAction p s).2.tillNew = p.tillNew := by
  unfold commitAction
  split
  · rfl
  · split <;> rfl
  · split <;> rfl
  · split <;> rfl
  · dsimp only
    split <;> rfl

theorem commitAction_tillOk (hp : p.tillOk = true) : (commitAction p s).2.tillOk = true := by
  unfold Plan.tillOk
  rw [commitAction_tillNew]
  exact hp

theorem commitAction_tillsOk (hs : s.tillsOk) : (commitAction p s).1.tillsOk := by
  unfold commitAction
  split
  · exact hs
  · split <;> exact hs
  · split <;> exact hs
  · split
    · exact setLaneMode_tillsOk _ _ hs
    · exact hs
  · dsimp only
    split
    · exact followStep_tillsOk _ hs
    · exact hs

theorem sealPlan_tillOk (stamp : Reading) (first : Nat) (hk : k.tillOk = true) (hp : p.tillOk = true) :
    (sealPlan k p stamp first).till.all TillRow.ok = true :=
  commitTill_ok hk hp

theorem writeTrail_tillsOk (x : Sealed) (k : Work) (hs : s.tillsOk) : (writeTrail x k s).tillsOk := State.setStore_tillsOk hs rfl

/-- The row writes of a commit write one till row, which is in order (R124). -/
theorem writeRows_tillsOk {x : Sealed} (k : Work) (hx : x.till.all TillRow.ok = true) (hs : s.tillsOk) :
    (writeRows x k s).tillsOk := by
  unfold writeRows
  extract_lets tillWritten cardWritten headerRaised holdsWritten
  have htill : tillWritten.tillsOk := by
    unfold tillWritten
    split
    · next row i hrow hlock => exact State.putTill_tillsOk hs (by simpa [hrow] using hx)
    · exact hs
  have hcard : cardWritten.tillsOk := by
    unfold cardWritten
    split
    · split
      · exact State.setStore_tillsOk htill rfl
      · exact htill
    · exact htill
  have hheader : headerRaised.tillsOk := by
    unfold headerRaised
    split
    · exact hcard
    · exact State.putHeader_tillsOk _ hcard
  have hholds : holdsWritten.tillsOk := foldl_tillsOk (fun _ o hu => writeHoldContent_tillsOk o hu) _ hheader
  exact foldl_tillsOk (fun _ q hu => quarantineLeave_tillsOk q.1 q.2 hu) _ hholds

theorem handAnswer_tillsOk (w place : Nat) (k : Work) (x : Sealed) (hs : s.tillsOk) : (handAnswer w place k x s).tillsOk := by
  unfold handAnswer
  split <;> exact hs

theorem afterStoreWrites_tillsOk (w place : Nat) (x : Sealed) (hk : k.tillOk = true) (hs : s.tillsOk) :
    (afterStoreWrites w place k x s).tillsOk := by
  have hreleased : (releaseCard k.cardLock (handJournal place x.entries s)).tillsOk := releaseCard_tillsOk _ (State.setJournal_tillsOk hs)
  unfold afterStoreWrites
  dsimp only
  split
  · exact handAnswer_tillsOk w place k x (State.setWorker_tillsOk hreleased w (Work.withPhase_tillOk hk rfl))
  · exact finishWork_tillsOk w _ hreleased

theorem dropHandsOf_tillsOk (place : Nat) (hs : s.tillsOk) : (dropHandsOf place s).tillsOk := hs

/-- The commit sequence of work and plan in order (R123, R124). -/
theorem commitNow_tillsOk (w : Nat) (hk : k.tillOk = true) (hp : p.tillOk = true) (hs : s.tillsOk) : (commitNow w k p s).tillsOk := by
  have hacted : (commitAction p s).1.tillsOk := commitAction_tillsOk hs
  have hsealed : ∀ stamp first, (sealPlan k (commitAction p s).2 stamp first).till.all TillRow.ok = true := fun stamp first =>
    sealPlan_tillOk stamp first hk (commitAction_tillOk hp)
  unfold commitNow
  dsimp only
  split
  · exact afterStoreWrites_tillsOk w _ _ hk (dropHandsOf_tillsOk _ (moveHolds_tillsOk _
      (writeRows_tillsOk k (hsealed _ _) (writeTrail_tillsOk _ k (State.setJournal_tillsOk hacted)))))
  · exact linkLost_tillsOk (moveHolds_tillsOk _
      (writeRows_tillsOk k (hsealed _ _) (writeTrail_tillsOk _ k (State.setJournal_tillsOk hacted))))

theorem commitWork_tillsOk (w : Nat) (hk : k.tillOk = true) (hp : p.tillOk = true) (hs : s.tillsOk) : (commitWork w k p s).tillsOk := by
  unfold commitWork
  split
  · exact State.setWorker_tillsOk hs w (Work.withPhase_tillOk hk hp)
  · exact commitNow_tillsOk w hk hp hs

theorem prepareCommit_tillsOk (w : Nat) (hk : k.tillOk = true) (hp : p.tillOk = true) (hs : s.tillsOk) :
    (prepareCommit w k p s).tillsOk := by
  have hroom : (askRoom 1 s).1.tillsOk := askRoom_tillsOk 1 hs
  unfold prepareCommit
  split
  · dsimp only
    split
    · exact commitWork_tillsOk w (k := { k with room := k.room + 1 }) hk hp hroom
    · exact setRoomWaiters_tillsOk _ (State.setWorker_tillsOk hroom w (Work.withPhase_tillOk hk hp))
  · exact commitWork_tillsOk w hk hp hs

/-! ### Step 16 -/

/-- What a step 16 answers is in order: the state, and the till row of its plan. -/
def SixteenOk (a : Sixteen) : Prop := a.1.tillsOk ∧ a.2.all Plan.tillOk = true

/-- A plan with the till row of a plan in order is in order. -/
theorem SixteenOk.plan {q : Plan} (hs : s.tillsOk) (hp : p.tillOk = true) (hq : q.tillNew = p.tillNew) : SixteenOk (s, some q) := by
  refine ⟨hs, ?_⟩
  show q.tillNew.all TillRow.ok = true
  rw [hq]
  exact hp

theorem SixteenOk.lost (hs : s.tillsOk) : SixteenOk (s, none) := ⟨hs, rfl⟩

theorem findHold_tillsOk (ref : HoldRef) (c : CardRow) (now : Nat) (hs : s.tillsOk) : (findHold ref c now s).1.tillsOk :=
  (findHold_observed ref c now s).tillsOk hs

theorem activateStep_ok (hp : p.tillOk = true) (hs : s.tillsOk) : SixteenOk (activateStep k p s) := by
  unfold activateStep
  dsimp only
  repeat' split
  all_goals exact .plan hs hp rfl

theorem loadStep_ok (hp : p.tillOk = true) (hs : s.tillsOk) : SixteenOk (loadStep k p s) := by
  unfold loadStep
  dsimp only
  repeat' split
  all_goals exact .plan hs hp rfl

theorem redeemStep_ok (hp : p.tillOk = true) (hs : s.tillsOk) : SixteenOk (redeemStep k p s) := by
  unfold redeemStep
  dsimp only
  repeat' split
  all_goals exact .plan hs hp rfl

theorem holdOpenStep_ok (hp : p.tillOk = true) (hs : s.tillsOk) : SixteenOk (holdOpenStep k p s) := by
  have hclaim : (claimRow s).1.tillsOk := (claimRow_observed s).tillsOk hs
  unfold holdOpenStep
  dsimp only
  split
  · exact .plan hs hp rfl
  · split
    · exact .plan hs hp rfl
    · split
      · exact .plan hs hp rfl
      · split
        · exact .plan hs hp rfl
        · split
          · next e => exact .lost (tillsOk_of_eq hclaim e)
          · next e => exact .plan (tillsOk_of_eq hclaim e) hp rfl
          · next e => exact .plan (State.setHolds_tillsOk (tillsOk_of_eq hclaim e)) hp rfl

theorem holdRenewStep_ok (hp : p.tillOk = true) (hs : s.tillsOk) : SixteenOk (holdRenewStep k p s) := by
  have hfind := findHold_tillsOk k.req.hold p.working k.now hs
  unfold holdRenewStep
  split
  · next e => exact .plan (tillsOk_of_eq hfind e) hp rfl
  · next e => exact .plan (tillsOk_of_eq hfind e) hp rfl
  · next e => exact .plan (tillsOk_of_eq hfind e) hp rfl
  · next e =>
    split
    · exact .plan (tillsOk_of_eq hfind e) hp rfl
    · exact .plan (tillsOk_of_eq hfind e) hp rfl

theorem holdCloseStep_ok (hp : p.tillOk = true) (hs : s.tillsOk) : SixteenOk (holdCloseStep k p s) := by
  have hfind := findHold_tillsOk k.req.hold p.working k.now hs
  unfold holdCloseStep
  dsimp only
  split
  · next e => exact .plan (tillsOk_of_eq hfind e) hp rfl
  · next e => exact .plan (tillsOk_of_eq hfind e) hp rfl
  · next e => exact .plan (tillsOk_of_eq hfind e) hp rfl
  · next e =>
    have hfound := tillsOk_of_eq hfind e
    repeat' split
    all_goals exact .plan hfound hp rfl

theorem holdCancelStep_ok (hp : p.tillOk = true) (hs : s.tillsOk) : SixteenOk (holdCancelStep k p s) := by
  have hfind := findHold_tillsOk k.req.hold p.working k.now hs
  unfold holdCancelStep
  split
  · next e => exact .plan (tillsOk_of_eq hfind e) hp rfl
  · next e =>
    split
    · exact .plan (tillsOk_of_eq hfind e) hp rfl
    · exact .plan (tillsOk_of_eq hfind e) hp rfl
  · next e => exact .plan (tillsOk_of_eq hfind e) hp rfl
  · next e => exact .plan (tillsOk_of_eq hfind e) hp rfl

theorem changeStatus_tillNew (old new : CardState) (tries : Nat → Nat) (p : Plan) : (changeStatus old new tries p).tillNew = p.tillNew := by
  unfold changeStatus
  dsimp only
  split <;> rfl

theorem cardStatusStep_ok (hp : p.tillOk = true) (hs : s.tillsOk) : SixteenOk (cardStatusStep k p s) := by
  unfold cardStatusStep
  split
  · exact .plan hs hp (changeStatus_tillNew ..)
  · exact .plan hs hp (changeStatus_tillNew ..)
  · exact .plan hs hp (changeStatus_tillNew ..)
  · exact .plan ((freeRefs_observed p.working.refs s).tillsOk hs) hp rfl

theorem bonusGrantStep_ok (hp : p.tillOk = true) (hs : s.tillsOk) : SixteenOk (bonusGrantStep k p s) := by
  unfold bonusGrantStep
  dsimp only
  repeat' split
  all_goals exact .plan hs hp rfl

theorem rowReadStep_ok (hp : p.tillOk = true) (hs : s.tillsOk) : SixteenOk (rowReadStep k p s) := by
  have himage := linkBlock_tillsOk k.req.address p.working.image hs
  unfold rowReadStep
  dsimp only
  split
  · exact .plan himage hp rfl
  · exact .plan himage hp rfl

theorem imageRow_tillsOk (read : Option CardRow) (img : CardRow) (hs : s.tillsOk) : (imageRow k read img s).1.tillsOk := by
  have hrefs := (refsHold_observed k.row img.refs s).tillsOk hs
  unfold imageRow
  extract_lets a
  have ha : a.1.tillsOk := by
    unfold a
    split
    · exact hs
    · split
      · next e => exact tillsOk_of_eq hrefs e
      · next e => exact tillsOk_of_eq hrefs e
  split <;> exact ha

theorem rowWriteStep_ok (hp : p.tillOk = true) (hs : s.tillsOk) : SixteenOk (rowWriteStep k p s) := by
  unfold rowWriteStep
  dsimp only
  split
  · exact .plan hs hp rfl
  · split
    · exact .plan hs hp rfl
    · split
      · next e => exact .plan (tillsOk_of_eq (imageRow_tillsOk _ _ hs) e) hp rfl
      · next e => exact .plan (tillsOk_of_eq (imageRow_tillsOk _ _ hs) e) hp rfl

/-- A till row registered or removed is a fresh one, of score 0 and GOOD (R96). -/
theorem tillWriteStep_ok (hs : s.tillsOk) : SixteenOk (tillWriteStep k p s) := by
  refine ⟨readTill_tillsOk _ hs, ?_⟩
  show (if k.req.action = 1 then registeredRow k.req else removedRow).ok = true
  split <;> rfl

/-- A till row released is the row as read with score 0 and the mark clear (R104). -/
theorem tillReleaseStep_ok (hp : p.tillOk = true) (hs : s.tillsOk) : SixteenOk (tillReleaseStep k p s) := by
  have hread := readTill_tillsOk k.req.tillIndex hs
  unfold tillReleaseStep
  dsimp only
  split
  · next e => exact .plan (tillsOk_of_eq hread e) hp rfl
  · next e =>
    split
    · exact ⟨tillsOk_of_eq hread e, TillRow.released_ok (readTill_ok hs e)⟩
    · exact .plan (tillsOk_of_eq hread e) hp rfl

theorem programmeWriteStep_ok (hp : p.tillOk = true) (hs : s.tillsOk) : SixteenOk (programmeWriteStep k p s) := by
  unfold programmeWriteStep
  split
  · exact .plan hs hp rfl
  · exact .plan hs hp rfl

/-- A transfer to the host answers the plan, or declines it. -/
theorem SixteenOk.transferred {b : Bool} (hs : s.tillsOk) (hp : p.tillOk = true) :
    SixteenOk (s, some (if b then p else p.decline .transferFailed)) := by
  cases b with
  | true => exact .plan hs hp rfl
  | false => exact .plan hs hp rfl

theorem trailReadStep_ok (hp : p.tillOk = true) (hs : s.tillsOk) : SixteenOk (trailReadStep k p s) := by
  unfold trailReadStep
  extract_lets order bytes read raised a
  have hread : read.tillsOk := foldl_tillsOk (fun u n hu => (readTrail_observed u n).tillsOk hu) _ hs
  have hraised : raised.tillsOk := by
    unfold raised
    split
    · exact raiseCause_tillsOk _ hread
    · exact hread
  exact .transferred (linkBlock_tillsOk _ bytes hraised) hp

theorem quarantineReadStep_ok (hp : p.tillOk = true) (hs : s.tillsOk) : SixteenOk (quarantineReadStep k p s) :=
  .transferred (linkBlock_tillsOk _ _ hs) hp

theorem reverseHold_ok (e : RecentEntry) (hp : p.tillOk = true) (hs : s.tillsOk) : SixteenOk (reverseHold k e p s) := by
  unfold reverseHold
  dsimp only
  split
  · exact .plan hs hp rfl
  · next ref _ =>
    split
    · next e => exact .plan (tillsOk_of_eq (findHold_tillsOk _ _ _ hs) e) hp rfl
    · next e =>
      have hfound := tillsOk_of_eq (findHold_tillsOk _ _ _ hs) e
      split
      · exact .plan hfound hp rfl
      · exact .plan hfound hp rfl
    · next e => exact .plan (tillsOk_of_eq (findHold_tillsOk _ _ _ hs) e) hp rfl
    · next e => exact .plan (tillsOk_of_eq (findHold_tillsOk _ _ _ hs) e) hp rfl

theorem reverseAnswered_ok (e : RecentEntry) (hp : p.tillOk = true) (hs : s.tillsOk) : SixteenOk (reverseAnswered k e p s) := by
  unfold reverseAnswered
  split
  · split
    case h_5 => exact reverseHold_ok e hp hs
    all_goals exact .plan hs hp rfl
  · exact .plan hs hp rfl

theorem reverseStep_ok (hp : p.tillOk = true) (hs : s.tillsOk) : SixteenOk (reverseStep k p s) := by
  unfold reverseStep
  dsimp only
  split
  · exact .plan hs hp rfl
  · split
    · exact .plan hs hp rfl
    · split
      · exact .plan hs hp rfl
      · split
        · exact .plan hs hp rfl
        · exact reverseAnswered_ok _ hp hs

/-- Every step 16 answers a state and a plan in order. -/
theorem stepSixteen_ok (kd : RequestKind) (hp : p.tillOk = true) (hs : s.tillsOk) : SixteenOk (stepSixteen kd k p s) := by
  cases kd <;> dsimp only [stepSixteen]
  case balance => exact .plan hs hp rfl
  case activate => exact activateStep_ok hp hs
  case load => exact loadStep_ok hp hs
  case redeem => exact redeemStep_ok hp hs
  case holdOpen => exact holdOpenStep_ok hp hs
  case holdRenew => exact holdRenewStep_ok hp hs
  case holdClose => exact holdCloseStep_ok hp hs
  case holdCancel => exact holdCancelStep_ok hp hs
  case reverse => exact reverseStep_ok hp hs
  case rowWrite => exact rowWriteStep_ok hp hs
  case rowRead => exact rowReadStep_ok hp hs
  case cardStatus => exact cardStatusStep_ok hp hs
  case bonusGrant => exact bonusGrantStep_ok hp hs
  case tillWrite => exact tillWriteStep_ok hs
  case tillRelease => exact tillReleaseStep_ok hp hs
  case ruleWrite => exact .plan hs hp rfl
  case programmeWrite => exact programmeWriteStep_ok hp hs
  case laneMode => exact .plan hs hp rfl
  case clockSet => exact .plan hs hp rfl
  case trailRead => exact trailReadStep_ok hp hs
  case quarantineRead => exact quarantineReadStep_ok hp hs

theorem runSixteen_tillsOk (w : Nat) (kd : RequestKind) (hk : k.tillOk = true) (hp : p.tillOk = true) (hs : s.tillsOk) :
    (runSixteen w kd k p s).tillsOk := by
  have hsixteen : SixteenOk (stepSixteen kd k p s) := stepSixteen_ok kd hp hs
  unfold runSixteen
  split
  · next e =>
    rw [e] at hsixteen
    exact prepareCommit_tillsOk w hk hsixteen.2 hsixteen.1
  · next e =>
    rw [e] at hsixteen
    exact linkLost_tillsOk hsixteen.1

/-! ### Admission -/

theorem declineNow_tillsOk (w : Nat) (r : Reason) (hk : k.tillOk = true) (hs : s.tillsOk) : (declineNow w k r s).tillsOk :=
  prepareCommit_tillsOk w hk rfl hs

theorem onCardRow_tillsOk (w : Nat) (kd : RequestKind) (sel : Selection) (t : Reading) (row : CardRow) (hk : k.tillOk = true)
    (hs : s.tillsOk) : (onCardRow w kd k sel t row s).tillsOk := by
  unfold onCardRow
  split
  · exact declineNow_tillsOk w _ hk hs
  · dsimp only
    split
    · exact prepareCommit_tillsOk w hk rfl hs
    · split
      · exact prepareCommit_tillsOk w hk rfl hs
      · exact runSixteen_tillsOk w kd hk rfl hs

theorem afterCardLock_tillsOk (w : Nat) (kd : RequestKind) (hk : k.tillOk = true) (hs : s.tillsOk) :
    (afterCardLock w kd k s).tillsOk := by
  have hread : (readCard s k.row).1.tillsOk := readCard_tillsOk k.row hs
  unfold afterCardLock
  extract_lets t k'
  have hk' : k'.tillOk = true := hk
  split
  · exact runSixteen_tillsOk w _ hk' rfl (readCardUnlessListed_tillsOk _ hs)
  · split
    · next e => exact declineNow_tillsOk w _ hk' (tillsOk_of_eq hread e)
    · next e =>
      have hread := tillsOk_of_eq hread e
      split
      · exact runSixteen_tillsOk w _ hk' rfl hread
      · exact onCardRow_tillsOk w _ _ t _ hk' hread
      · exact declineNow_tillsOk w _ hk' hread

theorem takeCardLock_tillsOk (w : Nat) (kd : RequestKind) (hk : k.tillOk = true) (hs : s.tillsOk) :
    (takeCardLock w kd k s).tillsOk := by
  have hlock := requestLock_tillsOk (.card k.row) k.place hs
  unfold takeCardLock
  split
  · next e => exact afterCardLock_tillsOk w kd (k := { k with cardLock := some k.row }) hk (tillsOk_of_eq hlock e)
  · next e => exact enterPool_tillsOk hk (tillsOk_of_eq hlock e)

theorem stepsSevenOn_tillsOk (w : Nat) (kd : RequestKind) (hk : k.tillOk = true) (hs : s.tillsOk) :
    (stepsSevenOn w kd k s).tillsOk := by
  unfold stepsSevenOn
  dsimp only
  split
  · exact declineNow_tillsOk w _ hk hs
  · split
    · exact declineNow_tillsOk w _ hk hs
    · next sel _ =>
      have hk : ({ k with selection := some sel } : Work).tillOk = true := hk
      split
      · exact declineNow_tillsOk w _ hk hs
      · split
        · exact declineNow_tillsOk w _ hk hs
        · next i _ =>
          have hk : ({ k with selection := some sel, rowIndex := some i } : Work).tillOk = true := hk
          split
          · exact declineNow_tillsOk w _ hk hs
          · exact takeCardLock_tillsOk w kd hk hs

theorem onTillRow_tillsOk (w : Nat) (kd : RequestKind) (t : TillRow) (hk : k.tillOk = true) (hs : s.tillsOk) :
    (onTillRow w kd k t s).tillsOk := by
  unfold onTillRow
  split
  · exact prepareCommit_tillsOk w hk rfl hs
  · exact prepareCommit_tillsOk w hk rfl hs
  · split
    · exact declineNow_tillsOk w _ hk hs
    · exact stepsSevenOn_tillsOk w kd hk hs

/-- The working copy of the second reading is the row read, in order, after the recovery test (R95, R103). -/
theorem afterTillLock_tillsOk (w : Nat) (kd : RequestKind) (hk : k.tillOk = true) (hs : s.tillsOk) :
    (afterTillLock w kd k s).tillsOk := by
  unfold afterTillLock
  split
  · extract_lets t k'
    have hk' : k'.tillOk = true := hk
    have hread : (readTill s k'.req.tillIndex).1.tillsOk := readTill_tillsOk _ hs
    split
    · next e => exact declineNow_tillsOk w _ hk' (tillsOk_of_eq hread e)
    · next u row e =>
      have hu := tillsOk_of_eq hread e
      split
      · extract_lets copy
        have hcopy : copy.ok = true := TillRow.atSecondReading_ok _ _ (readTill_ok hs e)
        exact onTillRow_tillsOk w kd copy (Work.withTill_tillOk (k := { k' with tillRead := some row }) hk' hcopy) hu
      · exact declineNow_tillsOk w _ hk' hu
  · exact runSixteen_tillsOk w kd hk rfl hs

theorem takeTillLock_tillsOk (w : Nat) (kd : RequestKind) (hk : k.tillOk = true) (hs : s.tillsOk) :
    (takeTillLock w kd k s).tillsOk := by
  have hlock := requestLock_tillsOk (.till k.req.tillIndex) k.place hs
  unfold takeTillLock
  split
  · next e => exact afterTillLock_tillsOk w kd (k := { k with tillLock := some k.req.tillIndex }) hk (tillsOk_of_eq hlock e)
  · next e => exact enterPool_tillsOk hk (tillsOk_of_eq hlock e)

theorem stepThree_tillsOk (w : Nat) (kd : RequestKind) (hk : k.tillOk = true) (hs : s.tillsOk) : (stepThree w kd k s).tillsOk := by
  have hread := readTill_tillsOk k.req.tillIndex hs
  unfold stepThree
  split
  · next e => exact declineNow_tillsOk w _ hk (tillsOk_of_eq hread e)
  · next e =>
    split
    · exact takeTillLock_tillsOk w kd hk (tillsOk_of_eq hread e)
    · exact declineNow_tillsOk w _ hk (tillsOk_of_eq hread e)

theorem stepTwo_tillsOk (w : Nat) (kd : RequestKind) (hk : k.tillOk = true) (hs : s.tillsOk) : (stepTwo w kd k s).tillsOk := by
  unfold stepTwo
  split
  · exact declineNow_tillsOk w _ hk hs
  · split
    · exact stepThree_tillsOk w kd hk hs
    · split
      · exact takeTillLock_tillsOk w kd hk hs
      · split
        · exact stepsSevenOn_tillsOk w kd hk hs
        · exact runSixteen_tillsOk w kd hk rfl hs

theorem stepOne_tillsOk (w : Nat) (hk : k.tillOk = true) (hs : s.tillsOk) : (stepOne w k s).tillsOk := by
  unfold stepOne
  split
  · exact declineNow_tillsOk w _ hk hs
  · next kd _ =>
    split
    · exact stepTwo_tillsOk w kd hk hs
    · exact declineNow_tillsOk w _ hk hs

/-- A request command keeps the invariant, whatever its row (log 5, log 7). -/
theorem beginRequest_tillsOk (row : Req → Bool) (w : Nat) (hs : s.tillsOk) : (beginRequest row w s).tillsOk := by
  unfold beginRequest
  split
  · exact hs
  · next k hstep =>
    have hk : k.tillOk = true := State.worker_tillOk hs (Option.filter_eq_some_iff.mp hstep).1
    split
    · exact stepOne_tillsOk w hk hs
    · exact hs

end

end Sys2Proof.Machine
end

section
/-! PROOFS. Till standings, part 4: dispatch, resumptions, answers, STARTING, resets and the clock keep the invariant, and with them every
step (spec/05, R98). -/

namespace Sys2Proof.Machine

section
variable {s : State}

/-! ### Expiry jobs and resumptions -/

theorem decideJob_tillsOk (hold gen place : Nat) (t : Reading) (row : CardRow) (hs : s.tillsOk) :
    (decideJob hold gen place t row s).1.tillsOk := by
  have hread := readHold_tillsOk hold hs
  unfold decideJob
  split
  · next e => exact tillsOk_of_eq hread e
  · next e =>
    have hread := tillsOk_of_eq hread e
    split
    · exact hread
    · split
      · exact hread
      · split
        · exact hread
        · exact hread

/-- A job's plan has no till row of its own. -/
theorem decideJob_tillOk (hold gen place : Nat) (t : Reading) (row : CardRow) (s : State) :
    (decideJob hold gen place t row s).2.tillOk = true := by
  unfold decideJob
  repeat' split
  all_goals rfl

theorem unreadableCardJob_tillOk (hold gen card place : Nat) (t : Reading) (s : State) :
    (unreadableCardJob hold gen card place t s).tillOk = true := by
  unfold unreadableCardJob
  split <;> rfl

theorem runJob_tillsOk (w hold gen card : Nat) {k : Work} (hk : k.tillOk = true) (hs : s.tillsOk) :
    (runJob w hold gen card k s).tillsOk := by
  have hread := readCardUnlessListed_tillsOk card hs
  unfold runJob
  extract_lets t k'
  have hk' : k'.tillOk = true := hk
  dsimp only
  split
  · exact prepareCommit_tillsOk w hk' (unreadableCardJob_tillOk ..) hread
  · exact prepareCommit_tillsOk w hk' (decideJob_tillOk ..) (decideJob_tillsOk _ _ _ _ _ hread)

theorem beginJob_tillsOk (w : Nat) (hs : s.tillsOk) : (beginJob w s).tillsOk := by
  unfold beginJob
  split
  · next k hw =>
    have hk := State.worker_tillOk hs hw
    split
    · next hold gen card _ _ =>
      have hlock := requestLock_tillsOk (.card card) k.place hs
      split
      · next e => exact runJob_tillsOk w hold gen card (k := { k with cardLock := some card }) hk (tillsOk_of_eq hlock e)
      · next e => exact enterPool_tillsOk hk (tillsOk_of_eq hlock e)
    · exact hs
  · exact hs

/-- The oldest ready entry goes to its worker with the copies it carries (R114). -/
theorem takeReady_tillsOk (w : Nat) (hs : s.tillsOk) : (takeReady w s).tillsOk := by
  unfold takeReady
  split
  · exact hs
  · next k r hready =>
    obtain ⟨-, hworkers, hwaiting, hall⟩ := s.tillsOk_iff.mp hs
    rw [hready] at hall
    have hrest : (s.setUnits { s.units with ready := r }).tillsOk :=
      State.setUnits_tillsOk hs ⟨hworkers, hwaiting, fun x hx => hall x (List.mem_cons_of_mem _ hx)⟩
    exact State.setWorker_tillsOk hrest w (hall k List.mem_cons_self)

theorem resumeFrom_tillsOk (f : Phase → Bool) (w : Nat) (hs : s.tillsOk) : (resumeFrom f w s).tillsOk := by
  unfold resumeFrom
  split
  · split
    · split
      · exact takeReady_tillsOk w hs
      · exact hs
    · exact hs
  · exact hs

theorem resumeTill_tillsOk (w : Nat) (hs : s.tillsOk) : (resumeTill w s).tillsOk := by
  have hresumed := resumeFrom_tillsOk isGotTill w hs
  unfold resumeTill
  dsimp only
  split
  · next k hw =>
    split
    · split
      · exact afterTillLock_tillsOk w _ (Work.withPhase_tillOk (State.worker_tillOk hresumed hw) rfl) hresumed
      · exact hresumed
    · exact hresumed
  · exact hresumed

theorem resumeCard_tillsOk (w : Nat) (hs : s.tillsOk) : (resumeCard w s).tillsOk := by
  have hresumed := resumeFrom_tillsOk isGotCard w hs
  unfold resumeCard
  dsimp only
  split
  · next k hw =>
    have hk : ({ k with phase := .taken } : Work).tillOk = true := Work.withPhase_tillOk (State.worker_tillOk hresumed hw) rfl
    split
    · split
      · exact runJob_tillsOk w _ _ _ hk hresumed
      · exact afterCardLock_tillsOk w _ hk hresumed
      · exact hresumed
    · exact hresumed
  · exact hresumed

theorem roomGranted_tillsOk (w : Nat) (hs : s.tillsOk) : (roomGranted w s).tillsOk := by
  have hgranted := grantBalances_tillsOk hs
  unfold roomGranted
  dsimp only
  split
  · next k hw =>
    have hk := State.worker_tillOk hgranted hw
    split
    · next p hph => exact commitWork_tillsOk w (Work.withPhase_tillOk hk rfl) (Work.plan_tillOk hk (.inr (.inl hph))) hgranted
    · exact hgranted
  · exact hgranted

theorem trailFreed_tillsOk (w : Nat) (hs : s.tillsOk) : (trailFreed w s).tillsOk := by
  unfold trailFreed
  split
  · next k hw =>
    have hk := State.worker_tillOk hs hw
    split
    · next p hph =>
      split
      · exact hs
      · exact commitNow_tillsOk w (Work.withPhase_tillOk hk rfl) (Work.plan_tillOk hk (.inr (.inr hph))) hs
    · exact hs
  · exact hs

/-! ### Dispatch -/

theorem seekRoom_tillsOk (n : Nat) (hs : s.tillsOk) : (seekRoom n s).1.tillsOk := by
  unfold seekRoom
  split
  · exact hs
  · exact refreshDrained_tillsOk hs

theorem giveJob_tillsOk (w place i : Nat) (h : HoldRow) (hs : s.tillsOk) : (giveJob w place i h s).tillsOk :=
  State.setWorker_tillsOk (State.setHolds_tillsOk (reserveRoom_tillsOk 1 (reservePlace_tillsOk place hs))) w rfl

theorem dueHandout_tillsOk (w : Nat) (hs : s.tillsOk) : (dueHandout w s).1.tillsOk := by
  have hroom := seekRoom_tillsOk 1 hs
  unfold dueHandout
  split
  · exact hs
  · split
    · next e => exact tillsOk_of_eq hroom e
    · next u e =>
      have hu := tillsOk_of_eq hroom e
      have hsearch := (dueSearch_observed u.holds.due.count u.holds.due.head u).tillsOk hu
      split
      · next e => exact tillsOk_of_eq hsearch e
      · next e => exact tillsOk_of_eq hsearch e
      · next e => exact giveJob_tillsOk w _ _ _ (tillsOk_of_eq hsearch e)

theorem clearReady_tillsOk (n : Nat) (hs : s.tillsOk) : (clearReady n s).tillsOk := hs

theorem advanceLane_tillsOk (n : Nat) (e : LaneEntry) (hs : s.tillsOk) : (advanceLane n e s).tillsOk :=
  look_tillsOk n (State.setLanes_tillsOk (State.setLanes_tillsOk (linkPut_tillsOk _ _ hs)))

theorem withdraw_tillsOk (n : Nat) (e : LaneEntry) (hs : s.tillsOk) : (withdraw n e s).tillsOk :=
  State.setNotices_tillsOk (advanceLane_tillsOk n e hs)

/-- A request just taken carries no till row (R154). -/
theorem takeSlot_tillsOk (w place room n : Nat) (e : LaneEntry) (half : List Byte) (hs : s.tillsOk) :
    (takeSlot w place room n e half s).tillsOk :=
  advanceLane_tillsOk n e (State.setWorker_tillsOk (reservePlace_tillsOk place hs) w rfl)

theorem attemptLane_tillsOk (w n : Nat) (hs : s.tillsOk) : (attemptLane w n s).1.tillsOk := by
  unfold attemptLane
  split
  · exact hs
  · next entry _ =>
    dsimp only
    split
    · exact clearReady_tillsOk n hs
    · next half _ =>
      have hroom := askRoom_tillsOk (takeRoom half) hs
      split
      · exact clearReady_tillsOk n hs
      · split
        · exact withdraw_tillsOk n entry hs
        · split
          · exact hs
          · split
            · next e => exact tillsOk_of_eq hroom e
            · next e => exact takeSlot_tillsOk w _ _ n entry half (tillsOk_of_eq hroom e)

theorem tryLanes_tillsOk (w : Nat) (ns : List Nat) (hs : s.tillsOk) : (tryLanes w ns s).tillsOk := by
  induction ns generalizing s with
  | nil => exact hs
  | cons n ns ih =>
    have hattempt := attemptLane_tillsOk w n hs
    unfold tryLanes
    split
    · next e => exact tillsOk_of_eq hattempt e
    · next e => exact ih (tillsOk_of_eq hattempt e)

theorem dispatchRunning_tillsOk (w : Nat) (hs : s.tillsOk) : (dispatchRunning w s).tillsOk := by
  have hdue := dueHandout_tillsOk w hs
  unfold dispatchRunning
  split
  · split
    · next e => exact tillsOk_of_eq hdue e
    · next e => exact tryLanes_tillsOk w _ (tillsOk_of_eq hdue e)
    · next e => exact linkLost_tillsOk (tillsOk_of_eq hdue e)
  · exact tryLanes_tillsOk w _ hs

theorem dispatchWorker_tillsOk (w : Nat) (hs : s.tillsOk) : (dispatchWorker w s).tillsOk := by
  unfold dispatchWorker
  split
  · split
    · split
      · exact dispatchRunning_tillsOk w hs
      · exact takeReady_tillsOk w hs
    · exact takeReady_tillsOk w hs
    · exact hs
  · exact hs

/-! ### Answers and journal appends -/

theorem writeAnswer_tillsOk (a : HandedAnswer) (hs : s.tillsOk) : (writeAnswer a s).1.tillsOk := by
  unfold writeAnswer
  dsimp only
  split
  · next e => exact tillsOk_of_eq (linkBlock_tillsOk _ _ hs) e
  · next e => exact linkPut_tillsOk _ _ (tillsOk_of_eq (linkBlock_tillsOk _ _ hs) e)

theorem raiseTally_tillsOk (n : Nat) (hs : s.tillsOk) : (raiseTally n s).tillsOk := linkPut_tillsOk _ _ (State.setLanes_tillsOk hs)

theorem settleTrail_tillsOk (a : HandedAnswer) (v : TrailStatus) (hs : s.tillsOk) : (settleTrail a v s).tillsOk := by
  unfold settleTrail
  split
  · exact hs
  · exact setAnswerStatus_tillsOk _ v hs

theorem finishAnswer_tillsOk (a : HandedAnswer) (hs : s.tillsOk) : (finishAnswer a s).tillsOk := by
  unfold finishAnswer
  split
  · exact hs
  · split
    · exact hs
    · exact finishWork_tillsOk _ _ hs

theorem handleAnswer_tillsOk (a : HandedAnswer) (hs : s.tillsOk) : (handleAnswer a s).tillsOk := by
  unfold handleAnswer
  extract_lets raised
  have hraised : raised.tillsOk := by
    unfold raised
    split
    · exact raiseCause_tillsOk _ hs
    · exact hs
  have hwritten := writeAnswer_tillsOk a hraised
  split
  · next e =>
    exact finishAnswer_tillsOk a (gatherAnswer_tillsOk _ _ (settleTrail_tillsOk a _ (raiseTally_tillsOk _ (tillsOk_of_eq hwritten e))))
  · next e => exact finishAnswer_tillsOk a (settleTrail_tillsOk a _ (tillsOk_of_eq hwritten e))

theorem writeNextAnswer_tillsOk (lane : Nat) (hs : s.tillsOk) : (writeNextAnswer lane s).tillsOk := by
  unfold writeNextAnswer
  split
  · exact hs
  · exact handleAnswer_tillsOk _ (State.setNotices_tillsOk hs)

theorem holdTimerExpires_tillsOk (n : Nat) (hs : s.tillsOk) : (holdTimerExpires n s).tillsOk := by
  unfold holdTimerExpires
  dsimp only
  split
  · split
    · exact raiseCause_tillsOk _ (State.setLanes_tillsOk hs)
    · exact State.setLanes_tillsOk hs
  · exact hs

theorem countAppend_tillsOk (q : Queued) (rest : List Queued) (hs : s.tillsOk) : (countAppend q rest s).tillsOk := by
  unfold countAppend
  extract_lets n journal counted tested
  have htested : tested.tillsOk := testMark_tillsOk (linkPut_tillsOk _ _ (State.setJournal_tillsOk hs))
  split
  · exact htested
  · exact setJournalStatus_tillsOk _ _ htested

theorem appendHead_tillsOk (hs : s.tillsOk) : (appendHead s).tillsOk := by
  unfold appendHead
  split
  · exact hs
  · split
    · next e => exact countAppend_tillsOk _ _ (tillsOk_of_eq (linkBlock_tillsOk _ _ hs) e)
    · next e => exact State.setJournal_tillsOk (tillsOk_of_eq (linkBlock_tillsOk _ _ hs) e)

theorem appendNext_tillsOk (hs : s.tillsOk) : (appendNext s).tillsOk := by
  unfold appendNext
  split
  · exact appendHead_tillsOk hs
  · exact hs

theorem retryAppend_tillsOk (hs : s.tillsOk) : (retryAppend s).tillsOk := by
  unfold retryAppend
  split
  · exact appendHead_tillsOk hs
  · exact hs

/-! ### STARTING -/

theorem enterFaulted_tillsOk (c : FaultCode) (hs : s.tillsOk) : (enterFaulted c s).tillsOk :=
  raiseCause_tillsOk _ (State.setControl_tillsOk hs)

theorem checkPartition_tillsOk (d : Directory) (hs : s.tillsOk) : (checkPartition d s).1.tillsOk := by
  have hread : (readHeader s).1.tillsOk := (readHeader_observed s).tillsOk hs
  unfold checkPartition
  split
  · exact hs
  · split
    · next e => exact tillsOk_of_eq hread e
    · next e => exact tillsOk_of_eq hread e

theorem clockTake_tillsOk (d : Directory) (hs : s.tillsOk) : (clockTake d s).tillsOk := by
  unfold clockTake
  split
  · dsimp only
    split
    · exact State.setHolds_tillsOk hs
    · exact followStep_tillsOk _ hs
  · exact hs

theorem recordPartition_tillsOk (d : Directory) (hs : s.tillsOk) : (recordPartition d s).tillsOk := by
  unfold recordPartition
  split
  · exact hs
  · have hheader := State.putHeader_tillsOk { s.header with partition := some d.partition } hs
    have hnext := ((joinNext_chainStep (Config.holdRows d.partition - 1) none).1 _).tillsOk hheader
    exact State.setHolds_tillsOk (((joinPrev_chainStep 0 none).1 _).tillsOk hnext)

theorem examineProgrammes_tillsOk (hs : s.tillsOk) : (examineProgrammes s).tillsOk :=
  foldl_tillsOk (fun _ _ hu => State.setTables_tillsOk hu) _ hs

theorem startingSteps_tillsOk (d : Directory) (hs : s.tillsOk) : (startingSteps d s).tillsOk := by
  unfold startingSteps
  extract_lets recorded rebuilt
  have hrecorded : recorded.tillsOk := recordPartition_tillsOk d (clockTake_tillsOk d hs)
  have hrebuilt : rebuilt.tillsOk := by
    unfold rebuilt
    split
    · exact rebuildChains_tillsOk hrecorded
    · exact hrecorded
  exact State.setControl_tillsOk (examineProgrammes_tillsOk hrebuilt)

theorem runStarting_tillsOk (hs : s.tillsOk) : (runStarting s).tillsOk := by
  unfold runStarting
  split
  · exact enterFaulted_tillsOk _ hs
  · next d _ =>
    have hcheck := checkPartition_tillsOk d
      (State.setControl_tillsOk (v := { s.control with engineWords := some d.engineWords }) hs)
    dsimp only
    split
    · next e => exact enterFaulted_tillsOk _ (tillsOk_of_eq hcheck e)
    · next e =>
      split
      · exact enterFaulted_tillsOk _ (tillsOk_of_eq hcheck e)
      · exact startingSteps_tillsOk d (tillsOk_of_eq hcheck e)

theorem enterStarting_tillsOk (hs : s.tillsOk) : (enterStarting s).tillsOk := by
  unfold enterStarting
  dsimp only
  split
  · exact State.setControl_tillsOk hs
  · exact runStarting_tillsOk (State.setControl_tillsOk hs)

theorem writeEngineWords_tillsOk (d : Directory) (hs : s.tillsOk) : (writeEngineWords d s).tillsOk := by
  unfold writeEngineWords
  extract_lets tallies written counted c put capability
  have htallies : tallies.tillsOk := foldl_tillsOk (fun _ _ hu => linkPut_tillsOk _ _ hu) _ hs
  have hcounted : counted.tillsOk := linkPut_tillsOk _ _ (linkPut_tillsOk _ _ htallies)
  have hcapability : capability.tillsOk := foldl_tillsOk (fun _ _ hu => linkPut_tillsOk _ _ hu) _ hcounted
  exact State.setLink_tillsOk (State.setLink_tillsOk hcapability)

theorem replaceEnable_tillsOk (e : CauseSet) (hs : s.tillsOk) : (replaceEnable e s).tillsOk := by
  unfold replaceEnable
  dsimp only
  split
  · exact sendMsi_tillsOk (State.setNotices_tillsOk hs)
  · exact State.setNotices_tillsOk hs

theorem enterRunning_tillsOk (d : Directory) (hs : s.tillsOk) : (enterRunning d s).tillsOk :=
  lookAll_tillsOk (replaceEnable_tillsOk _ (State.setControl_tillsOk
    (writeEngineWords_tillsOk d (State.setLanes_tillsOk (State.setJournal_tillsOk hs)))))

theorem completeStarting_tillsOk (hs : s.tillsOk) : (completeStarting s).tillsOk := by
  unfold completeStarting
  split
  · split
    · exact enterRunning_tillsOk _ hs
    · exact hs
  · exact hs

/-! ### Resets, control and registers -/

/-- A scrubbed till row is unregistered, of score 0 and GOOD (R112, R139). -/
theorem State.reset_tillsOk : State.reset.tillsOk :=
  (State.tillsOk_iff _).mpr ⟨fun _ => rfl, Units.tillsOk_empty⟩

theorem powerOn_tillsOk (s : State) : (powerOn s).tillsOk := State.reset_tillsOk

theorem engineReset_tillsOk (hs : s.tillsOk) : (engineReset s).tillsOk :=
  State.setControl_tillsOk (State.setNotices_tillsOk (State.setStore_tillsOk (State.setLanes_tillsOk (dropWork_tillsOk hs)) rfl))

theorem linkResetAll_tillsOk (hs : s.tillsOk) : (linkResetAll s).tillsOk := State.setLink_tillsOk (engineReset_tillsOk hs)

theorem endReset_tillsOk (hs : s.tillsOk) : (endReset s).tillsOk := by
  unfold endReset
  split
  · extract_lets control settled raised
    have hsettled : settled.tillsOk := abandonPending_tillsOk (dropJournal_tillsOk (State.setControl_tillsOk hs))
    have hraised : raised.tillsOk := by
      unfold raised
      split
      · exact hsettled
      · exact raiseCause_tillsOk _ hsettled
    split
    · exact runStarting_tillsOk hraised
    · exact hraised
  · exact hs

theorem endScrub_tillsOk (hs : s.tillsOk) : (endScrub s).tillsOk := by
  unfold endScrub
  split
  · dsimp only
    split
    · exact enterStarting_tillsOk (raiseCause_tillsOk _ hs)
    · exact State.setControl_tillsOk (raiseCause_tillsOk _ hs)
  · exact hs

theorem startCommand_tillsOk (hs : s.tillsOk) : (startCommand s).tillsOk := by
  unfold startCommand
  split
  · exact State.setControl_tillsOk hs
  · exact enterStarting_tillsOk hs
  · exact enterStarting_tillsOk hs
  · exact State.setControl_tillsOk hs

theorem drainCommand_tillsOk (hs : s.tillsOk) : (drainCommand s).tillsOk := by
  unfold drainCommand
  split
  · exact State.setControl_tillsOk (State.setLanes_tillsOk hs)
  · exact State.setControl_tillsOk hs

theorem controlWrite_tillsOk (v : Word32) (hs : s.tillsOk) : (controlWrite v s).tillsOk := by
  unfold controlWrite
  split
  · exact startCommand_tillsOk hs
  · split
    · exact drainCommand_tillsOk hs
    · split
      · exact engineReset_tillsOk hs
      · exact State.setControl_tillsOk hs

theorem endDrain_tillsOk (hs : s.tillsOk) : (endDrain s).tillsOk := by
  unfold endDrain
  split
  · exact raiseCause_tillsOk _ (State.setControl_tillsOk hs)
  · exact hs

theorem nudgeAll_tillsOk (hs : s.tillsOk) : (nudgeAll s).tillsOk := by
  unfold nudgeAll
  split
  · exact refreshDrained_tillsOk (lookAll_tillsOk hs)
  · exact refreshDrained_tillsOk hs
  · exact hs

theorem nudgeWrite_tillsOk (v : Word32) (hs : s.tillsOk) : (nudgeWrite v s).tillsOk := by
  unfold nudgeWrite
  split
  · exact nudgeAll_tillsOk hs
  · split
    · exact look_tillsOk _ hs
    · exact hs

theorem writeRegister_tillsOk (r : Nat × Word32) (hs : s.tillsOk) : (writeRegister s r).tillsOk := by
  unfold writeRegister
  split
  · exact State.setLink_tillsOk hs
  · exact State.setLink_tillsOk hs
  · exact controlWrite_tillsOk _ hs
  · exact nudgeWrite_tillsOk _ hs
  · exact hs

theorem registerAccess_tillsOk (offset : Nat) (data : List Byte) (hs : s.tillsOk) : (registerAccess offset data s).tillsOk :=
  foldl_tillsOk (fun _ r hu => writeRegister_tillsOk r hu) _ hs

theorem readNotice_tillsOk (bytes : BitVec 4) (hs : s.tillsOk) : (readNotice bytes s).tillsOk := by
  unfold readNotice
  split
  · exact hs
  · exact State.setNotices_tillsOk (State.setLink_tillsOk hs)

/-! ### The clock -/

theorem minuteEvent_tillsOk (hs : s.tillsOk) : (minuteEvent s).tillsOk := by
  unfold minuteEvent
  split
  · split <;> exact hs
  · exact hs

theorem lookTimerExpires_tillsOk (n : Nat) (hs : s.tillsOk) : (lookTimerExpires n s).tillsOk := by
  unfold lookTimerExpires
  split
  · exact look_tillsOk n hs
  · exact hs

theorem secondEvent_tillsOk (hs : s.tillsOk) : (secondEvent s).tillsOk := by
  unfold secondEvent
  split <;> exact hs

theorem tickEvent_tillsOk (hs : s.tillsOk) : (tickEvent s).tillsOk := by
  unfold tickEvent
  dsimp only
  split
  · exact hs
  · exact secondEvent_tillsOk hs

theorem cycle_tillsOk (hs : s.tillsOk) : (cycle s).tillsOk := by
  unfold cycle
  split
  · split
    · exact hs
    · exact tickEvent_tillsOk hs
  · exact hs

theorem idle_tillsOk (hs : s.tillsOk) : (idle s).tillsOk := by
  unfold idle
  split
  · exact hs
  · exact cycle_tillsOk hs

/-! ### Every command, every step -/

/-- Every command answers a next state, in which the till rows are in order. -/
theorem exec_tillsOk (c : Instr) (hs : s.tillsOk) : ∃ t, exec c s = .next t ∧ t.tillsOk := by
  have hout : ∀ e, (s.outside e).tillsOk := fun e => State.outside_tillsOk e hs
  cases c with
  | powerOnReset e => exact ⟨_, rfl, powerOn_tillsOk _⟩
  | scrubEnd e => exact ⟨_, rfl, endScrub_tillsOk (hout e)⟩
  | linkReset e => exact ⟨_, rfl, linkResetAll_tillsOk (hout e)⟩
  | reset e => exact ⟨_, rfl, engineReset_tillsOk (hout e)⟩
  | resetEnd e => exact ⟨_, rfl, endReset_tillsOk (hout e)⟩
  | start e => exact ⟨_, rfl, startCommand_tillsOk (hout e)⟩
  | drain e => exact ⟨_, rfl, drainCommand_tillsOk (hout e)⟩
  | controlUnknownCommand value e => exact ⟨_, rfl, controlWrite_tillsOk value (hout e)⟩
  | registerWrite offset data e => exact ⟨_, rfl, registerAccess_tillsOk offset data (hout e)⟩
  | nudge value e => exact ⟨_, rfl, nudgeWrite_tillsOk value (hout e)⟩
  | nudge255 e => exact ⟨_, rfl, nudgeAll_tillsOk (hout e)⟩
  | noticeRead bytes e => exact ⟨_, rfl, readNotice_tillsOk bytes (hout e)⟩
  | startingComplete e => exact ⟨_, rfl, completeStarting_tillsOk (hout e)⟩
  | drainComplete e => exact ⟨_, rfl, endDrain_tillsOk (hout e)⟩
  | minuteEvent e => exact ⟨_, rfl, minuteEvent_tillsOk (hout e)⟩
  | sweepMove e => exact ⟨_, rfl, sweepStep_tillsOk (hout e)⟩
  | lookTimerExpiry lane e => exact ⟨_, rfl, lookTimerExpires_tillsOk lane (hout e)⟩
  | noticeHoldExpiry lane e => exact ⟨_, rfl, holdTimerExpires_tillsOk lane (hout e)⟩
  | workerDispatch w e => exact ⟨_, rfl, dispatchWorker_tillsOk w (hout e)⟩
  | resumeAfterTillLock w e => exact ⟨_, rfl, resumeTill_tillsOk w (hout e)⟩
  | resumeAfterCardLock w e => exact ⟨_, rfl, resumeCard_tillsOk w (hout e)⟩
  | balanceRoomGranted w e => exact ⟨_, rfl, roomGranted_tillsOk w (hout e)⟩
  | trailPlaceFreed w e => exact ⟨_, rfl, trailFreed_tillsOk w (hout e)⟩
  | expiryJob w e => exact ⟨_, rfl, beginJob_tillsOk w (hout e)⟩
  | answerWrite lane e => exact ⟨_, rfl, writeNextAnswer_tillsOk lane (hout e)⟩
  | journalAppend e => exact ⟨_, rfl, appendNext_tillsOk (hout e)⟩
  | journalWriteRetry e => exact ⟨_, rfl, retryAppend_tillsOk (hout e)⟩
  | _ w e => exact ⟨_, rfl, beginRequest_tillsOk _ w (hout e)⟩

theorem step_tillsOk {t : State} (hs : s.tillsOk) (h : step s = .next t) : t.tillsOk := by
  unfold step at h
  split at h
  · cases h
    exact idle_tillsOk hs
  · next c q _ =>
    obtain ⟨u, hnext, hu⟩ := exec_tillsOk (s := s.setPending q) c hs
    rw [hnext] at h
    cases h
    exact hu

end

/-! ### The statement -/

/-- Settles O7: by `step_tillsOk`, a case for every command, and R98's table for one row. -/
theorem stepsKeepTillStandings : Obligations.StepsKeepTillStandings := by
  unfold Obligations.StepsKeepTillStandings
  exact ⟨fun _ _ hs h => step_tillsOk hs h, TillRow.ok_iff_table⟩

end Sys2Proof.Machine
end

section
/-! PROOFS. What every operation keeps, part 1: the relation of a state to one that an operation leaves, block by block. Canonical form (spec/07,
7.1), clock ranges (R174, R175), quarantine list (R135), lock banks (R116), queue, recorded partition (R131) and anchors (R185) go in one relation,
so that each operation is looked at once. -/

namespace Sys2Proof.Machine

/-! ### The relation -/

/-- A quarantine list of at most 64 rows, none twice (R135). -/
def ListingOk (l : List Listed) : Prop := l.length ≤ Config.quarantineCapacity ∧ (l.map (fun q => (q.kind, q.index))).Nodup

/-- A bank of the lock table of at most 8 entries, no two on one row (R116). -/
def BankOk (b : List Lock) : Prop := b.length ≤ Config.bankSize ∧ (b.map (·.row)).Nodup

/-- Every table of store `b` is canonical where that of `a` is, its quarantine list is in order where that of `a` is, and a partition that `a` records
is recorded in `b`. -/
structure StoreKept (a b : Store) : Prop where
  cards : Sparse.wf scrubbedCard a.cards = true → Sparse.wf scrubbedCard b.cards = true
  tills : Sparse.wf scrubbedTill a.tills = true → Sparse.wf scrubbedTill b.tills = true
  holds : Sparse.wf scrubbedHold a.holds = true → Sparse.wf scrubbedHold b.holds = true
  links : Sparse.wf {} a.links = true → Sparse.wf {} b.links = true
  trail : Sparse.wf {} a.trail = true → Sparse.wf {} b.trail = true
  trailStatus : Sparse.wf {} a.trailStatus = true → Sparse.wf {} b.trailStatus = true
  quarantine : ListingOk a.quarantine → ListingOk b.quarantine
  partition : ∀ p, a.header.header.partition = some p → b.header.header.partition = some p

/-- What holds of the blocks of `s` that the invariants speak of holds in `t`; the queue of waiting commands is the same. -/
structure BlocksKept (s t : State) : Prop where
  pending : t.pending = s.pending
  memory : Memory.wf s.link.mem = true → Memory.wf t.link.mem = true
  clock : s.clockOk = true → t.clockOk = true
  lanes : Sparse.wf {} s.lanes.lane = true → Sparse.wf {} t.lanes.lane = true
  workers : Sparse.wf none s.units.workers = true → Sparse.wf none t.units.workers = true
  tillBank : BankOk s.locks.till → BankOk t.locks.till
  cardBank : BankOk s.locks.card → BankOk t.locks.card
  rules : Sparse.wf {} s.tables.rules = true → Sparse.wf {} t.tables.rules = true
  programmes : Sparse.wf {} s.tables.programmes = true → Sparse.wf {} t.tables.programmes = true
  store : StoreKept s.store t.store
  buckets : Sparse.wf {} s.holds.buckets = true → Sparse.wf {} t.holds.buckets = true

/-- The anchor registers are kept as well. -/
structure Kept (s t : State) : Prop extends BlocksKept s t where
  anchorLow : t.link.anchorLow = s.link.anchorLow
  anchorHigh : t.link.anchorHigh = s.link.anchorHigh

theorem StoreKept.refl (a : Store) : StoreKept a a := ⟨id, id, id, id, id, id, id, fun _ h => h⟩

theorem StoreKept.trans {a b c : Store} (h : StoreKept a b) (g : StoreKept b c) : StoreKept a c :=
  ⟨g.cards ∘ h.cards, g.tills ∘ h.tills, g.holds ∘ h.holds, g.links ∘ h.links, g.trail ∘ h.trail, g.trailStatus ∘ h.trailStatus,
    g.quarantine ∘ h.quarantine, fun p hp => g.partition p (h.partition p hp)⟩

theorem BlocksKept.refl (s : State) : BlocksKept s s := ⟨rfl, id, id, id, id, id, id, id, id, .refl _, id⟩

theorem BlocksKept.trans {s t u : State} (h : BlocksKept s t) (g : BlocksKept t u) : BlocksKept s u :=
  ⟨g.pending.trans h.pending, g.memory ∘ h.memory, g.clock ∘ h.clock, g.lanes ∘ h.lanes, g.workers ∘ h.workers, g.tillBank ∘ h.tillBank,
    g.cardBank ∘ h.cardBank, g.rules ∘ h.rules, g.programmes ∘ h.programmes, h.store.trans g.store, g.buckets ∘ h.buckets⟩

theorem Kept.refl (s : State) : Kept s s := ⟨.refl s, rfl, rfl⟩

theorem Kept.trans {s t u : State} (h : Kept s t) (g : Kept t u) : Kept s u :=
  ⟨h.toBlocksKept.trans g.toBlocksKept, g.anchorLow.trans h.anchorLow, g.anchorHigh.trans h.anchorHigh⟩

/-! ### What it gives -/

section
variable {s t : State}

theorem State.canonical_iff (s : State) : s.canonical = true ↔
    Memory.wf s.link.mem = true ∧ Sparse.wf {} s.lanes.lane = true ∧ Sparse.wf none s.units.workers = true ∧
    Sparse.wf {} s.tables.rules = true ∧ Sparse.wf {} s.tables.programmes = true ∧ Sparse.wf scrubbedCard s.store.cards = true ∧
    Sparse.wf scrubbedTill s.store.tills = true ∧ Sparse.wf scrubbedHold s.store.holds = true ∧ Sparse.wf {} s.store.links = true ∧
    Sparse.wf {} s.store.trail = true ∧ Sparse.wf {} s.store.trailStatus = true ∧ Sparse.wf {} s.holds.buckets = true := by
  simp only [State.canonical, Bool.and_eq_true, and_assoc]

theorem BlocksKept.canonical (h : BlocksKept s t) (hs : s.canonical = true) : t.canonical = true := by
  obtain ⟨hmem, hlanes, hworkers, hrules, hprogrammes, hcards, htills, hholds, hlinks, htrail, hstatus, hbuckets⟩ := s.canonical_iff.mp hs
  exact t.canonical_iff.mpr ⟨h.memory hmem, h.lanes hlanes, h.workers hworkers, h.rules hrules, h.programmes hprogrammes,
    h.store.cards hcards, h.store.tills htills, h.store.holds hholds, h.store.links hlinks, h.store.trail htrail,
    h.store.trailStatus hstatus, h.buckets hbuckets⟩

theorem BlocksKept.quarantineOk (h : BlocksKept s t) (hs : s.quarantineOk) : t.quarantineOk := h.store.quarantine hs

theorem BlocksKept.locksOk (h : BlocksKept s t) (hs : s.locksOk) : t.locksOk := by
  obtain ⟨htill, htillRows, hcard, hcardRows⟩ := hs
  obtain ⟨htill', htillRows'⟩ := h.tillBank ⟨htill, htillRows⟩
  obtain ⟨hcard', hcardRows'⟩ := h.cardBank ⟨hcard, hcardRows⟩
  exact ⟨htill', htillRows', hcard', hcardRows'⟩

end

/-! ### One block replaced -/

section
variable {s₀ s t : State}

theorem State.setControl_kept (v : Control) (hs : Kept s₀ s) : Kept s₀ (s.setControl v) := hs.trans { Kept.refl s with }
theorem State.setNotices_kept (v : Notices) (hs : Kept s₀ s) : Kept s₀ (s.setNotices v) := hs.trans { Kept.refl s with }
theorem State.setJournal_kept (v : Journal) (hs : Kept s₀ s) : Kept s₀ (s.setJournal v) := hs.trans { Kept.refl s with }

/-- Another Link Interface with the same anchors, whose memory is canonical where the old one is. -/
theorem State.setLink_kept {v : Link} (hmem : Memory.wf s.link.mem = true → Memory.wf v.mem = true)
    (hlow : v.anchorLow = s.link.anchorLow) (hhigh : v.anchorHigh = s.link.anchorHigh) (hs : Kept s₀ s) : Kept s₀ (s.setLink v) :=
  hs.trans { Kept.refl s with memory := hmem, anchorLow := hlow, anchorHigh := hhigh }

theorem State.setMem_kept {m : List Host.Cell} (hmem : Memory.wf s.link.mem = true → Memory.wf m = true) (hs : Kept s₀ s) :
    Kept s₀ (s.setMem m) :=
  State.setLink_kept hmem rfl rfl hs

theorem State.setClock_kept {v : Clock} (hclock : s.clockOk = true → (s.setClock v).clockOk = true) (hs : Kept s₀ s) :
    Kept s₀ (s.setClock v) :=
  hs.trans { Kept.refl s with clock := hclock }

theorem State.setLanes_kept {v : Lanes} (hlanes : Sparse.wf {} s.lanes.lane = true → Sparse.wf {} v.lane = true) (hs : Kept s₀ s) :
    Kept s₀ (s.setLanes v) :=
  hs.trans { Kept.refl s with lanes := hlanes }

theorem State.setUnits_kept {v : Units} (hworkers : Sparse.wf none s.units.workers = true → Sparse.wf none v.workers = true)
    (hs : Kept s₀ s) : Kept s₀ (s.setUnits v) :=
  hs.trans { Kept.refl s with workers := hworkers }

theorem State.setLocks_kept {v : Locks} (htill : BankOk s.locks.till → BankOk v.till) (hcard : BankOk s.locks.card → BankOk v.card)
    (hs : Kept s₀ s) : Kept s₀ (s.setLocks v) :=
  hs.trans { Kept.refl s with tillBank := htill, cardBank := hcard }

theorem State.setTables_kept {v : Tables} (hrules : Sparse.wf {} s.tables.rules = true → Sparse.wf {} v.rules = true)
    (hprogrammes : Sparse.wf {} s.tables.programmes = true → Sparse.wf {} v.programmes = true) (hs : Kept s₀ s) :
    Kept s₀ (s.setTables v) :=
  hs.trans { Kept.refl s with rules := hrules, programmes := hprogrammes }

theorem State.setStore_kept {v : Store} (hv : StoreKept s.store v) (hs : Kept s₀ s) : Kept s₀ (s.setStore v) :=
  hs.trans { Kept.refl s with store := hv }

theorem State.setHolds_kept {v : HoldTable} (hbuckets : Sparse.wf {} s.holds.buckets = true → Sparse.wf {} v.buckets = true)
    (hs : Kept s₀ s) : Kept s₀ (s.setHolds v) :=
  hs.trans { Kept.refl s with buckets := hbuckets }

/-- A Hold Table with the same buckets. -/
theorem State.setHolds_sameBuckets_kept {v : HoldTable} (hv : v.buckets = s.holds.buckets) (hs : Kept s₀ s) : Kept s₀ (s.setHolds v) :=
  State.setHolds_kept (fun h => hv ▸ h) hs

theorem State.setLaneState_kept (n : Nat) (l : LaneState) (hs : Kept s₀ s) : Kept s₀ (s.setLaneState n l) :=
  State.setLanes_kept (Sparse.wf_set _ _ _ _) hs

theorem State.setWorker_kept (w : Nat) (v : Option Work) (hs : Kept s₀ s) : Kept s₀ (s.setWorker w v) :=
  State.setUnits_kept (Sparse.wf_set _ _ _ _) hs

theorem State.setChain_kept (c : ChainId) (v : Chain) (hs : Kept s₀ s) : Kept s₀ (s.setChain c v) := by
  cases c with
  | free => exact State.setHolds_sameBuckets_kept rfl hs
  | due => exact State.setHolds_sameBuckets_kept rfl hs
  | bucket b => exact State.setHolds_kept (Sparse.wf_set _ _ _ _) hs

theorem State.setBank_kept {l : LockName} {b : List Lock} (hb : BankOk (s.bank l) → BankOk b) (hs : Kept s₀ s) :
    Kept s₀ (s.setBank l b) := by
  cases l with
  | till r => exact State.setLocks_kept hb id hs
  | card r => exact State.setLocks_kept id hb hs

/-! ### The state beside another value, and folds -/

theorem kept_of_eq {α : Type} {r : State × α} {a : α} (h : Kept s₀ r.1) (e : r = (t, a)) : Kept s₀ t := by
  subst e
  exact h

theorem foldl_kept {α : Type} {f : State → α → State} (hf : ∀ u a, Kept s₀ u → Kept s₀ (f u a)) (l : List α) (hs : Kept s₀ s) :
    Kept s₀ (l.foldl f s) :=
  List.foldlRecOn l f hs fun u hu a _ => hf u a hu

/-- What only reads rows keeps everything. -/
theorem Observed.kept (h : Observed s t) (hs : Kept s₀ s) : Kept s₀ t := by
  refine hs.trans
    { pending := h.pending
      memory := h.memWf
      clock := by simp only [State.clockOk, h.clock]; exact id
      lanes := by rw [h.lanes]; exact id
      workers := by rw [h.units]; exact id
      tillBank := by rw [h.locks]; exact id
      cardBank := by rw [h.locks]; exact id
      rules := by rw [h.tables]; exact id
      programmes := by rw [h.tables]; exact id
      buckets := by rw [h.holds]; exact id
      anchorLow := by rw [h.link]
      anchorHigh := by rw [h.link]
      store :=
        { cards := h.cardsWf
          tills := h.tillsWf
          holds := h.holdsWf
          links := h.linksWf
          trail := h.trailWf
          trailStatus := by rw [h.store]; exact id
          quarantine := h.quarantine
          partition := fun p hp => (congrArg Header.partition h.header).trans hp } }

end

end Sys2Proof.Machine
end

section
/-! PROOFS. What every operation keeps, part 2: the operations that the blocks share, the lock table, the hold chains and the lanes. -/

namespace Sys2Proof.Machine

section
variable {s₀ s : State}

/-! ### Link, notices and the quarantine list -/

theorem linkPut_kept (a : Nat) (bs : List Byte) (hs : Kept s₀ s) : Kept s₀ (linkPut s a bs).1 := by
  obtain ⟨m, hput, hwf, -⟩ := linkPut_only s a bs
  rw [hput]
  exact State.setMem_kept hwf hs

theorem linkBlock_kept (a : Nat) (bs : List Byte) (hs : Kept s₀ s) : Kept s₀ (linkBlock s a bs).1 :=
  State.setMem_kept (memWrite_wf _ _ _) hs

theorem linkZero_kept (a n : Nat) (hs : Kept s₀ s) : Kept s₀ (linkZero s a n) := State.setMem_kept (Sparse.wfAbove_filter 0 _ _ none) hs

theorem sendMsi_kept (hs : Kept s₀ s) : Kept s₀ (sendMsi s) := by
  unfold sendMsi
  split
  · exact State.setLink_kept id rfl rfl hs
  · exact hs

theorem raiseCause_kept (c : Cause) (hs : Kept s₀ s) : Kept s₀ (raiseCause c s) := (raiseCause_observed c s).kept hs

/-- A list some of whose rows have left is in order (R136). -/
theorem ListingOk.filter {l : List Listed} (f : Listed → Bool) (h : ListingOk l) : ListingOk (l.filter f) :=
  ⟨(List.length_filter_le f l).trans h.1, h.2.sublist (List.filter_sublist.map _)⟩

theorem quarantineLeave_kept (k : RowKind) (i : Nat) (hs : Kept s₀ s) : Kept s₀ (quarantineLeave k i s) := by
  obtain ⟨m, hleave, hwf, -⟩ := quarantineLeave_only k i s
  rw [hleave]
  exact State.setStore_kept { StoreKept.refl _ with quarantine := ListingOk.filter _ } (State.setMem_kept hwf hs)

/-! ### Rows and trail entries -/

theorem readCard_kept (i : Nat) (hs : Kept s₀ s) : Kept s₀ (readCard s i).1 := (readCard_observed s i).kept hs
theorem readTill_kept (i : Nat) (hs : Kept s₀ s) : Kept s₀ (readTill s i).1 := (readTill_observed s i).kept hs
theorem readHold_kept (i : Nat) (hs : Kept s₀ s) : Kept s₀ (readHold s i).1 := (readHold_observed s i).kept hs

/-- A read of a card row that is left out where the row is listed. -/
theorem readCardUnlessListed_kept (i : Nat) (hs : Kept s₀ s) :
    Kept s₀ (if s.isListed .card i then (s, none) else readCard s i).1 := by
  split
  · exact hs
  · exact readCard_kept i hs

theorem State.putCardStored_kept (i : Nat) (c : Stored CardRow) (hs : Kept s₀ s) : Kept s₀ (s.putCardStored i c) :=
  State.setStore_kept { StoreKept.refl _ with cards := Sparse.wf_set _ _ _ _ } hs
theorem State.putTillStored_kept (i : Nat) (t : Stored TillRow) (hs : Kept s₀ s) : Kept s₀ (s.putTillStored i t) :=
  State.setStore_kept { StoreKept.refl _ with tills := Sparse.wf_set _ _ _ _ } hs
theorem State.putHoldStored_kept (i : Nat) (h : Stored HoldRow) (hs : Kept s₀ s) : Kept s₀ (s.putHoldStored i h) :=
  State.setStore_kept { StoreKept.refl _ with holds := Sparse.wf_set _ _ _ _ } hs
theorem State.putLinkStored_kept (i : Nat) (v : StoredLink) (hs : Kept s₀ s) : Kept s₀ (s.putLinkStored i v) :=
  State.setStore_kept { StoreKept.refl _ with links := Sparse.wf_set _ _ _ _ } hs

/-- A header that records the partition recorded before. -/
theorem State.putHeader_kept {h : Header} (hh : h.partition = s.header.partition) (hs : Kept s₀ s) : Kept s₀ (s.putHeader h) :=
  State.setStore_kept { StoreKept.refl _ with partition := fun _ hp => hh.trans hp } hs

theorem setJournalStatus_kept (k : Nat) (v : TrailStatus) (hs : Kept s₀ s) : Kept s₀ (setJournalStatus k v s) :=
  State.setStore_kept { StoreKept.refl _ with trail := Sparse.wf_set _ _ _ _, trailStatus := Sparse.wf_set _ _ _ _ } hs
theorem setAnswerStatus_kept (k : Nat) (v : TrailStatus) (hs : Kept s₀ s) : Kept s₀ (setAnswerStatus k v s) :=
  State.setStore_kept { StoreKept.refl _ with trail := Sparse.wf_set _ _ _ _, trailStatus := Sparse.wf_set _ _ _ _ } hs

theorem abandonPending_kept (hs : Kept s₀ s) : Kept s₀ (abandonPending s) := by
  refine foldl_kept (fun u k hu => ?_) _ hs
  extract_lets settled
  have hsettled : Kept s₀ settled := by
    unfold settled
    split
    · exact setJournalStatus_kept k _ hu
    · exact hu
  split
  · exact setAnswerStatus_kept k _ hsettled
  · exact hsettled

/-! ### Journal room -/

theorem reserveRoom_kept (n : Nat) (hs : Kept s₀ s) : Kept s₀ (reserveRoom n s) := State.setJournal_kept _ hs

theorem testMark_kept (hs : Kept s₀ s) : Kept s₀ (testMark s) := by
  unfold testMark
  dsimp only
  split
  · exact raiseCause_kept _ (State.setJournal_kept _ hs)
  · exact State.setJournal_kept _ hs

/-- Units with the same workers. -/
theorem State.setUnits_sameWorkers_kept {v : Units} (hv : v.workers = s.units.workers) (hs : Kept s₀ s) : Kept s₀ (s.setUnits v) :=
  State.setUnits_kept (fun h => hv ▸ h) hs

theorem grantWaiting_kept (ws : List Nat) (hs : Kept s₀ s) : Kept s₀ (grantWaiting ws s) := by
  induction ws generalizing s with
  | nil => exact State.setUnits_sameWorkers_kept rfl hs
  | cons w ws ih =>
    unfold grantWaiting
    split
    · split
      · split
        · exact ih (reserveRoom_kept 1 (State.setWorker_kept w _ hs))
        · exact ih hs
      · exact ih hs
    · exact State.setUnits_sameWorkers_kept rfl hs

theorem grantBalances_kept (hs : Kept s₀ s) : Kept s₀ (grantBalances s) := grantWaiting_kept _ hs

theorem refreshDrained_kept (hs : Kept s₀ s) : Kept s₀ (refreshDrained s) := by
  unfold refreshDrained
  split
  · exact hs
  · dsimp only
    split
    · exact grantBalances_kept (testMark_kept (State.setJournal_kept _ hs))
    · exact hs

theorem askRoom_kept (n : Nat) (hs : Kept s₀ s) : Kept s₀ (askRoom n s).1 := by
  unfold askRoom
  split
  · exact hs
  · split
    · exact reserveRoom_kept n hs
    · dsimp only
      split
      · exact reserveRoom_kept n (refreshDrained_kept hs)
      · exact refreshDrained_kept hs

theorem returnRoom_kept (n : Nat) (hs : Kept s₀ s) : Kept s₀ (returnRoom n s) := grantBalances_kept (State.setJournal_kept _ hs)

theorem reservePlace_kept (p : Nat) (hs : Kept s₀ s) : Kept s₀ (reservePlace p s) := State.setUnits_sameWorkers_kept rfl hs
theorem returnPlace_kept (p : Nat) (hs : Kept s₀ s) : Kept s₀ (returnPlace p s) := State.setUnits_sameWorkers_kept rfl hs

/-! ### The lock table and the wait pool -/

/-- A lock that is not held names no row of its bank. -/
theorem State.not_lockHeld_iff (l : LockName) : s.lockHeld l = false ↔ l.row ∉ (s.bank l).map (·.row) := by
  simp [State.lockHeld]

/-- An entry for a row that has none fits a bank with a free place (R118). -/
theorem BankOk.append {b : List Lock} {k : Lock} (h : BankOk b) (hlen : b.length < Config.bankSize) (hrow : k.row ∉ b.map (·.row)) :
    BankOk (b ++ [k]) := by
  refine ⟨by rw [List.length_append, List.length_singleton]; exact hlen, ?_⟩
  rw [List.map_append]
  refine List.nodup_append.mpr ⟨h.2, List.nodup_singleton _, fun a ha c hc e => hrow ?_⟩
  rwa [e, List.mem_singleton.mp hc] at ha

theorem BankOk.filter {b : List Lock} (f : Lock → Bool) (h : BankOk b) : BankOk (b.filter f) :=
  ⟨(List.length_filter_le f b).trans h.1, h.2.sublist (List.filter_sublist.map _)⟩

/-- The rows of a bank in which the entry of a row passes to another row (R119). -/
theorem passEntry_rows (row : Nat) (l : Lock) (b : List Lock) :
    (passEntry row l b).map (·.row) = (b.map (·.row)).map (fun r => if r = row then l.row else r) := by
  simp only [passEntry, List.map_map]
  refine List.map_congr_left fun k _ => ?_
  simp only [Function.comp_apply]
  split <;> rfl

/-- An entry passed to its own row again, or to a row that has none, leaves no two entries on one row (R119). -/
theorem BankOk.passEntry {b : List Lock} {row : Nat} {l : Lock} (h : BankOk b) (hrow : l.row = row ∨ l.row ∉ b.map (·.row)) :
    BankOk (passEntry row l b) := by
  refine ⟨by rw [Machine.passEntry, List.length_map]; exact h.1, ?_⟩
  rw [passEntry_rows]
  refine h.2.map_on fun x hx y hy hxy => ?_
  rcases hrow with hsame | hfree
  · have hid : ∀ r, (if r = row then l.row else r) = r := fun r => by
      split
      · next h => exact hsame.trans h.symm
      · rfl
    rwa [hid, hid] at hxy
  · by_cases hxr : x = row <;> by_cases hyr : y = row
    · exact hxr.trans hyr.symm
    · rw [if_pos hxr, if_neg hyr] at hxy
      exact absurd (hxy ▸ hy) hfree
    · rw [if_neg hxr, if_pos hyr] at hxy
      exact absurd (hxy ▸ hx) hfree
    · rwa [if_neg hxr, if_neg hyr] at hxy

theorem requestLock_kept (l : LockName) (place : Nat) (hs : Kept s₀ s) : Kept s₀ (requestLock l place s).1 := by
  unfold requestLock
  split
  · exact hs
  · next hheld =>
    split
    · next hlen =>
      exact State.setBank_kept (fun h => h.append hlen ((State.not_lockHeld_iff l).mp (Bool.eq_false_iff.mpr hheld))) hs
    · exact hs

theorem enterPool_kept (w : Nat) (k : Work) (l : LockName) (hs : Kept s₀ s) : Kept s₀ (enterPool w k l s) :=
  State.setUnits_sameWorkers_kept rfl (State.setWorker_kept w none hs)

/-- The waiter taken is one the test admits. -/
theorem takeWaiter_admits {f : Waiter → Bool} {l rest : List Waiter} {x : Waiter} (h : takeWaiter f l = some (x, rest)) : f x = true := by
  induction l generalizing rest with
  | nil => simp [takeWaiter] at h
  | cons a r ih =>
    unfold takeWaiter at h
    split at h
    · next ha =>
      cases h
      exact ha
    · obtain ⟨⟨x', rest'⟩, htake, heq⟩ := Option.map_eq_some_iff.mp h
      cases heq
      exact ih htake

theorem handOver_kept {x : Waiter} (rest : List Waiter) {row : Nat} (hrow : x.lock.row = row ∨ s.lockHeld x.lock = false)
    (hs : Kept s₀ s) : Kept s₀ (handOver x rest row s) := by
  have hbank : Kept s₀ (s.setBank x.lock (passEntry row { row := x.lock.row, holder := x.work.place } (s.bank x.lock))) :=
    State.setBank_kept (fun h => h.passEntry (hrow.imp_right (State.not_lockHeld_iff x.lock).mp)) hs
  exact State.setUnits_sameWorkers_kept rfl hbank

theorem releaseLock_kept (l : LockName) (hs : Kept s₀ s) : Kept s₀ (releaseLock l s) := by
  unfold releaseLock
  split
  · next htake => exact handOver_kept _ (.inl (congrArg LockName.row (of_decide_eq_true (takeWaiter_admits htake)))) hs
  · split
    · next htake =>
      have hadmits := takeWaiter_admits htake
      rw [Bool.and_eq_true, Bool.not_eq_true'] at hadmits
      exact handOver_kept _ (.inr hadmits.2) hs
    · exact State.setBank_kept (BankOk.filter _) hs

theorem releaseTill_kept (r : Option Nat) (hs : Kept s₀ s) : Kept s₀ (releaseTill r s) := by
  cases r with
  | none => exact hs
  | some r => exact releaseLock_kept _ hs

theorem releaseCard_kept (r : Option Nat) (hs : Kept s₀ s) : Kept s₀ (releaseCard r s) := by
  cases r with
  | none => exact hs
  | some r => exact releaseLock_kept _ hs

theorem finishWork_kept (w : Nat) (k : Work) (hs : Kept s₀ s) : Kept s₀ (finishWork w k s) :=
  returnRoom_kept _ (returnPlace_kept _ (State.setWorker_kept w none (releaseTill_kept _ hs)))

/-! ### The outside world -/

/-- A bit that flips changes an error state alone (R132). -/
theorem applyFlip_kept (f : BitFlip) (hs : Kept s₀ s) : Kept s₀ (applyFlip s f) := by
  unfold applyFlip
  dsimp only
  split
  · split
    · exact State.putCardStored_kept _ _ hs
    · exact State.putTillStored_kept _ _ hs
    · exact State.putHoldStored_kept _ _ hs
    · exact State.putLinkStored_kept _ _ hs
    · exact State.putLinkStored_kept _ _ hs
    · exact State.setStore_kept { StoreKept.refl _ with } hs
    · exact State.setStore_kept { StoreKept.refl _ with } hs
    · exact State.setStore_kept { StoreKept.refl _ with trail := Sparse.wf_set _ _ _ _ } hs
  · exact hs

theorem State.outside_kept (s : State) (e : Outside) : Kept s (s.outside e) := by
  refine foldl_kept (fun _ f hu => applyFlip_kept f hu) _ (State.setLink_kept (fun hmem => ?_) rfl rfl (.refl s))
  exact List.foldlRecOn (motive := fun m => Memory.wf m = true) e.writes _ hmem fun m hm c _ => Memory.wf_write m _ _ hm

/-! ### Hold chains -/

theorem writeLink_kept (i : Nat) (w : LinkWord) (hs : Kept s₀ s) : Kept s₀ (writeLink i w s) := State.putLinkStored_kept i _ hs
theorem joinNext_kept (i : Nat) (t : Option Nat) (hs : Kept s₀ s) : Kept s₀ (joinNext i t s) := writeLink_kept i _ hs
theorem joinPrev_kept (i : Nat) (t : Option Nat) (hs : Kept s₀ s) : Kept s₀ (joinPrev i t s) := writeLink_kept i _ hs
theorem readLink_kept (i : Nat) (hs : Kept s₀ s) : Kept s₀ (readLink s i).1 := (readLink_observed s i).kept hs

theorem dropHand_kept (k : HandKind) (i : Nat) (hs : Kept s₀ s) : Kept s₀ (dropHand k i s) := State.setHolds_sameBuckets_kept rfl hs

theorem appendRow_kept (c : ChainId) (i : Nat) (hs : Kept s₀ s) : Kept s₀ (appendRow c i s) := by
  unfold appendRow
  extract_lets ch placed joined
  have hplaced : Kept s₀ placed := writeLink_kept i _ hs
  have hjoined : Kept s₀ joined := by
    unfold joined
    split
    · exact hplaced
    · exact joinNext_kept _ _ hplaced
  exact State.setChain_kept c _ hjoined

theorem fileRow_kept (i deadline : Nat) (hs : Kept s₀ s) : Kept s₀ (fileRow i deadline s) := by
  unfold fileRow
  split
  · split <;> exact appendRow_kept _ i hs
  · exact appendRow_kept _ i hs

theorem leaveChain_kept (c : Option ChainId) (i : Nat) (p n : Option Nat) (hs : Kept s₀ s) : Kept s₀ (leaveChain c i p n s) := by
  unfold leaveChain
  extract_lets prevJoined nextJoined
  have hprev : Kept s₀ prevJoined := by
    unfold prevJoined
    split
    · exact hs
    · exact joinNext_kept _ _ hs
  have hnext : Kept s₀ nextJoined := by
    unfold nextJoined
    split
    · exact hprev
    · exact joinPrev_kept _ _ hprev
  split
  · exact hnext
  · exact State.setChain_kept _ _ hnext

theorem unlinkRow_kept (i : Nat) (hs : Kept s₀ s) : Kept s₀ (unlinkRow i s).1 := by
  rw [unlinkRow_eq]
  split
  · exact readLink_kept i hs
  · exact leaveChain_kept _ i _ _ (readLink_kept i hs)

theorem moveHold_kept (o : HoldOp) (hs : Kept s₀ s) : Kept s₀ (moveHold o s).1 := by
  cases o with
  | openRow i h =>
    have hunlinked := unlinkRow_kept i (dropHand_kept .claim i hs)
    unfold moveHold
    dsimp only
    split
    · next e => exact kept_of_eq hunlinked e
    · next e => exact fileRow_kept i _ (kept_of_eq hunlinked e)
  | renewRow i h =>
    have hunlinked := unlinkRow_kept i hs
    unfold moveHold
    dsimp only
    split
    · next e => exact kept_of_eq hunlinked e
    · next e => exact dropHand_kept _ i (fileRow_kept i _ (kept_of_eq hunlinked e))
  | freeRow i h unlist =>
    have hunlinked := unlinkRow_kept i hs
    unfold moveHold
    dsimp only
    split
    · next e => exact kept_of_eq hunlinked e
    · next e => exact appendRow_kept .free i (dropHand_kept .expiry i (kept_of_eq hunlinked e))
  | refile i =>
    have hunlinked := unlinkRow_kept i hs
    unfold moveHold
    dsimp only
    split
    · next e => exact kept_of_eq hunlinked e
    · next e => exact dropHand_kept _ i (fileRow_kept i _ (kept_of_eq hunlinked e))
  | requeue i =>
    have hunlinked := unlinkRow_kept i hs
    unfold moveHold
    dsimp only
    split
    · next e => exact kept_of_eq hunlinked e
    · next e => exact dropHand_kept _ i (appendRow_kept _ i (kept_of_eq hunlinked e))

theorem moveHolds_kept (os : List HoldOp) (hs : Kept s₀ s) : Kept s₀ (moveHolds os s).1 := by
  induction os generalizing s with
  | nil => exact hs
  | cons o os ih =>
    have hmoved := moveHold_kept o hs
    unfold moveHolds
    split
    · next e => exact kept_of_eq hmoved e
    · next e => exact ih (kept_of_eq hmoved e)

theorem writeHoldContent_kept (o : HoldOp) (hs : Kept s₀ s) : Kept s₀ (writeHoldContent o s) := by
  cases o with
  | openRow i h => exact State.putHoldStored_kept i _ hs
  | renewRow i h => exact State.putHoldStored_kept i _ hs
  | freeRow i h unlist =>
    cases unlist with
    | false => exact State.putHoldStored_kept i _ hs
    | true => exact quarantineLeave_kept .hold i (State.putHoldStored_kept i _ hs)
  | refile _ => exact hs
  | requeue _ => exact hs

theorem concatBucket_kept (b : Nat) (hs : Kept s₀ s) : Kept s₀ (concatBucket b s) := by
  unfold concatBucket
  extract_lets ch
  split
  · exact hs
  · extract_lets joined due
    have hjoined : Kept s₀ joined := by
      unfold joined
      split
      · exact hs
      · exact joinPrev_kept _ _ (joinNext_kept _ _ hs)
    exact State.setChain_kept _ _ (State.setChain_kept .due _ hjoined)

theorem setSweep_kept (p : Option Int) (hs : Kept s₀ s) : Kept s₀ (s.setHolds { s.holds with sweep := p }) :=
  State.setHolds_sameBuckets_kept rfl hs

theorem sweepStep_kept (hs : Kept s₀ s) : Kept s₀ (sweepStep s) := by
  unfold sweepStep
  split
  · exact hs
  · split
    · dsimp only
      split
      · exact setSweep_kept _ hs
      · exact setSweep_kept _ (concatBucket_kept _ hs)
    · exact hs

theorem moveAllBuckets_kept (p : Int) (hs : Kept s₀ s) : Kept s₀ (moveAllBuckets p s) :=
  foldl_kept (fun _ _ hu => concatBucket_kept _ hu) _ hs

theorem followStep_kept (old : Nat) (hs : Kept s₀ s) : Kept s₀ (followStep old s) := by
  unfold followStep
  split
  · exact hs
  · dsimp only
    split
    · split
      · split
        · exact setSweep_kept _ hs
        · exact setSweep_kept _ (moveAllBuckets_kept _ hs)
      · exact hs
    · split
      · exact setSweep_kept _ hs
      · exact hs

/-! ### Work and journal dropped, LINK_LOST and the rebuild -/

theorem BankOk.empty : BankOk [] := ⟨Nat.zero_le _, List.nodup_nil⟩

theorem dropWork_kept (hs : Kept s₀ s) : Kept s₀ (dropWork s) :=
  have hunits : Kept s₀ (s.setUnits {}) := State.setUnits_kept (fun _ => rfl) hs
  have hlocks : Kept s₀ ((s.setUnits {}).setLocks {}) := State.setLocks_kept (fun _ => .empty) (fun _ => .empty) hunits
  State.setNotices_kept _ (State.setHolds_kept (fun h => h) hlocks)

theorem dropJournal_kept (hs : Kept s₀ s) : Kept s₀ (dropJournal s) := State.setJournal_kept _ hs

/-- Lanes changed one by one keep their table's canonical form. -/
theorem mapLanes_wfAbove (f : LaneState → LaneState) (m : List (Nat × LaneState)) (lo : Option Nat)
    (h : Sparse.wfAbove {} lo m = true) : Sparse.wfAbove {} lo (mapLanes f m) = true := by
  induction m generalizing lo with
  | nil => rfl
  | cons p m ih =>
    obtain ⟨j, l⟩ := p
    simp only [Sparse.wfAbove, Bool.and_eq_true] at h
    unfold mapLanes
    split
    · refine ih lo ?_
      cases lo with
      | none => exact Sparse.wfAbove_weaken _ h.2
      | some k => exact Sparse.wfAbove_of_lt _ (of_decide_eq_true h.1.1) h.2
    · next hf =>
      simp only [Sparse.wfAbove, Bool.and_eq_true]
      exact ⟨⟨h.1.1, by simpa using hf⟩, ih _ h.2⟩

theorem linkLost_kept (hs : Kept s₀ s) : Kept s₀ (linkLost s) := by
  unfold linkLost
  extract_lets header marked dropped lanesKept abandoned control
  have hmarked : Kept s₀ marked := raiseCause_kept .store (State.putHeader_kept rfl hs)
  have hdropped : Kept s₀ dropped := dropJournal_kept (dropWork_kept hmarked)
  have habandoned : Kept s₀ abandoned := abandonPending_kept (State.setLanes_kept (mapLanes_wfAbove _ _ none) hdropped)
  exact raiseCause_kept .engine (State.setControl_kept _ habandoned)

theorem rebuildRow_kept (i : Nat) (hs : Kept s₀ s) : Kept s₀ (rebuildRow s i) := by
  have hread := readHold_kept i hs
  unfold rebuildRow
  split
  · next e => exact appendRow_kept _ i (kept_of_eq hread e)
  · next e =>
    split
    · exact fileRow_kept i _ (kept_of_eq hread e)
    · exact appendRow_kept _ i (kept_of_eq hread e)

theorem rebuildChains_kept (hs : Kept s₀ s) : Kept s₀ (rebuildChains s) :=
  State.putHeader_kept rfl (foldl_kept (fun _ i hu => rebuildRow_kept i hu) _ (State.setHolds_kept (fun _ => rfl) hs))

/-! ### Lanes -/

theorem look_kept (n : Nat) (hs : Kept s₀ s) : Kept s₀ (look n s) := by
  unfold look
  split
  · exact hs
  · dsimp only
    split
    · exact State.setLaneState_kept n _ hs
    · exact hs

theorem lookAll_kept (hs : Kept s₀ s) : Kept s₀ (lookAll s) := foldl_kept (fun _ n hu => look_kept n hu) _ hs

theorem setLaneMode_kept (n : Nat) (isOpen : Bool) (hs : Kept s₀ s) : Kept s₀ (setLaneMode n isOpen s) := by
  cases isOpen with
  | false => exact State.setLaneState_kept n _ hs
  | true => exact look_kept n (State.setLaneState_kept n _ hs)

theorem gatherAnswer_kept (n : Nat) (e : LaneEntry) (hs : Kept s₀ s) : Kept s₀ (gatherAnswer n e s) := by
  unfold gatherAnswer
  dsimp only
  split
  · exact raiseCause_kept _ (State.setLaneState_kept n _ hs)
  · split <;> exact State.setLaneState_kept n _ hs

end

end Sys2Proof.Machine
end

section
/-! PROOFS. What every operation keeps, part 3: the commit sequence, each step 16, and the admission steps. -/

namespace Sys2Proof.Machine

section
variable {s₀ s : State} {k : Work} {p : Plan}

/-! ### The commit sequence -/

/-- A clock set to figures in their ranges (R174, R177). -/
theorem setClock_inRange_kept {v : Clock} (hphase : v.phase < 1000) (htick : v.tick < 100000) (hsecond : v.second < 60)
    (hminute : v.minute < 1440) (hday : v.day ≤ Config.lastDay) (hs : Kept s₀ s) : Kept s₀ (s.setClock v) :=
  State.setClock_kept (fun _ => by simp [State.clockOk, hphase, htick, hsecond, hminute, hday]) hs

theorem commitAction_kept (p : Plan) (hs : Kept s₀ s) : Kept s₀ (commitAction p s).1 := by
  unfold commitAction
  split
  · exact hs
  · split
    · exact State.setTables_kept (Sparse.wf_set _ _ _ _) id hs
    · exact hs
  · split
    · exact State.setTables_kept id (Sparse.wf_set _ _ _ _) hs
    · exact hs
  · split
    · exact setLaneMode_kept _ _ hs
    · exact hs
  · next day minute second _ =>
    dsimp only
    split
    · exact followStep_kept _
        (setClock_inRange_kept (Nat.succ_pos _) (Nat.succ_pos _) second.isLt minute.isLt (Nat.le_of_lt_succ day.isLt) hs)
    · exact hs

theorem writeTrail_kept (x : Sealed) (k : Work) (hs : Kept s₀ s) : Kept s₀ (writeTrail x k s) :=
  State.setStore_kept { StoreKept.refl _ with trail := Sparse.wf_set _ _ _ _, trailStatus := Sparse.wf_set _ _ _ _ } hs

theorem raiseHeader_kept (n : Nat) (hs : Kept s₀ s) : Kept s₀ (raiseHeader n s) := State.putHeader_kept rfl hs

theorem writeRows_kept (x : Sealed) (k : Work) (hs : Kept s₀ s) : Kept s₀ (writeRows x k s) := by
  unfold writeRows
  extract_lets tillWritten cardWritten headerRaised holdsWritten
  have htill : Kept s₀ tillWritten := by
    unfold tillWritten
    split
    · exact State.putTillStored_kept _ _ hs
    · exact hs
  have hcard : Kept s₀ cardWritten := by
    unfold cardWritten
    split
    · split
      · exact State.putCardStored_kept _ _ htill
      · exact htill
    · exact htill
  have hheader : Kept s₀ headerRaised := by
    unfold headerRaised
    split
    · exact hcard
    · exact raiseHeader_kept _ hcard
  have hholds : Kept s₀ holdsWritten := foldl_kept (fun _ o hu => writeHoldContent_kept o hu) _ hheader
  exact foldl_kept (fun _ q hu => quarantineLeave_kept q.1 q.2 hu) _ hholds

theorem handAnswer_kept (w place : Nat) (k : Work) (x : Sealed) (hs : Kept s₀ s) : Kept s₀ (handAnswer w place k x s) := by
  unfold handAnswer
  split
  · exact hs
  · exact State.setNotices_kept _ hs

theorem afterStoreWrites_kept (w place : Nat) (k : Work) (x : Sealed) (hs : Kept s₀ s) : Kept s₀ (afterStoreWrites w place k x s) := by
  have hreleased : Kept s₀ (releaseCard k.cardLock (handJournal place x.entries s)) := releaseCard_kept _ (State.setJournal_kept _ hs)
  unfold afterStoreWrites
  dsimp only
  split
  · exact handAnswer_kept w place k x (State.setWorker_kept w _ hreleased)
  · exact finishWork_kept w _ hreleased

theorem dropHandsOf_kept (place : Nat) (hs : Kept s₀ s) : Kept s₀ (dropHandsOf place s) := State.setHolds_sameBuckets_kept rfl hs

theorem commitNow_kept (w : Nat) (k : Work) (p : Plan) (hs : Kept s₀ s) : Kept s₀ (commitNow w k p s) := by
  have hacted : Kept s₀ (commitAction p s).1 := commitAction_kept p hs
  unfold commitNow
  dsimp only
  split
  · exact afterStoreWrites_kept w _ k _ (dropHandsOf_kept _ (moveHolds_kept _
      (writeRows_kept _ k (writeTrail_kept _ k (State.setJournal_kept _ hacted)))))
  · exact linkLost_kept (moveHolds_kept _ (writeRows_kept _ k (writeTrail_kept _ k (State.setJournal_kept _ hacted))))

theorem commitWork_kept (w : Nat) (k : Work) (p : Plan) (hs : Kept s₀ s) : Kept s₀ (commitWork w k p s) := by
  unfold commitWork
  split
  · exact State.setWorker_kept w _ hs
  · exact commitNow_kept w k p hs

theorem prepareCommit_kept (w : Nat) (k : Work) (p : Plan) (hs : Kept s₀ s) : Kept s₀ (prepareCommit w k p s) := by
  have hroom : Kept s₀ (askRoom 1 s).1 := askRoom_kept 1 hs
  unfold prepareCommit
  split
  · dsimp only
    split
    · exact commitWork_kept w _ p hroom
    · exact State.setUnits_sameWorkers_kept rfl (State.setWorker_kept w _ hroom)
  · exact commitWork_kept w k p hs

/-! ### Step 16 -/

theorem activateStep_kept (hs : Kept s₀ s) : Kept s₀ (activateStep k p s).1 := by
  unfold activateStep
  dsimp only
  repeat' split
  all_goals exact hs

theorem loadStep_kept (hs : Kept s₀ s) : Kept s₀ (loadStep k p s).1 := by
  unfold loadStep
  dsimp only
  repeat' split
  all_goals exact hs

theorem redeemStep_kept (hs : Kept s₀ s) : Kept s₀ (redeemStep k p s).1 := by
  unfold redeemStep
  dsimp only
  repeat' split
  all_goals exact hs

theorem bonusGrantStep_kept (hs : Kept s₀ s) : Kept s₀ (bonusGrantStep k p s).1 := by
  unfold bonusGrantStep
  dsimp only
  repeat' split
  all_goals exact hs

theorem claimRow_kept (hs : Kept s₀ s) : Kept s₀ (claimRow s).1 := (claimRow_observed s).kept hs

theorem findHold_kept (ref : HoldRef) (c : CardRow) (now : Nat) (hs : Kept s₀ s) : Kept s₀ (findHold ref c now s).1 :=
  (findHold_observed ref c now s).kept hs

theorem holdOpenStep_kept (hs : Kept s₀ s) : Kept s₀ (holdOpenStep k p s).1 := by
  have hclaim := claimRow_kept hs
  unfold holdOpenStep
  dsimp only
  split
  · exact hs
  · split
    · exact hs
    · split
      · exact hs
      · split
        · exact hs
        · split
          · next e => exact kept_of_eq hclaim e
          · next e => exact kept_of_eq hclaim e
          · next e => exact State.setHolds_sameBuckets_kept rfl (kept_of_eq hclaim e)

theorem holdRenewStep_kept (hs : Kept s₀ s) : Kept s₀ (holdRenewStep k p s).1 := by
  have hfind := findHold_kept k.req.hold p.working k.now hs
  unfold holdRenewStep
  split
  · next e => exact kept_of_eq hfind e
  · next e => exact kept_of_eq hfind e
  · next e => exact kept_of_eq hfind e
  · next e => split <;> exact kept_of_eq hfind e

theorem holdCloseStep_kept (hs : Kept s₀ s) : Kept s₀ (holdCloseStep k p s).1 := by
  have hfind := findHold_kept k.req.hold p.working k.now hs
  unfold holdCloseStep
  dsimp only
  split
  · next e => exact kept_of_eq hfind e
  · next e => exact kept_of_eq hfind e
  · next e => exact kept_of_eq hfind e
  · next e =>
    have hfound := kept_of_eq hfind e
    repeat' split
    all_goals exact hfound

theorem holdCancelStep_kept (hs : Kept s₀ s) : Kept s₀ (holdCancelStep k p s).1 := by
  have hfind := findHold_kept k.req.hold p.working k.now hs
  unfold holdCancelStep
  split
  · next e => exact kept_of_eq hfind e
  · next e => split <;> exact kept_of_eq hfind e
  · next e => exact kept_of_eq hfind e
  · next e => exact kept_of_eq hfind e

theorem cardStatusStep_kept (hs : Kept s₀ s) : Kept s₀ (cardStatusStep k p s).1 := by
  unfold cardStatusStep
  split
  · exact hs
  · exact hs
  · exact hs
  · exact (freeRefs_observed p.working.refs s).kept hs

theorem rowReadStep_kept (hs : Kept s₀ s) : Kept s₀ (rowReadStep k p s).1 := by
  have himage := linkBlock_kept k.req.address p.working.image hs
  unfold rowReadStep
  dsimp only
  split <;> exact himage

theorem imageRow_kept (read : Option CardRow) (img : CardRow) (hs : Kept s₀ s) : Kept s₀ (imageRow k read img s).1 := by
  have hrefs : Kept s₀ (refsHold k.row img.refs s).1 := (refsHold_observed k.row img.refs s).kept hs
  unfold imageRow
  extract_lets a
  have ha : Kept s₀ a.1 := by
    unfold a
    split
    · exact hs
    · split
      · next e => exact kept_of_eq hrefs e
      · next e => exact kept_of_eq hrefs e
  split <;> exact ha

theorem rowWriteStep_kept (hs : Kept s₀ s) : Kept s₀ (rowWriteStep k p s).1 := by
  unfold rowWriteStep
  dsimp only
  split
  · exact hs
  · split
    · exact hs
    · split
      · next e => exact kept_of_eq (imageRow_kept _ _ hs) e
      · next e => exact kept_of_eq (imageRow_kept _ _ hs) e

theorem tillReleaseStep_kept (hs : Kept s₀ s) : Kept s₀ (tillReleaseStep k p s).1 := by
  have hread := readTill_kept k.req.tillIndex hs
  unfold tillReleaseStep
  dsimp only
  split
  · next e => exact kept_of_eq hread e
  · next e => split <;> exact kept_of_eq hread e

theorem programmeWriteStep_kept (hs : Kept s₀ s) : Kept s₀ (programmeWriteStep k p s).1 := by
  unfold programmeWriteStep
  split <;> exact hs

theorem trailReadStep_kept (hs : Kept s₀ s) : Kept s₀ (trailReadStep k p s).1 := by
  unfold trailReadStep
  extract_lets order bytes read raised a
  have hread : Kept s₀ read := foldl_kept (fun u n hu => (readTrail_observed u n).kept hu) _ hs
  have hraised : Kept s₀ raised := by
    unfold raised
    split
    · exact raiseCause_kept _ hread
    · exact hread
  exact linkBlock_kept _ bytes hraised

theorem reverseHold_kept (e : RecentEntry) (hs : Kept s₀ s) : Kept s₀ (reverseHold k e p s).1 := by
  unfold reverseHold
  dsimp only
  split
  · exact hs
  · next ref _ =>
    have hfind := findHold_kept ref p.working k.now hs
    split
    · next e => exact kept_of_eq hfind e
    · next e => split <;> exact kept_of_eq hfind e
    · next e => exact kept_of_eq hfind e
    · next e => exact kept_of_eq hfind e

theorem reverseAnswered_kept (e : RecentEntry) (hs : Kept s₀ s) : Kept s₀ (reverseAnswered k e p s).1 := by
  unfold reverseAnswered
  split
  · split
    case h_5 => exact reverseHold_kept e hs
    all_goals exact hs
  · exact hs

theorem reverseStep_kept (hs : Kept s₀ s) : Kept s₀ (reverseStep k p s).1 := by
  unfold reverseStep
  dsimp only
  split
  · exact hs
  · split
    · exact hs
    · split
      · exact hs
      · split
        · exact hs
        · exact reverseAnswered_kept _ hs

theorem stepSixteen_kept (kd : RequestKind) (k : Work) (p : Plan) (hs : Kept s₀ s) : Kept s₀ (stepSixteen kd k p s).1 := by
  cases kd <;> dsimp only [stepSixteen]
  case balance => exact hs
  case activate => exact activateStep_kept hs
  case load => exact loadStep_kept hs
  case redeem => exact redeemStep_kept hs
  case holdOpen => exact holdOpenStep_kept hs
  case holdRenew => exact holdRenewStep_kept hs
  case holdClose => exact holdCloseStep_kept hs
  case holdCancel => exact holdCancelStep_kept hs
  case reverse => exact reverseStep_kept hs
  case rowWrite => exact rowWriteStep_kept hs
  case rowRead => exact rowReadStep_kept hs
  case cardStatus => exact cardStatusStep_kept hs
  case bonusGrant => exact bonusGrantStep_kept hs
  case tillWrite => exact readTill_kept _ hs
  case tillRelease => exact tillReleaseStep_kept hs
  case ruleWrite => exact hs
  case programmeWrite => exact programmeWriteStep_kept hs
  case laneMode => exact hs
  case clockSet => exact hs
  case trailRead => exact trailReadStep_kept hs
  case quarantineRead => exact linkBlock_kept _ _ hs

theorem runSixteen_kept (w : Nat) (kd : RequestKind) (k : Work) (p : Plan) (hs : Kept s₀ s) : Kept s₀ (runSixteen w kd k p s) := by
  have hsixteen := stepSixteen_kept kd k p hs
  unfold runSixteen
  split
  · next e => exact prepareCommit_kept w k _ (kept_of_eq hsixteen e)
  · next e => exact linkLost_kept (kept_of_eq hsixteen e)

/-! ### Admission -/

theorem declineNow_kept (w : Nat) (k : Work) (r : Reason) (hs : Kept s₀ s) : Kept s₀ (declineNow w k r s) := prepareCommit_kept w k _ hs

theorem onCardRow_kept (w : Nat) (kd : RequestKind) (k : Work) (sel : Selection) (t : Reading) (row : CardRow) (hs : Kept s₀ s) :
    Kept s₀ (onCardRow w kd k sel t row s) := by
  unfold onCardRow
  split
  · exact declineNow_kept w k _ hs
  · dsimp only
    split
    · exact prepareCommit_kept w k _ hs
    · split
      · exact prepareCommit_kept w k _ hs
      · exact runSixteen_kept w kd k _ hs

theorem afterCardLock_kept (w : Nat) (kd : RequestKind) (k : Work) (hs : Kept s₀ s) : Kept s₀ (afterCardLock w kd k s) := by
  have hread := readCard_kept k.row hs
  unfold afterCardLock
  extract_lets t k'
  split
  · exact runSixteen_kept w _ k' _ (readCardUnlessListed_kept _ hs)
  · split
    · next e => exact declineNow_kept w k' _ (kept_of_eq hread e)
    · next e =>
      have hrow := kept_of_eq hread e
      split
      · exact runSixteen_kept w _ k' _ hrow
      · exact onCardRow_kept w _ k' _ t _ hrow
      · exact declineNow_kept w k' _ hrow

theorem takeCardLock_kept (w : Nat) (kd : RequestKind) (k : Work) (hs : Kept s₀ s) : Kept s₀ (takeCardLock w kd k s) := by
  have hlock := requestLock_kept (.card k.row) k.place hs
  unfold takeCardLock
  split
  · next e => exact afterCardLock_kept w kd _ (kept_of_eq hlock e)
  · next e => exact enterPool_kept w k _ (kept_of_eq hlock e)

theorem stepsSevenOn_kept (w : Nat) (kd : RequestKind) (k : Work) (hs : Kept s₀ s) : Kept s₀ (stepsSevenOn w kd k s) := by
  unfold stepsSevenOn
  dsimp only
  split
  · exact declineNow_kept w _ _ hs
  · split
    · exact declineNow_kept w _ _ hs
    · split
      · exact declineNow_kept w _ _ hs
      · split
        · exact declineNow_kept w _ _ hs
        · split
          · exact declineNow_kept w _ _ hs
          · exact takeCardLock_kept w kd _ hs

theorem onTillRow_kept (w : Nat) (kd : RequestKind) (k : Work) (t : TillRow) (hs : Kept s₀ s) : Kept s₀ (onTillRow w kd k t s) := by
  unfold onTillRow
  split
  · exact prepareCommit_kept w k _ hs
  · exact prepareCommit_kept w k _ hs
  · split
    · exact declineNow_kept w k _ hs
    · exact stepsSevenOn_kept w kd k hs

theorem afterTillLock_kept (w : Nat) (kd : RequestKind) (k : Work) (hs : Kept s₀ s) : Kept s₀ (afterTillLock w kd k s) := by
  unfold afterTillLock
  split
  · extract_lets t k'
    have hread := readTill_kept k'.req.tillIndex hs
    split
    · next e => exact declineNow_kept w k' _ (kept_of_eq hread e)
    · next e =>
      split
      · exact onTillRow_kept w kd _ _ (kept_of_eq hread e)
      · exact declineNow_kept w k' _ (kept_of_eq hread e)
  · exact runSixteen_kept w kd k _ hs

theorem takeTillLock_kept (w : Nat) (kd : RequestKind) (k : Work) (hs : Kept s₀ s) : Kept s₀ (takeTillLock w kd k s) := by
  have hlock := requestLock_kept (.till k.req.tillIndex) k.place hs
  unfold takeTillLock
  split
  · next e => exact afterTillLock_kept w kd _ (kept_of_eq hlock e)
  · next e => exact enterPool_kept w k _ (kept_of_eq hlock e)

theorem stepThree_kept (w : Nat) (kd : RequestKind) (k : Work) (hs : Kept s₀ s) : Kept s₀ (stepThree w kd k s) := by
  have hread := readTill_kept k.req.tillIndex hs
  unfold stepThree
  split
  · next e => exact declineNow_kept w k _ (kept_of_eq hread e)
  · next e =>
    split
    · exact takeTillLock_kept w kd k (kept_of_eq hread e)
    · exact declineNow_kept w k _ (kept_of_eq hread e)

theorem stepTwo_kept (w : Nat) (kd : RequestKind) (k : Work) (hs : Kept s₀ s) : Kept s₀ (stepTwo w kd k s) := by
  unfold stepTwo
  split
  · exact declineNow_kept w k _ hs
  · split
    · exact stepThree_kept w kd k hs
    · split
      · exact takeTillLock_kept w kd k hs
      · split
        · exact stepsSevenOn_kept w kd k hs
        · exact runSixteen_kept w kd k _ hs

theorem stepOne_kept (w : Nat) (k : Work) (hs : Kept s₀ s) : Kept s₀ (stepOne w k s) := by
  unfold stepOne
  split
  · exact declineNow_kept w k _ hs
  · split
    · exact stepTwo_kept w _ k hs
    · exact declineNow_kept w k _ hs

theorem beginRequest_kept (row : Req → Bool) (w : Nat) (hs : Kept s₀ s) : Kept s₀ (beginRequest row w s) := by
  unfold beginRequest
  split
  · exact hs
  · split
    · exact stepOne_kept w _ hs
    · exact hs

end

end Sys2Proof.Machine
end

section
/-! PROOFS. What every operation keeps, part 4: jobs, dispatch, answers and appends, STARTING, control and clock; then every command and every
step. -/

namespace Sys2Proof.Machine

section
variable {s₀ s : State}

/-! ### Expiry jobs and resumptions -/

theorem decideJob_kept (hold gen place : Nat) (t : Reading) (row : CardRow) (hs : Kept s₀ s) :
    Kept s₀ (decideJob hold gen place t row s).1 := by
  have hread := readHold_kept hold hs
  unfold decideJob
  split
  · next e => exact kept_of_eq hread e
  · next e =>
    have hrow := kept_of_eq hread e
    repeat' split
    all_goals exact hrow

theorem runJob_kept (w hold gen card : Nat) (k : Work) (hs : Kept s₀ s) : Kept s₀ (runJob w hold gen card k s) := by
  have hread := readCardUnlessListed_kept card hs
  unfold runJob
  dsimp only
  split
  · exact prepareCommit_kept w _ _ hread
  · exact prepareCommit_kept w _ _ (decideJob_kept _ _ _ _ _ hread)

theorem beginJob_kept (w : Nat) (hs : Kept s₀ s) : Kept s₀ (beginJob w s) := by
  unfold beginJob
  split
  · next k _ =>
    split
    · next card _ _ =>
      have hlock := requestLock_kept (.card card) k.place hs
      split
      · next e => exact runJob_kept w _ _ card _ (kept_of_eq hlock e)
      · next e => exact enterPool_kept w k _ (kept_of_eq hlock e)
    · exact hs
  · exact hs

theorem takeReady_kept (w : Nat) (hs : Kept s₀ s) : Kept s₀ (takeReady w s) := by
  unfold takeReady
  split
  · exact hs
  · exact State.setWorker_kept w _ (State.setUnits_sameWorkers_kept rfl hs)

theorem resumeFrom_kept (f : Phase → Bool) (w : Nat) (hs : Kept s₀ s) : Kept s₀ (resumeFrom f w s) := by
  unfold resumeFrom
  split
  · split
    · split
      · exact takeReady_kept w hs
      · exact hs
    · exact hs
  · exact hs

theorem resumeTill_kept (w : Nat) (hs : Kept s₀ s) : Kept s₀ (resumeTill w s) := by
  have hresumed := resumeFrom_kept isGotTill w hs
  unfold resumeTill
  dsimp only
  split
  · split
    · split
      · exact afterTillLock_kept w _ _ hresumed
      · exact hresumed
    · exact hresumed
  · exact hresumed

theorem resumeCard_kept (w : Nat) (hs : Kept s₀ s) : Kept s₀ (resumeCard w s) := by
  have hresumed := resumeFrom_kept isGotCard w hs
  unfold resumeCard
  dsimp only
  split
  · split
    · split
      · exact runJob_kept w _ _ _ _ hresumed
      · exact afterCardLock_kept w _ _ hresumed
      · exact hresumed
    · exact hresumed
  · exact hresumed

theorem roomGranted_kept (w : Nat) (hs : Kept s₀ s) : Kept s₀ (roomGranted w s) := by
  have hgranted := grantBalances_kept hs
  unfold roomGranted
  dsimp only
  split
  · split
    · exact commitWork_kept w _ _ hgranted
    · exact hgranted
  · exact hgranted

theorem trailFreed_kept (w : Nat) (hs : Kept s₀ s) : Kept s₀ (trailFreed w s) := by
  unfold trailFreed
  split
  · split
    · split
      · exact hs
      · exact commitNow_kept w _ _ hs
    · exact hs
  · exact hs

/-! ### Dispatch -/

theorem seekRoom_kept (n : Nat) (hs : Kept s₀ s) : Kept s₀ (seekRoom n s).1 := by
  unfold seekRoom
  split
  · exact hs
  · exact refreshDrained_kept hs

theorem giveJob_kept (w place i : Nat) (h : HoldRow) (hs : Kept s₀ s) : Kept s₀ (giveJob w place i h s) :=
  State.setWorker_kept w _ (State.setHolds_sameBuckets_kept rfl (reserveRoom_kept 1 (reservePlace_kept place hs)))

theorem dueHandout_kept (w : Nat) (hs : Kept s₀ s) : Kept s₀ (dueHandout w s).1 := by
  have hroom := seekRoom_kept 1 hs
  unfold dueHandout
  split
  · exact hs
  · split
    · next e => exact kept_of_eq hroom e
    · next u e =>
      have hsearch := (dueSearch_observed u.holds.due.count u.holds.due.head u).kept (kept_of_eq hroom e)
      split
      · next e => exact kept_of_eq hsearch e
      · next e => exact kept_of_eq hsearch e
      · next e => exact giveJob_kept w _ _ _ (kept_of_eq hsearch e)

theorem clearReady_kept (n : Nat) (hs : Kept s₀ s) : Kept s₀ (clearReady n s) := State.setLaneState_kept n _ hs

theorem advanceLane_kept (n : Nat) (e : LaneEntry) (hs : Kept s₀ s) : Kept s₀ (advanceLane n e s) :=
  look_kept n (State.setLanes_kept (fun h => h) (State.setLaneState_kept n _ (linkPut_kept _ _ hs)))

theorem withdraw_kept (n : Nat) (e : LaneEntry) (hs : Kept s₀ s) : Kept s₀ (withdraw n e s) :=
  State.setNotices_kept _ (advanceLane_kept n e hs)

theorem takeSlot_kept (w place room n : Nat) (e : LaneEntry) (half : List Byte) (hs : Kept s₀ s) :
    Kept s₀ (takeSlot w place room n e half s) :=
  advanceLane_kept n e (State.setWorker_kept w _ (reservePlace_kept place hs))

theorem attemptLane_kept (w n : Nat) (hs : Kept s₀ s) : Kept s₀ (attemptLane w n s).1 := by
  unfold attemptLane
  split
  · exact hs
  · dsimp only
    split
    · exact clearReady_kept n hs
    · next half _ =>
      have hroom := askRoom_kept (takeRoom half) hs
      split
      · exact clearReady_kept n hs
      · split
        · exact withdraw_kept n _ hs
        · split
          · exact hs
          · split
            · next e => exact kept_of_eq hroom e
            · next e => exact takeSlot_kept w _ _ n _ half (kept_of_eq hroom e)

theorem tryLanes_kept (w : Nat) (ns : List Nat) (hs : Kept s₀ s) : Kept s₀ (tryLanes w ns s) := by
  induction ns generalizing s with
  | nil => exact hs
  | cons n ns ih =>
    have hattempt := attemptLane_kept w n hs
    unfold tryLanes
    split
    · next e => exact kept_of_eq hattempt e
    · next e => exact ih (kept_of_eq hattempt e)

theorem dispatchRunning_kept (w : Nat) (hs : Kept s₀ s) : Kept s₀ (dispatchRunning w s) := by
  have hdue := dueHandout_kept w hs
  unfold dispatchRunning
  split
  · split
    · next e => exact kept_of_eq hdue e
    · next e => exact tryLanes_kept w _ (kept_of_eq hdue e)
    · next e => exact linkLost_kept (kept_of_eq hdue e)
  · exact tryLanes_kept w _ hs

theorem dispatchWorker_kept (w : Nat) (hs : Kept s₀ s) : Kept s₀ (dispatchWorker w s) := by
  unfold dispatchWorker
  split
  · split
    · split
      · exact dispatchRunning_kept w hs
      · exact takeReady_kept w hs
    · exact takeReady_kept w hs
    · exact hs
  · exact hs

/-! ### Answers and journal appends -/

theorem writeAnswer_kept (a : HandedAnswer) (hs : Kept s₀ s) : Kept s₀ (writeAnswer a s).1 := by
  unfold writeAnswer
  dsimp only
  split
  · next e => exact kept_of_eq (linkBlock_kept _ _ hs) e
  · next e => exact linkPut_kept _ _ (kept_of_eq (linkBlock_kept _ _ hs) e)

theorem raiseTally_kept (n : Nat) (hs : Kept s₀ s) : Kept s₀ (raiseTally n s) := linkPut_kept _ _ (State.setLaneState_kept n _ hs)

theorem settleTrail_kept (a : HandedAnswer) (v : TrailStatus) (hs : Kept s₀ s) : Kept s₀ (settleTrail a v s) := by
  unfold settleTrail
  split
  · exact hs
  · exact setAnswerStatus_kept _ v hs

theorem finishAnswer_kept (a : HandedAnswer) (hs : Kept s₀ s) : Kept s₀ (finishAnswer a s) := by
  unfold finishAnswer
  split
  · exact hs
  · split
    · exact hs
    · exact finishWork_kept _ _ hs

theorem handleAnswer_kept (a : HandedAnswer) (hs : Kept s₀ s) : Kept s₀ (handleAnswer a s) := by
  unfold handleAnswer
  extract_lets raised
  have hraised : Kept s₀ raised := by
    unfold raised
    split
    · exact raiseCause_kept _ hs
    · exact hs
  have hwritten := writeAnswer_kept a hraised
  split
  · next e =>
    exact finishAnswer_kept a (gatherAnswer_kept _ _ (settleTrail_kept a _ (raiseTally_kept _ (kept_of_eq hwritten e))))
  · next e => exact finishAnswer_kept a (settleTrail_kept a _ (kept_of_eq hwritten e))

theorem writeNextAnswer_kept (lane : Nat) (hs : Kept s₀ s) : Kept s₀ (writeNextAnswer lane s) := by
  unfold writeNextAnswer
  split
  · exact hs
  · exact handleAnswer_kept _ (State.setNotices_kept _ hs)

theorem holdTimerExpires_kept (n : Nat) (hs : Kept s₀ s) : Kept s₀ (holdTimerExpires n s) := by
  unfold holdTimerExpires
  dsimp only
  split
  · split
    · exact raiseCause_kept _ (State.setLaneState_kept n _ hs)
    · exact State.setLaneState_kept n _ hs
  · exact hs

theorem countAppend_kept (q : Queued) (rest : List Queued) (hs : Kept s₀ s) : Kept s₀ (countAppend q rest s) := by
  unfold countAppend
  extract_lets n journal counted tested
  have htested : Kept s₀ tested := testMark_kept (linkPut_kept _ _ (State.setJournal_kept _ hs))
  split
  · exact htested
  · exact setJournalStatus_kept _ _ htested

theorem appendHead_kept (hs : Kept s₀ s) : Kept s₀ (appendHead s) := by
  unfold appendHead
  split
  · exact hs
  · split
    · next e => exact countAppend_kept _ _ (kept_of_eq (linkBlock_kept _ _ hs) e)
    · next e => exact State.setJournal_kept _ (kept_of_eq (linkBlock_kept _ _ hs) e)

theorem appendNext_kept (hs : Kept s₀ s) : Kept s₀ (appendNext s) := by
  unfold appendNext
  split
  · exact appendHead_kept hs
  · exact hs

theorem retryAppend_kept (hs : Kept s₀ s) : Kept s₀ (retryAppend s) := by
  unfold retryAppend
  split
  · exact appendHead_kept hs
  · exact hs

/-! ### STARTING -/

/-- A little-endian field of `n` bytes is below 256 to the `n` (11.1). -/
theorem leNat_lt (bs : List Byte) : leNat bs < 256 ^ bs.length := by
  induction bs with
  | nil => exact Nat.one_pos
  | cons b bs ih =>
    have hb := b.isLt
    rw [leNat, List.length_cons, Nat.pow_succ]
    omega

theorem fieldAt_lt (bs : List Byte) (i n : Nat) : fieldAt bs i n < 256 ^ n :=
  (leNat_lt _).trans_le (Nat.pow_le_pow_right (by decide) (List.length_take_le n _))

/-- The directory that the checks read has a day number of two bytes (11.2). -/
theorem readDirectory_startDay {anchor : Nat} {d : Directory} (h : readDirectory s anchor = .ok d) : d.startDay ≤ Config.lastDay := by
  unfold readDirectory at h
  split at h
  · cases h
  · split at h
    · cases h
    · split at h
      · cases h
      · split at h
        · cases h
        · cases h
          exact Nat.le_of_lt_succ (fieldAt_lt _ _ 2)

/-- A directory that passes its checks has a minute of day in range where it sets the clock (R183, CLOCK_RANGE). -/
theorem checkDirectory_startMinute {d : Directory} {set : Bool} (h : checkDirectory d set = none) (htake : d.clockTake = 1) :
    d.startMinute < 1440 := by
  by_contra hlate
  have hrange : 1439 < d.startMinute := by omega
  simp [checkDirectory, htake, hrange] at h

theorem enterFaulted_kept (c : FaultCode) (hs : Kept s₀ s) : Kept s₀ (enterFaulted c s) := raiseCause_kept _ (State.setControl_kept _ hs)

theorem readHeader_kept (hs : Kept s₀ s) : Kept s₀ (readHeader s).1 := (readHeader_observed s).kept hs

theorem checkPartition_kept (d : Directory) (hs : Kept s₀ s) : Kept s₀ (checkPartition d s).1 := by
  have hread := readHeader_kept hs
  unfold checkPartition
  split
  · exact hs
  · split
    · next e => exact kept_of_eq hread e
    · next e => exact kept_of_eq hread e

theorem clockTake_kept {d : Directory} (hminute : d.clockTake = 1 → d.startMinute < 1440) (hday : d.startDay ≤ Config.lastDay)
    (hs : Kept s₀ s) : Kept s₀ (clockTake d s) := by
  unfold clockTake
  split
  · next htake =>
    extract_lets old first taken
    have htaken : Kept s₀ taken :=
      setClock_inRange_kept (Nat.succ_pos _) (Nat.succ_pos _) (Nat.succ_pos _) (hminute htake) hday hs
    split
    · exact setSweep_kept _ htaken
    · exact followStep_kept _ htaken
  · exact hs

/-- A partition is recorded only where none is (R131). -/
theorem recordPartition_kept (d : Directory) (hs : Kept s₀ s) : Kept s₀ (recordPartition d s) := by
  unfold recordPartition
  split
  · exact hs
  · next hnone =>
    have hheader : Kept s₀ (s.putHeader { s.header with partition := some d.partition }) :=
      State.setStore_kept { StoreKept.refl _ with partition := fun p hp => by cases hnone.symm.trans hp } hs
    exact State.setHolds_sameBuckets_kept rfl (joinPrev_kept _ _ (joinNext_kept _ _ hheader))

theorem examineProgrammes_kept (hs : Kept s₀ s) : Kept s₀ (examineProgrammes s) := by
  unfold examineProgrammes
  refine foldl_kept (fun u n hu => ?_) _ hs
  exact State.setTables_kept (fun h => h) (Sparse.wf_set _ _ _ _) hu

theorem startingSteps_kept {d : Directory} (hminute : d.clockTake = 1 → d.startMinute < 1440) (hday : d.startDay ≤ Config.lastDay)
    (hs : Kept s₀ s) : Kept s₀ (startingSteps d s) := by
  unfold startingSteps
  extract_lets recorded rebuilt
  have hrecorded : Kept s₀ recorded := recordPartition_kept d (clockTake_kept hminute hday hs)
  have hrebuilt : Kept s₀ rebuilt := by
    unfold rebuilt
    split
    · exact rebuildChains_kept hrecorded
    · exact hrecorded
  exact State.setControl_kept _ (examineProgrammes_kept hrebuilt)

theorem runStarting_kept (hs : Kept s₀ s) : Kept s₀ (runStarting s) := by
  unfold runStarting
  split
  · exact enterFaulted_kept _ hs
  · next d hread =>
    have hcheck := checkPartition_kept d (State.setControl_kept { s.control with engineWords := some d.engineWords } hs)
    dsimp only
    split
    · next e => exact enterFaulted_kept _ (kept_of_eq hcheck e)
    · next e =>
      split
      · exact enterFaulted_kept _ (kept_of_eq hcheck e)
      · next hnone =>
        exact startingSteps_kept (checkDirectory_startMinute hnone) (readDirectory_startDay hread) (kept_of_eq hcheck e)

theorem enterStarting_kept (hs : Kept s₀ s) : Kept s₀ (enterStarting s) := by
  unfold enterStarting
  dsimp only
  split
  · exact State.setControl_kept _ hs
  · exact runStarting_kept (State.setControl_kept _ hs)

theorem writeEngineWords_kept (d : Directory) (hs : Kept s₀ s) : Kept s₀ (writeEngineWords d s) := by
  unfold writeEngineWords
  extract_lets tallies written counted c put capability
  have htallies : Kept s₀ tallies := foldl_kept (fun _ _ hu => linkPut_kept _ _ hu) _ hs
  have hcounted : Kept s₀ counted := linkPut_kept _ _ (linkPut_kept _ _ htallies)
  have hcapability : Kept s₀ capability := foldl_kept (fun _ _ hu => linkPut_kept _ _ hu) _ hcounted
  exact linkZero_kept _ _ (linkZero_kept _ _ hcapability)

theorem replaceEnable_kept (e : CauseSet) (hs : Kept s₀ s) : Kept s₀ (replaceEnable e s) := by
  unfold replaceEnable
  dsimp only
  split
  · exact sendMsi_kept (State.setNotices_kept _ hs)
  · exact State.setNotices_kept _ hs

theorem startLanes_wf (es : List LaneEntry) : Sparse.wf {} (startLanes es) = true := by
  unfold startLanes
  exact List.foldlRecOn (motive := fun m : List (Nat × LaneState) => Sparse.wf {} m = true) _ _ rfl fun m hm n _ => Sparse.wf_set _ m n _ hm

theorem enterRunning_kept (d : Directory) (hs : Kept s₀ s) : Kept s₀ (enterRunning d s) :=
  lookAll_kept (replaceEnable_kept _ (State.setControl_kept _
    (writeEngineWords_kept d (State.setLanes_kept (fun _ => startLanes_wf d.lanes) (State.setJournal_kept _ hs)))))

theorem completeStarting_kept (hs : Kept s₀ s) : Kept s₀ (completeStarting s) := by
  unfold completeStarting
  split
  · split
    · exact enterRunning_kept _ hs
    · exact hs
  · exact hs

/-! ### Resets, control and registers -/

theorem engineReset_kept (hs : Kept s₀ s) : Kept s₀ (engineReset s) := by
  have hlanes : Kept s₀ ((dropWork s).setLanes {}) := State.setLanes_kept (fun _ => rfl) (dropWork_kept hs)
  have hstore : Kept s₀ (((dropWork s).setLanes {}).setStore { (dropWork s).store with overflow := false }) :=
    State.setStore_kept { StoreKept.refl _ with } hlanes
  exact State.setControl_kept _ (State.setNotices_kept _ hstore)

theorem endReset_kept (hs : Kept s₀ s) : Kept s₀ (endReset s) := by
  unfold endReset
  split
  · extract_lets control settled raised
    have hsettled : Kept s₀ settled := abandonPending_kept (dropJournal_kept (State.setControl_kept _ hs))
    have hraised : Kept s₀ raised := by
      unfold raised
      split
      · exact hsettled
      · exact raiseCause_kept _ hsettled
    split
    · exact runStarting_kept hraised
    · exact hraised
  · exact hs

theorem endScrub_kept (hs : Kept s₀ s) : Kept s₀ (endScrub s) := by
  unfold endScrub
  split
  · dsimp only
    split
    · exact enterStarting_kept (raiseCause_kept _ hs)
    · exact State.setControl_kept _ (raiseCause_kept _ hs)
  · exact hs

theorem startCommand_kept (hs : Kept s₀ s) : Kept s₀ (startCommand s) := by
  unfold startCommand
  split
  · exact State.setControl_kept _ hs
  · exact enterStarting_kept hs
  · exact enterStarting_kept hs
  · exact State.setControl_kept _ hs

theorem drainCommand_kept (hs : Kept s₀ s) : Kept s₀ (drainCommand s) := by
  unfold drainCommand
  split
  · exact State.setControl_kept _ (State.setLanes_kept (mapLanes_wfAbove _ _ none) hs)
  · exact State.setControl_kept _ hs

theorem controlWrite_kept (v : Word32) (hs : Kept s₀ s) : Kept s₀ (controlWrite v s) := by
  unfold controlWrite
  split
  · exact startCommand_kept hs
  · split
    · exact drainCommand_kept hs
    · split
      · exact engineReset_kept hs
      · exact State.setControl_kept _ hs

theorem endDrain_kept (hs : Kept s₀ s) : Kept s₀ (endDrain s) := by
  unfold endDrain
  split
  · exact raiseCause_kept _ (State.setControl_kept _ hs)
  · exact hs

theorem nudgeAll_kept (hs : Kept s₀ s) : Kept s₀ (nudgeAll s) := by
  unfold nudgeAll
  split
  · exact refreshDrained_kept (lookAll_kept hs)
  · exact refreshDrained_kept hs
  · exact hs

theorem nudgeWrite_kept (v : Word32) (hs : Kept s₀ s) : Kept s₀ (nudgeWrite v s) := by
  unfold nudgeWrite
  split
  · exact nudgeAll_kept hs
  · split
    · exact look_kept _ hs
    · exact hs

theorem readNotice_kept (bytes : BitVec 4) (hs : Kept s₀ s) : Kept s₀ (readNotice bytes s) := by
  unfold readNotice
  split
  · exact hs
  · exact State.setNotices_kept _ (State.setLink_kept id rfl rfl hs)

theorem lookTimerExpires_kept (n : Nat) (hs : Kept s₀ s) : Kept s₀ (lookTimerExpires n s) := by
  unfold lookTimerExpires
  split
  · exact look_kept n hs
  · exact hs

/-! ### The clock -/

theorem State.clockOk_iff (s : State) : s.clockOk = true ↔
    s.clock.phase < 1000 ∧ s.clock.tick < 100000 ∧ s.clock.second < 60 ∧ s.clock.minute < 1440 ∧ s.clock.day ≤ Config.lastDay := by
  simp only [State.clockOk, Bool.and_eq_true, decide_eq_true_eq, and_assoc]

/-- No minute event is made at the last minute index, so the day stays in range (R175). -/
theorem minuteEvent_kept (hs : Kept s₀ s) : Kept s₀ (minuteEvent s) := by
  unfold minuteEvent
  split
  · next hmade =>
    have hlast := hmade.2
    simp only [Clock.now, Config.lastMinuteIndex, Config.minutesPerDay] at hlast
    split
    · next hminute =>
      refine State.setClock_kept (fun h => ?_) hs
      obtain ⟨hphase, htick, hsecond, -, hday⟩ := s.clockOk_iff.mp h
      exact (State.clockOk_iff _).mpr ⟨hphase, htick, hsecond, Nat.succ_lt_succ hminute, hday⟩
    · next hminute =>
      refine State.setClock_kept (fun h => ?_) hs
      obtain ⟨hphase, htick, hsecond, -, hday⟩ := s.clockOk_iff.mp h
      refine (State.clockOk_iff _).mpr ⟨hphase, htick, hsecond, Nat.succ_pos _, ?_⟩
      show s.clock.day + 1 ≤ 65535
      omega
  · exact hs

end

/-! ### What changes anchors or the queue too -/

section
variable {s₀ s : State}

/-- The power-on values are in order, whatever the state was but for host memory and queue (R139, R186). -/
theorem powerOn_canonical (h : s.canonical = true) : (powerOn s).canonical = true := by
  have hreset : State.reset.canonical = true := by decide
  exact (State.canonical_iff _).mpr ⟨(s.canonical_iff.mp h).1, (State.reset.canonical_iff.mp hreset).2⟩

theorem State.reset_quarantineOk : State.reset.quarantineOk := ⟨Nat.zero_le _, List.nodup_nil⟩

theorem State.reset_locksOk : State.reset.locksOk := ⟨Nat.zero_le _, List.nodup_nil, Nat.zero_le _, List.nodup_nil⟩

/-- A link reset keeps all but the anchors (R181, R186). -/
theorem linkResetAll_blocksKept (hs : BlocksKept s₀ s) : BlocksKept s₀ (linkResetAll s) :=
  hs.trans { (engineReset_kept (.refl s)).toBlocksKept with }

/-- A register write keeps all but the anchors (R185). -/
theorem writeRegister_blocksKept (r : Nat × Word32) (hs : BlocksKept s₀ s) : BlocksKept s₀ (writeRegister s r) := by
  unfold writeRegister
  split
  · exact hs.trans { BlocksKept.refl s with }
  · exact hs.trans { BlocksKept.refl s with }
  · exact hs.trans (controlWrite_kept _ (.refl s)).toBlocksKept
  · exact hs.trans (nudgeWrite_kept _ (.refl s)).toBlocksKept
  · exact hs

theorem registerAccess_blocksKept (offset : Nat) (data : List Byte) (hs : BlocksKept s₀ s) :
    BlocksKept s₀ (registerAccess offset data s) :=
  List.foldlRecOn _ _ hs fun _ hu r _ => writeRegister_blocksKept r hu

/-- The lanes' timers one tick on keep the lane table's canonical form, and a count of the chain its range (R174). -/
theorem cycle_canonical (h : s.canonical = true) : (cycle s).canonical = true := by
  obtain ⟨hmem, hlanes, hrest⟩ := s.canonical_iff.mp h
  have hticked : Sparse.wf {} (tickLanes s.lanes.lane) = true := mapLanes_wfAbove _ _ none hlanes
  unfold cycle
  split
  · split
    · exact h
    · unfold tickEvent
      dsimp only
      split
      · exact (State.canonical_iff _).mpr ⟨hmem, hticked, hrest⟩
      · unfold secondEvent
        split <;> exact (State.canonical_iff _).mpr ⟨hmem, hticked, hrest⟩
  · exact h

theorem cycle_clockOk (h : s.clockOk = true) : (cycle s).clockOk = true := by
  obtain ⟨hphase, htick, hsecond, hminute, hday⟩ := s.clockOk_iff.mp h
  unfold cycle
  split
  · split
    · next hnext => exact (State.clockOk_iff _).mpr ⟨Nat.succ_lt_succ hnext, htick, hsecond, hminute, hday⟩
    · unfold tickEvent
      dsimp only
      split
      · next hnext => exact (State.clockOk_iff _).mpr ⟨Nat.succ_pos _, Nat.succ_lt_succ hnext, hsecond, hminute, hday⟩
      · unfold secondEvent
        split
        · next hnext => exact (State.clockOk_iff _).mpr ⟨Nat.succ_pos _, Nat.succ_pos _, Nat.succ_lt_succ hnext, hminute, hday⟩
        · exact (State.clockOk_iff _).mpr ⟨Nat.succ_pos _, Nat.succ_pos _, Nat.succ_pos _, hminute, hday⟩
  · exact h

/-- A cycle changes clock, lanes and queue alone. -/
theorem cycle_store_locks (s : State) : (cycle s).store = s.store ∧ (cycle s).locks = s.locks := by
  unfold cycle
  split
  · split
    · exact ⟨rfl, rfl⟩
    · unfold tickEvent
      dsimp only
      split
      · exact ⟨rfl, rfl⟩
      · unfold secondEvent
        split <;> exact ⟨rfl, rfl⟩
  · exact ⟨rfl, rfl⟩

end

/-! ### Every command, every step -/

section
variable {s : State}

/-- Every command answers a next state. Only a power-on reset, a link reset and a register write may leave other anchors, and a power-on reset keeps
canonical form, clock, list and banks in order by its own values. -/
theorem exec_kept (c : Instr) (s : State) : ∃ t, exec c s = .next t ∧
    ((∃ e, c = .powerOnReset e ∧ t = powerOn (s.outside e)) ∨
    (BlocksKept s t ∧ ((∀ e, c ≠ .linkReset e) → (∀ o d e, c ≠ .registerWrite o d e) → Kept s t))) := by
  have kept : ∀ {t : State}, Kept s t → (∃ e, c = .powerOnReset e ∧ t = powerOn (s.outside e)) ∨
      (BlocksKept s t ∧ ((∀ e, c ≠ .linkReset e) → (∀ o d e, c ≠ .registerWrite o d e) → Kept s t)) :=
    fun h => .inr ⟨h.toBlocksKept, fun _ _ => h⟩
  have hout : ∀ e, Kept s (s.outside e) := s.outside_kept
  cases c with
  | powerOnReset e => exact ⟨_, rfl, .inl ⟨e, rfl, rfl⟩⟩
  | linkReset e => exact ⟨_, rfl, .inr ⟨linkResetAll_blocksKept (hout e).toBlocksKept, fun h => absurd rfl (h e)⟩⟩
  | registerWrite offset data e =>
    exact ⟨_, rfl, .inr ⟨registerAccess_blocksKept offset data (hout e).toBlocksKept, fun _ h => absurd rfl (h offset data e)⟩⟩
  | scrubEnd e => exact ⟨_, rfl, kept (endScrub_kept (hout e))⟩
  | reset e => exact ⟨_, rfl, kept (engineReset_kept (hout e))⟩
  | resetEnd e => exact ⟨_, rfl, kept (endReset_kept (hout e))⟩
  | start e => exact ⟨_, rfl, kept (startCommand_kept (hout e))⟩
  | drain e => exact ⟨_, rfl, kept (drainCommand_kept (hout e))⟩
  | controlUnknownCommand value e => exact ⟨_, rfl, kept (controlWrite_kept value (hout e))⟩
  | nudge value e => exact ⟨_, rfl, kept (nudgeWrite_kept value (hout e))⟩
  | nudge255 e => exact ⟨_, rfl, kept (nudgeAll_kept (hout e))⟩
  | noticeRead bytes e => exact ⟨_, rfl, kept (readNotice_kept bytes (hout e))⟩
  | startingComplete e => exact ⟨_, rfl, kept (completeStarting_kept (hout e))⟩
  | drainComplete e => exact ⟨_, rfl, kept (endDrain_kept (hout e))⟩
  | minuteEvent e => exact ⟨_, rfl, kept (minuteEvent_kept (hout e))⟩
  | sweepMove e => exact ⟨_, rfl, kept (sweepStep_kept (hout e))⟩
  | lookTimerExpiry lane e => exact ⟨_, rfl, kept (lookTimerExpires_kept lane (hout e))⟩
  | noticeHoldExpiry lane e => exact ⟨_, rfl, kept (holdTimerExpires_kept lane (hout e))⟩
  | workerDispatch w e => exact ⟨_, rfl, kept (dispatchWorker_kept w (hout e))⟩
  | resumeAfterTillLock w e => exact ⟨_, rfl, kept (resumeTill_kept w (hout e))⟩
  | resumeAfterCardLock w e => exact ⟨_, rfl, kept (resumeCard_kept w (hout e))⟩
  | balanceRoomGranted w e => exact ⟨_, rfl, kept (roomGranted_kept w (hout e))⟩
  | trailPlaceFreed w e => exact ⟨_, rfl, kept (trailFreed_kept w (hout e))⟩
  | expiryJob w e => exact ⟨_, rfl, kept (beginJob_kept w (hout e))⟩
  | answerWrite lane e => exact ⟨_, rfl, kept (writeNextAnswer_kept lane (hout e))⟩
  | journalAppend e => exact ⟨_, rfl, kept (appendNext_kept (hout e))⟩
  | journalWriteRetry e => exact ⟨_, rfl, kept (retryAppend_kept (hout e))⟩
  | _ w e => exact ⟨_, rfl, kept (beginRequest_kept _ w (hout e))⟩

/-- A predicate on states that the power-on values, what `BlocksKept` relates, and an idle cycle all keep, is kept by every step. -/
theorem step_keeps {I : State → Prop} (hpower : ∀ u, I u → I (powerOn u)) (hblocks : ∀ u v, BlocksKept u v → I u → I v)
    (hcycle : ∀ u, I u → I (cycle u)) (hpending : ∀ u q, I u → I (u.setPending q)) {s t : State} (hs : I s)
    (h : step s = .next t) : I t := by
  unfold step at h
  split at h
  · cases h
    unfold idle
    split
    · exact hpending _ _ hs
    · exact hcycle _ hs
  · next c q _ =>
    have hq : I (s.setPending q) := hpending s q hs
    obtain ⟨u, hnext, ⟨e, -, rfl⟩ | ⟨hkept, -⟩⟩ := exec_kept c (s.setPending q)
    · rw [hnext] at h
      cases h
      exact hpower _ (hblocks _ _ (State.outside_kept _ e).toBlocksKept hq)
    · rw [hnext] at h
      cases h
      exact hblocks _ _ hkept hq

end

/-! ### The statements -/

/-- Settles O5: every operation keeps every table by `exec_kept`, and so do the power-on values and a cycle. -/
theorem stepsKeepTablesCanonical : Obligations.StepsKeepTablesCanonical := by
  unfold Obligations.StepsKeepTablesCanonical
  intro s t hs h
  exact step_keeps (I := fun u => u.canonical = true) (fun _ => powerOn_canonical) (fun _ _ g => g.canonical)
    (fun _ => cycle_canonical) (fun _ _ hu => hu) hs h

/-- Settles O6: as O5, for the clock, the quarantine list and the lock banks. -/
theorem stepsKeepClockQuarantineListAndLocks : Obligations.StepsKeepClockQuarantineListAndLocks := by
  unfold Obligations.StepsKeepClockQuarantineListAndLocks
  refine ⟨fun s t hs h => ?_, fun s t hs h => ?_, fun s t hs h => ?_⟩
  · exact step_keeps (I := fun u => u.clockOk = true) (fun _ _ => rfl) (fun _ _ g => g.clock) (fun _ => cycle_clockOk)
      (fun _ _ hu => hu) hs h
  · refine step_keeps (I := State.quarantineOk) (fun _ _ => State.reset_quarantineOk) (fun _ _ g => g.quarantineOk)
      (fun u hu => ?_) (fun _ _ hu => hu) hs h
    unfold State.quarantineOk
    rw [(cycle_store_locks u).1]
    exact hu
  · refine step_keeps (I := State.locksOk) (fun _ _ => State.reset_locksOk) (fun _ _ g => g.locksOk)
      (fun u hu => ?_) (fun _ _ hu => hu) hs h
    unfold State.locksOk
    rw [(cycle_store_locks u).2]
    exact hu

/-- Settles O8: by `exec_kept`; the power-on reset is the one command that keeps no partition. -/
theorem queueAnchorsAndPartitionChangeOnlyByTheirCommands : Obligations.QueueAnchorsAndPartitionChangeOnlyByTheirCommands := by
  unfold Obligations.QueueAnchorsAndPartitionChangeOnlyByTheirCommands
  intro c s t h
  obtain ⟨u, hnext, hu⟩ := exec_kept c s
  rw [hnext] at h
  cases h
  rcases hu with ⟨e, rfl, rfl⟩ | ⟨hblocks, hkept⟩
  · exact ⟨(s.outside_kept e).pending, fun hne => absurd rfl (hne e)⟩
  · refine ⟨hblocks.pending, fun _ => ⟨fun hlink hregister => ?_, hblocks.store.partition⟩⟩
    exact ⟨(hkept hlink hregister).anchorLow, (hkept hlink hregister).anchorHigh⟩

end Sys2Proof.Machine
end

section
/-! PROOFS. Queue, power-on values, resets and the end of the scrub (spec/10; O1, O3, O4, O9, O11, O12). -/

namespace Sys2Proof.Machine

/-- An outside world that does nothing leaves the state (log 2). -/
theorem State.outside_quiet (s : State) : s.outside .quiet = s := rfl

/-- STARTING begins alike from any engine state. -/
theorem enterStarting_anyEngine (s : State) (x : EngineState) : enterStarting (s.setControl { s.control with engine := x }) = enterStarting s :=
  rfl

/-- What raising a cause leaves alone. -/
theorem raiseCause_notices (c : Cause) (s : State) : (raiseCause c s).notices = { s.notices with raised := s.notices.raised.add c } := by
  obtain ⟨n, h, -⟩ := raiseCause_only c s
  rw [h]
  rfl

theorem raiseCause_control (c : Cause) (s : State) : (raiseCause c s).control = s.control := (raiseCause_observed c s).control

theorem raiseCause_rest (c : Cause) (s : State) :
    { raiseCause c s with notices := s.notices, link := { (raiseCause c s).link with msiSent := s.link.msiSent } } = s := by
  obtain ⟨n, h, -⟩ := raiseCause_only c s
  rw [h]
  rfl

/-- Settles O1: the queue of the state decides the branch of `step`. -/
theorem stepRunsTheFrontCommand : Obligations.StepRunsTheFrontCommand := by
  unfold Obligations.StepRunsTheFrontCommand
  intro c q s h
  unfold step
  rw [h]
  rfl

/-- Settles O3: the power-on values, table by table. -/
theorem resetHoldsTheInvariants : Obligations.ResetHoldsTheInvariants := by
  unfold Obligations.ResetHoldsTheInvariants
  exact ⟨by decide, by decide, State.reset_quarantineOk, State.reset_locksOk, State.reset_tillsOk⟩

/-- Settles O4: every value is a default of the model's structures, and an unlisted row reads as scrubbed. -/
theorem resetValues : Obligations.ResetValues := by
  unfold Obligations.ResetValues
  intro s
  refine ⟨rfl, rfl, rfl, rfl, rfl, fun _ => rfl, rfl, fun _ => ⟨rfl, rfl⟩, fun _ => ⟨rfl, rfl⟩, fun _ => ⟨rfl, rfl⟩, fun _ => rfl, rfl, rfl,
    rfl, fun _ => rfl, rfl, rfl, fun _ => rfl, fun _ => rfl, rfl, fun _ => rfl, rfl, rfl, rfl, rfl, fun _ => rfl, rfl, rfl⟩

/-- An engine reset in one equation (R128, R145, R148, R163, R181, R186). -/
theorem engineReset_eq (s : State) : engineReset s =
    { s with
      units := {}, locks := {}, lanes := {}, holds := { s.holds with hand := [] }
      store := { s.store with overflow := false }
      notices := { raised := {}, enable := { engine := true }, answers := [] }
      control := { s.control with
        engine := if s.control.engine = .scrubbing then .scrubbing else .idle
        startPending := false, controlIgnored := false, resetting := true, starting := none, engineWords := none } } := by
  simp only [engineReset, dropWork, State.setUnits, State.setLocks, State.setHolds, State.setNotices, State.setLanes, State.setStore,
    State.setControl]
  rfl

/-- A link reset is an engine reset that also clears anchors and MSI (R181, R186). -/
theorem linkResetAll_eq (s : State) :
    linkResetAll s = { engineReset s with link := { s.link with anchorLow := 0, anchorHigh := 0, msi := {} } } := rfl

/-- Settles O9: each reset is the updates of its blocks, one after the other. -/
theorem resetsLeaveTheirValues : Obligations.ResetsLeaveTheirValues := by
  unfold Obligations.ResetsLeaveTheirValues
  rintro e s₀ s rfl
  have hengine : exec (.reset e) s₀ = .next (engineReset (s₀.outside e)) := rfl
  have hlink : exec (.linkReset e) s₀ = .next (linkResetAll (s₀.outside e)) := rfl
  have hpower : exec (.powerOnReset e) s₀ = .next (powerOn (s₀.outside e)) := rfl
  rw [hengine, hlink, hpower]
  generalize s₀.outside e = s
  rw [linkResetAll_eq, engineReset_eq]
  exact ⟨⟨rfl, rfl⟩, rfl⟩

/-- Settles O11: by the engine state and, in SCRUBBING, by start-pending. -/
theorem scrubEndEntersIdleOrStarting : Obligations.ScrubEndEntersIdleOrStarting := by
  unfold Obligations.ScrubEndEntersIdleOrStarting
  rintro e s₀ s rfl
  have hexec : exec (.scrubEnd e) s₀ = .next (endScrub (s₀.outside e)) := rfl
  generalize s₀.outside e = s at hexec ⊢
  rw [hexec]
  -- the state with ENGINE raised and the engine in IDLE
  have hidle : ∀ t, t = (raiseCause .engine s).setControl { (raiseCause .engine s).control with engine := .idle } →
      t.control = { s.control with engine := .idle } ∧ t.notices = { s.notices with raised := s.notices.raised.add .engine } ∧
      { t with control := s.control, notices := s.notices, link := { t.link with msiSent := s.link.msiSent } } = s := by
    rintro t rfl
    refine ⟨by rw [State.setControl_control, raiseCause_control], raiseCause_notices _ s, ?_⟩
    have hrest := raiseCause_rest .engine s
    rw [← raiseCause_control .engine s]
    exact hrest
  refine ⟨fun hne => ?_, fun hscrub hpend => ?_, fun hscrub hpend => ?_⟩
  · rw [endScrub, if_neg hne]
  · refine ⟨_, rfl, hidle _ ?_⟩
    simp only [endScrub, if_pos hscrub, raiseCause_control, hpend, Bool.false_eq_true, if_false]
  · obtain ⟨hcontrol, hnotices, hrest⟩ := hidle _ rfl
    refine ⟨_, hcontrol, hnotices, hrest, ?_⟩
    have hstart : exec (.start .quiet) ((raiseCause .engine s).setControl { (raiseCause .engine s).control with engine := .idle }) =
        .next (enterStarting (raiseCause .engine s)) := rfl
    rw [hstart, endScrub, if_pos hscrub]
    simp only [raiseCause_control, hpend, if_true]

/-- Settles O12: by the engine state, and by the value written. -/
theorem controlWritesPendOrAreIgnored : Obligations.ControlWritesPendOrAreIgnored := by
  unfold Obligations.ControlWritesPendOrAreIgnored
  rintro v e s₀ s rfl
  have hstart : exec (.start e) s₀ = .next (startCommand (s₀.outside e)) := rfl
  have hdrain : exec (.drain e) s₀ = .next (drainCommand (s₀.outside e)) := rfl
  have hother : exec (.controlUnknownCommand v e) s₀ = .next (controlWrite v (s₀.outside e)) := rfl
  rw [hstart, hdrain, hother]
  generalize s₀.outside e = s
  refine ⟨fun hscrub => ?_, fun hbusy => ?_, fun hnot => ?_, fun h1 h2 h3 => ?_⟩
  · simp only [startCommand, hscrub]
    rfl
  · have hignored : startCommand s = ignoreControl s := by
      rcases hbusy with h | h | h <;> simp only [startCommand, h]
    rw [hignored]
    rfl
  · rw [drainCommand, if_neg hnot]
    rfl
  · rw [controlWrite, if_neg h1, if_neg h2, if_neg h3]
    rfl

end Sys2Proof.Machine
end

section
/-! PROOFS. Timers, the minute event, and the dispatch of a ready entry (spec/06, 6.1; spec/08; spec/10, 10.1; O20, O21, O23). -/

namespace Sys2Proof.Machine

/-- A look at an OPEN lane of the table in RUNNING (R150, R151). -/
theorem look_open {n : Nat} {l : LaneEntry} {s : State} (hentry : s.laneEntry n = some l) (hrun : s.control.engine = .running)
    (hopen : (s.laneState n).isOpen = true) : look n s = s.setLaneState n (s.lookedAt n l) := by
  rw [look, hentry]
  dsimp only
  rw [if_pos ⟨hrun, hopen⟩]
  rfl

theorem State.laneState_setLaneState_same (s : State) (n : Nat) (l : LaneState) : (s.setLaneState n l).laneState n = l :=
  Sparse.get_set_same ..

theorem State.laneState_setLaneState_other (s : State) {n m : Nat} (l : LaneState) (h : m ≠ n) :
    (s.setLaneState n l).laneState m = s.laneState m :=
  Sparse.get_set_other _ _ _ h

/-- Settles O20: by whether the timer runs. -/
theorem timersExpire : Obligations.TimersExpire := by
  unfold Obligations.TimersExpire
  rintro e s₀ s n rfl
  have hlook : exec (.lookTimerExpiry n e) s₀ = .next (lookTimerExpires n (s₀.outside e)) := rfl
  have hhold : exec (.noticeHoldExpiry n e) s₀ = .next (holdTimerExpires n (s₀.outside e)) := rfl
  rw [hlook, hhold]
  generalize s₀.outside e = s
  refine ⟨fun l hentry hrun hopen htimer => ?_, fun hstopped => ?_, fun htimer => ⟨_, rfl, ?_⟩, fun hstopped => ?_⟩
  · rw [lookTimerExpires, if_pos htimer, look_open hentry hrun hopen]
  · rw [lookTimerExpires, hstopped]
    rfl
  · have hlanes : ∀ t, (t = s.setLaneState n { s.laneState n with pendingAnswers := 0, holdTimer := none } ∨
        t = raiseCause .answers (s.setLaneState n { s.laneState n with pendingAnswers := 0, holdTimer := none })) →
        t.lanes = (s.setLaneState n { s.laneState n with pendingAnswers := 0, holdTimer := none }).lanes := by
      rintro t (rfl | rfl)
      · rfl
      · exact (raiseCause_observed _ _).lanes
    have hstate : ∀ t : State, t.lanes = (s.setLaneState n { s.laneState n with pendingAnswers := 0, holdTimer := none }).lanes →
        t.laneState n = { s.laneState n with pendingAnswers := 0, holdTimer := none } ∧ ∀ m, m ≠ n → t.laneState m = s.laneState m := by
      intro t ht
      constructor
      · rw [State.laneState, ht]
        exact State.laneState_setLaneState_same ..
      · intro m hm
        rw [State.laneState, ht]
        exact State.laneState_setLaneState_other s _ hm
    simp only [holdTimerExpires, htimer, if_true]
    split
    · obtain ⟨hsame, hothers⟩ := hstate _ (hlanes _ (.inr rfl))
      refine ⟨hsame, hothers, raiseCause_notices _ _, ?_⟩
      obtain ⟨m, h, -⟩ := raiseCause_only .answers (s.setLaneState n { s.laneState n with pendingAnswers := 0, holdTimer := none })
      rw [h]
      rfl
    · obtain ⟨hsame, hothers⟩ := hstate _ (hlanes _ (.inl rfl))
      exact ⟨hsame, hothers, rfl, rfl⟩
  · rw [holdTimerExpires]
    simp only [hstopped, Option.isSome_none, Bool.false_eq_true, if_false]

/-- Settles O21: by the minute of day, which is 1439 or below it. -/
theorem minuteEventAdvancesTheClock : Obligations.MinuteEventAdvancesTheClock := by
  unfold Obligations.MinuteEventAdvancesTheClock
  rintro e s₀ s rfl hok
  have hexec : exec (.minuteEvent e) s₀ = .next (minuteEvent (s₀.outside e)) := rfl
  rw [hexec]
  generalize s₀.outside e = s at hok ⊢
  obtain ⟨-, -, -, hminute, -⟩ := s.clockOk_iff.mp hok
  refine ⟨fun hset hnow => ⟨_, rfl, ?_⟩, fun hnone => ?_⟩
  · rw [minuteEvent, if_pos ⟨hset, hnow⟩]
    split
    · next hlt =>
      have hne : s.clock.minute ≠ 1439 := by omega
      refine ⟨(Nat.add_assoc _ _ _).symm, (Nat.mod_eq_of_lt (Nat.succ_lt_succ hlt)).symm, ?_, rfl, rfl⟩
      rw [if_neg hne]
      rfl
    · next hlt =>
      have hlast : s.clock.minute = 1439 := by omega
      refine ⟨?_, by rw [hlast]; rfl, by rw [if_pos hlast]; rfl, rfl, rfl⟩
      simp only [Clock.now, State.setClock_clock, hlast, Config.minutesPerDay]
      omega
  · rw [minuteEvent, if_neg]
    rintro ⟨hset, hnow⟩
    rcases hnone with h | h
    · simp [h] at hset
    · exact absurd hnow (by rw [h]; decide)

theorem State.worker_setWorker_same (s : State) (w : Nat) (v : Option Work) : (s.setWorker w v).worker w = v := Sparse.get_set_same ..

theorem State.worker_setWorker_other (s : State) {w v : Nat} (x : Option Work) (h : v ≠ w) : (s.setWorker w x).worker v = s.worker v :=
  Sparse.get_set_other _ _ _ h

/-- The oldest ready entry goes to its worker (R114). -/
theorem takeReady_some {w : Nat} {k : Work} {r : List Work} {s : State} (h : s.units.ready = k :: r) :
    takeReady w s = (s.setUnits { s.units with ready := r }).setWorker w (some k) := by
  simp only [takeReady, h]

/-- With no ready entry nothing is taken. -/
theorem takeReady_none {w : Nat} {s : State} (h : s.units.ready = []) : takeReady w s = s := by simp only [takeReady, h]

/-- A FREE worker takes the oldest ready entry in RUNNING and DRAINING (R114, R115). -/
theorem dispatchWorker_ready {w : Nat} {k : Work} {r : List Work} {s : State} (hw : w < 8) (hfree : s.worker w = none)
    (hengine : s.control.engine = .running ∨ s.control.engine = .draining) (h : s.units.ready = k :: r) :
    dispatchWorker w s = (s.setUnits { s.units with ready := r }).setWorker w (some k) := by
  rw [dispatchWorker, if_pos ⟨hw, hfree⟩]
  rcases hengine with he | he <;> simp only [he, h, List.isEmpty_cons, Bool.false_eq_true, if_false, takeReady_some h]

/-- Settles O23: by the worker, the engine state and the ready queue. -/
theorem dispatchTakesTheOldestReadyEntry : Obligations.DispatchTakesTheOldestReadyEntry := by
  unfold Obligations.DispatchTakesTheOldestReadyEntry
  rintro w e s₀ s rfl hw
  have hexec : exec (.workerDispatch w e) s₀ = .next (dispatchWorker w (s₀.outside e)) := rfl
  rw [hexec]
  generalize s₀.outside e = s
  refine ⟨fun k r hfree hengine hready => ⟨_, rfl, ?_⟩, fun hidle => ?_⟩
  · rw [dispatchWorker_ready hw hfree hengine hready]
    exact ⟨State.worker_setWorker_same .., fun v hv => State.worker_setWorker_other _ _ hv, rfl, rfl, rfl⟩
  · rw [dispatchWorker]
    split
    · next h =>
      rcases hidle with hbusy | ⟨hrun, hdrain⟩ | ⟨hdrain, hempty⟩
      · exact absurd h.2 hbusy
      · split
        · next he => exact absurd he hrun
        · next he => exact absurd he hdrain
        · rfl
      · simp only [hdrain, takeReady_none hempty]
    · rfl

end Sys2Proof.Machine
end

section
/-! PROOFS. Little-endian fields (11.1), the register window and notice reads (spec/10, 10.3; 11.6; O17, O18). -/

namespace Sys2Proof.Machine

/-! ### Little-endian bytes -/

theorem leNat_append (a b : List Byte) : leNat (a ++ b) = leNat a + 256 ^ a.length * leNat b := by
  induction a with
  | nil => simp [leNat]
  | cons x a ih =>
    rw [List.cons_append, leNat, leNat, ih, List.length_cons, Nat.pow_succ]
    ring

theorem leNat_zeros (n : Nat) : leNat (List.replicate n 0) = 0 := by
  induction n with
  | zero => rfl
  | succ n ih =>
    rw [List.replicate_succ, leNat, ih]
    rfl

/-- Bytes placed at an offset, 0 before and behind them. -/
theorem leNat_placed (o k : Nat) (data : List Byte) :
    leNat (List.replicate o 0 ++ data ++ List.replicate k 0) = leNat data * 256 ^ o := by
  rw [List.append_assoc, leNat_append, leNat_zeros, leNat_append, leNat_zeros, List.length_replicate]
  ring

/-! ### Which registers an access writes -/

/-- The four bytes an access writes in the register at a window offset. -/
def registerBytes (offset : Nat) (data : List Byte) (r : Nat) : List (Option Byte) :=
  (List.range 4).map (fun i => writtenByte offset data (r + i))

/-- The write an access makes of the register at a window offset, when it touches it. -/
def registerWriteAt (offset : Nat) (data : List Byte) (r : Nat) : Option (Nat × Word32) :=
  if (registerBytes offset data r).any Option.isSome then
    some (r, BitVec.ofNat 32 (leNat ((registerBytes offset data r).map (·.getD 0))))
  else none

theorem registerWrites_eq (offset : Nat) (data : List Byte) :
    registerWrites offset data = registerOffsets.filterMap (registerWriteAt offset data) := rfl

theorem writtenByte_eq_none {offset : Nat} {data : List Byte} {i : Nat} (h : i < offset ∨ offset + data.length ≤ i) :
    writtenByte offset data i = none := by
  unfold writtenByte
  split
  · rfl
  · exact List.getElem?_eq_none (by omega)

/-- An access that does not reach a register writes nothing in it. -/
theorem registerWriteAt_none {offset : Nat} {data : List Byte} {r : Nat} (h : r + 4 ≤ offset ∨ offset + data.length ≤ r) :
    registerWriteAt offset data r = none := by
  unfold registerWriteAt
  rw [if_neg]
  simp only [registerBytes, List.any_map, List.any_eq_true, List.mem_range, not_exists, not_and, Function.comp_apply]
  intro i hi
  rw [writtenByte_eq_none (by omega)]
  decide

/-- Two accesses that write the same bytes in a register make the same write of it. -/
theorem registerWriteAt_congr {o p : Nat} {a b : List Byte} {r : Nat}
    (h : ∀ i, i < 4 → writtenByte o a (r + i) = writtenByte p b (r + i)) : registerWriteAt o a r = registerWriteAt p b r := by
  have hbytes : registerBytes o a r = registerBytes p b r := List.map_congr_left fun i hi => h i (List.mem_range.mp hi)
  rw [registerWriteAt, registerWriteAt, hbytes]

/-- An access within one register writes its bytes at their place, 0 in the others (R189). -/
theorem registerWriteAt_within {o : Nat} {data : List Byte} (r : Nat) (hlen : o + data.length ≤ 4) (hdata : data ≠ []) :
    registerWriteAt (r + o) data r = some (r, BitVec.ofNat 32 (leNat data * 256 ^ o)) := by
  have hpos : 0 < data.length := List.length_pos_iff.mpr hdata
  have hplaced : (registerBytes (r + o) data r).map (·.getD 0) =
      List.replicate o 0 ++ data ++ List.replicate (4 - o - data.length) 0 := by
    refine List.ext_getElem (by simp [registerBytes]; omega) fun i hi _ => ?_
    simp only [registerBytes, List.length_map, List.length_range] at hi
    simp only [registerBytes, List.getElem_map, List.getElem_range, writtenByte, List.getElem_append, List.length_append,
      List.length_replicate, List.getElem_replicate]
    by_cases hbefore : i < o
    · simp [hbefore, show i < o + data.length by omega, show r + i < r + o by omega]
    · by_cases hwithin : i < o + data.length
      · simp [hbefore, hwithin, show ¬ r + i < r + o by omega, show r + i - (r + o) = i - o by omega,
          List.getElem?_eq_getElem (show i - o < data.length by omega)]
      · simp [hwithin, show ¬ r + i < r + o by omega, show r + i - (r + o) = i - o by omega,
          List.getElem?_eq_none (show data.length ≤ i - o by omega)]
  unfold registerWriteAt
  rw [hplaced, leNat_placed, if_pos]
  simp only [registerBytes, List.any_map, List.any_eq_true, List.mem_range, Function.comp_apply]
  exact ⟨o, by omega, by simp [writtenByte, List.getElem?_eq_getElem hpos]⟩

theorem filterMap_of_only {α β : Type} {f : α → Option β} {l : List α} {a : α} {x : β} (hl : l.Nodup) (ha : a ∈ l) (hx : f a = some x)
    (hnone : ∀ b, b ≠ a → b ∈ l → f b = none) : l.filterMap f = [x] := by
  induction l with
  | nil => cases ha
  | cons b l ih =>
    obtain ⟨hb, hl⟩ := List.nodup_cons.mp hl
    by_cases hba : b = a
    · subst hba
      rw [List.filterMap_cons_some hx, List.filterMap_eq_nil_iff.mpr]
      exact fun c hc => hnone c (fun e => hb (e ▸ hc)) (List.mem_cons_of_mem _ hc)
    · rw [List.filterMap_cons_none (hnone b hba List.mem_cons_self)]
      exact ih hl ((List.mem_cons.mp ha).resolve_left (Ne.symm hba)) fun c hc hcl => hnone c hc (List.mem_cons_of_mem _ hcl)

theorem registerOffsets_aligned : ∀ r ∈ registerOffsets, r % 4 = 0 ∧ r < 0x18 := by decide

/-- An access within one register makes one write. -/
theorem registerWrites_within {o r : Nat} {data : List Byte} (hr : r ∈ registerOffsets) (hlen : o + data.length ≤ 4)
    (hdata : data ≠ []) : registerWrites (r + o) data = [(r, BitVec.ofNat 32 (leNat data * 256 ^ o))] := by
  rw [registerWrites_eq]
  refine filterMap_of_only (by decide) hr (registerWriteAt_within r hlen hdata) fun q hne hq => registerWriteAt_none ?_
  have hq4 := (registerOffsets_aligned q hq).1
  have hr4 := (registerOffsets_aligned r hr).1
  omega

/-- An access behind the last register makes none. -/
theorem registerWrites_behind (o : Nat) (data : List Byte) : registerWrites (0x18 + o) data = [] := by
  rw [registerWrites_eq, List.filterMap_eq_nil_iff]
  intro r hr
  have hr4 := registerOffsets_aligned r hr
  exact registerWriteAt_none (by omega)

/-- A list in rising order filtered by one function below a bound and by another from it on. -/
theorem filterMap_cut {β : Type} {f g h : Nat → Option β} (b : Nat) {l : List Nat} (hl : l.Pairwise (· ≤ ·))
    (hlow : ∀ r ∈ l, r < b → f r = g r ∧ h r = none) (hhigh : ∀ r ∈ l, b ≤ r → f r = h r ∧ g r = none) :
    l.filterMap f = l.filterMap g ++ l.filterMap h := by
  induction l with
  | nil => rfl
  | cons r l ih =>
    obtain ⟨hr, hl⟩ := List.pairwise_cons.mp hl
    have hrest := ih hl (fun q hq => hlow q (List.mem_cons_of_mem _ hq)) (fun q hq => hhigh q (List.mem_cons_of_mem _ hq))
    rcases Nat.lt_or_ge r b with hlt | hge
    · obtain ⟨hf, hh⟩ := hlow r List.mem_cons_self hlt
      rw [List.filterMap_cons_none hh]
      cases hg : g r with
      | none => rw [List.filterMap_cons_none hg, List.filterMap_cons_none (hf.trans hg), hrest]
      | some x => rw [List.filterMap_cons_some hg, List.filterMap_cons_some (hf.trans hg), hrest, List.cons_append]
    · have hnone : (r :: l).filterMap g = [] := List.filterMap_eq_nil_iff.mpr fun q hq => by
        refine (hhigh q hq ?_).2
        rcases List.mem_cons.mp hq with rfl | hql
        · exact hge
        · exact hge.trans (hr q hql)
      rw [hnone, List.nil_append]
      exact List.filterMap_congr fun q hq => by
        refine (hhigh q hq ?_).1
        rcases List.mem_cons.mp hq with rfl | hql
        · exact hge
        · exact hge.trans (hr q hql)

/-- An access cut at a register boundary makes the writes of its lower part and then those of its upper part (R189). -/
theorem registerWrites_cut {o b : Nat} {data : List Byte} (hb : b % 4 = 0) (hlow : o < b) (hhigh : b < o + data.length) :
    registerWrites o data = registerWrites o (data.take (b - o)) ++ registerWrites b (data.drop (b - o)) := by
  have htake : (data.take (b - o)).length = b - o := List.length_take_of_le (by omega)
  simp only [registerWrites_eq]
  refine filterMap_cut b (by decide) (fun r hr hrb => ?_) (fun r hr hrb => ?_)
  · have hr4 := (registerOffsets_aligned r hr).1
    refine ⟨registerWriteAt_congr fun i hi => ?_, registerWriteAt_none (by omega)⟩
    unfold writtenByte
    split
    · rfl
    · rw [List.getElem?_take_of_lt (by omega)]
  · refine ⟨registerWriteAt_congr fun i hi => ?_, registerWriteAt_none (by omega)⟩
    unfold writtenByte
    rw [if_neg (by omega), if_neg (by omega), List.getElem?_drop]
    congr 1
    omega

/-! ### The statement on register writes -/

theorem registerAccess_within {o r : Nat} {data : List Byte} (s : State) (hr : r ∈ registerOffsets) (hlen : o + data.length ≤ 4)
    (hdata : data ≠ []) : registerAccess (r + o) data s = writeRegister s (r, BitVec.ofNat 32 (leNat data * 256 ^ o)) := by
  rw [registerAccess, registerWrites_within hr hlen hdata]
  rfl

theorem registerAccess_cut {o b : Nat} {data : List Byte} (s : State) (hb : b % 4 = 0) (hlow : o < b) (hhigh : b < o + data.length) :
    registerAccess o data s = registerAccess b (data.drop (b - o)) (registerAccess o (data.take (b - o)) s) := by
  rw [registerAccess, registerWrites_cut hb hlow hhigh, List.foldl_append]
  rfl

theorem exec_registerWrite (o : Nat) (data : List Byte) (e : Outside) (s : State) :
    exec (.registerWrite o data e) s = .next (registerAccess o data (s.outside e)) := rfl

/-- A control write is the command of its value (R181). -/
theorem exec_controlWrite (v : Word32) (e : Outside) (s : State) :
    exec (if v = 1 then .start e else if v = 2 then .drain e else if v = 3 then .reset e else .controlUnknownCommand v e) s =
      .next (controlWrite v (s.outside e)) := by
  unfold controlWrite
  split
  · rfl
  · split
    · rfl
    · split
      · rfl
      · next h1 h2 h3 =>
        show Host.Outcome.next (controlWrite v (s.outside e)) = _
        rw [controlWrite, if_neg h1, if_neg h2, if_neg h3]

/-- A nudge write of 255 is the nudge of every lane (R151). -/
theorem exec_nudgeWrite (v : Word32) (e : Outside) (s : State) :
    exec (if v = 255 then .nudge255 e else .nudge v e) s = .next (nudgeWrite v (s.outside e)) := by
  unfold nudgeWrite
  split
  · next h =>
    subst h
    rfl
  · next h =>
    have hv : v.toNat ≠ 255 := fun hv => h (BitVec.eq_of_toNat_eq hv)
    show Host.Outcome.next (nudgeWrite v (s.outside e)) = _
    rw [nudgeWrite, if_neg hv]

/-- Settles O17: an access within a register makes its one write, an access at a boundary is cut there. -/
theorem registerWritesByTheMap : Obligations.RegisterWritesByTheMap := by
  unfold Obligations.RegisterWritesByTheMap
  rintro e s₀ s o data rfl hdata
  refine ⟨fun hlen => ⟨?_, ?_, ?_, ?_, ?_, ?_⟩, ?_, fun h8 => ?_, fun b hb hlow hhigh => ⟨_, rfl, ?_⟩⟩
  · rw [exec_registerWrite, registerAccess_within _ (by decide) hlen hdata]
    rfl
  · rw [exec_registerWrite, registerAccess_within _ (by decide) hlen hdata]
    rfl
  · rw [exec_registerWrite, registerAccess_within _ (by decide) hlen hdata, exec_controlWrite]
    rfl
  · rw [exec_registerWrite, registerAccess_within _ (by decide) hlen hdata]
    rfl
  · rw [exec_registerWrite, registerAccess_within _ (by decide) hlen hdata, exec_nudgeWrite]
    rfl
  · rw [exec_registerWrite, registerAccess_within _ (by decide) hlen hdata]
    rfl
  · rw [exec_registerWrite, registerAccess, registerWrites_behind]
    rfl
  · have hlow : (data.take 4).length = 4 := List.length_take_of_le (by omega)
    have hhigh : (data.drop 4).length = 4 := by rw [List.length_drop, h8]
    rw [exec_registerWrite, registerAccess_cut _ (b := 4) (by decide) (by decide) (by omega),
      registerAccess_within (r := 0) (o := 0) _ (by decide) (by simp [hlow]) (List.ne_nil_of_length_eq_add_one hlow),
      registerAccess_within (r := 4) (o := 0) _ (by decide) (by simp [hhigh]) (List.ne_nil_of_length_eq_add_one hhigh)]
    simp only [Nat.pow_zero, Nat.mul_one]
    rfl
  · rw [exec_registerWrite, registerAccess_cut _ hb hlow hhigh]
    rfl

/-! ### Notice reads -/

/-- The number of a cause in a bit set (11.1). -/
def Cause.number : Cause → Nat
  | .answers => 0 | .journal => 1 | .till => 2 | .store => 3 | .engine => 4

/-- A set of one cause is the bit set with that cause's bit. -/
theorem Cause.number_of_single {c : Cause} {n : Nat} (hn : n < 5) (h : ({} : CauseSet).add c = CauseSet.ofBits (BitVec.ofNat 8 (2 ^ n))) :
    n = c.number := by
  have hall : ∀ n < 5, ({} : CauseSet).add c = CauseSet.ofBits (BitVec.ofNat 8 (2 ^ n)) → n = c.number := by
    cases c <;> decide
  exact hall n hn h

/-- The bits of a set as the notice register shows them (11.6). -/
theorem CauseSet.bits_getLsbD (r : CauseSet) (c : Cause) : (BitVec.ofNat 32 r.bits).getLsbD c.number = r.mem c := by
  obtain ⟨a, j, t, s, e⟩ := r
  cases c <;> revert a j t s e <;> decide

theorem CauseSet.mem_add (r : CauseSet) (c : Cause) : (r.add c).mem c = true := by cases c <;> rfl

theorem CauseSet.anyEnabled_empty (e : CauseSet) : ({} : CauseSet).anyEnabled e = false := by simp [CauseSet.anyEnabled]

theorem CauseSet.anyEnabled_single (c : Cause) (e : CauseSet) : (({} : CauseSet).add c).anyEnabled e = e.mem c := by
  cases c <;> simp [CauseSet.anyEnabled, CauseSet.add, CauseSet.mem]

/-- Raising the first cause of an empty set sends an MSI when it is enabled (R179). -/
theorem raiseCause_msiSent_of_empty (c : Cause) {t : State} (h : t.notices.raised = {}) :
    (raiseCause c t).link.msiSent = t.link.msiSent ++
      (if t.notices.enable.mem c && t.link.msi.enabled then [(t.link.msi.address, t.link.msi.data)] else []) := by
  simp only [raiseCause, h, CauseSet.anyEnabled_empty, CauseSet.anyEnabled_single, Bool.not_false, Bool.true_and]
  cases t.notices.enable.mem c with
  | false => simp
  | true =>
    cases hmsi : t.link.msi.enabled with
    | false => simp [sendMsi, hmsi]
    | true => simp [sendMsi, hmsi]

/-- A read of some bytes of the notice register (R180, R189). -/
theorem readNotice_eq {b : BitVec 4} (hb : b ≠ 0) (s : State) : readNotice b s =
    { s with
      link := { s.link with readData := BitVec.ofNat 32 (if b.getLsbD 0 then s.notices.raised.bits else 0) }
      notices := { s.notices with raised := {} } } := by
  rw [readNotice, if_neg hb]
  rfl

/-- Settles O18: the read by `readNotice_eq`, the raises before and after it by the bit that stands for a cause. -/
theorem noticeReadReturnsAndEmptiesTheRaisedSet : Obligations.NoticeReadReturnsAndEmptiesTheRaisedSet := by
  unfold Obligations.NoticeReadReturnsAndEmptiesTheRaisedSet
  rintro b e s₀ s rfl hb
  have hexec : ∀ x u, exec (.noticeRead b x) u = .next (readNotice b (u.outside x)) := fun _ _ => rfl
  refine ⟨_, hexec e s₀, ?_⟩
  rw [readNotice_eq hb]
  generalize hs : s₀.outside e = s
  refine ⟨?_, rfl, rfl, fun c n hsingle hn => ⟨⟨_, hexec _ _, ?_⟩, raiseCause_notices c _, raiseCause_msiSent_of_empty c rfl⟩,
    fun data hdata => ?_⟩
  · dsimp only
    split <;> rfl
  · rw [State.outside_quiet, readNotice_eq hb]
    refine ⟨?_, rfl⟩
    rw [raiseCause_notices, Cause.number_of_single hn hsingle]
    dsimp only
    cases b.getLsbD 0 with
    | false => simp
    | true => simp only [if_true, CauseSet.bits_getLsbD, CauseSet.mem_add]
  · rw [exec_registerWrite, hs, show (0x14 : Nat) = 0x14 + 0 from rfl,
      registerAccess_within _ (by decide) (by omega) (List.ne_nil_of_length_eq_add_one hdata)]
    rfl

end Sys2Proof.Machine
end

section
/-! PROOFS. Tables of lanes changed one by one, drain, the reference cycle and the sweep's move (spec/04, 4.5; spec/06, 6.5; spec/10, 10.1; O2, O15,
O22). -/

namespace Sys2Proof.Machine

/-! ### Reading a canonical table -/

section
variable {α : Type} [DecidableEq α] {d : α}

/-- A canonical table lists numbers above its bound alone. -/
theorem Sparse.lt_of_mem {m : List (Nat × α)} {lo n : Nat} {x : α} (h : Sparse.wfAbove d (some lo) m = true) (hx : (n, x) ∈ m) :
    lo < n := by
  induction m generalizing lo with
  | nil => cases hx
  | cons p m ih =>
    obtain ⟨j, y⟩ := p
    simp only [Sparse.wfAbove, Bool.and_eq_true, decide_eq_true_eq] at h
    rcases List.mem_cons.mp hx with heq | hmem
    · cases heq
      exact h.1.1
    · exact h.1.1.trans (ih h.2 hmem)

omit [DecidableEq α] in
/-- What a read finds and no default is listed. -/
theorem Sparse.mem_of_get {m : List (Nat × α)} {n : Nat} {x : α} (h : Sparse.get d m n = x) (hx : x ≠ d) : (n, x) ∈ m := by
  induction m with
  | nil => exact absurd h.symm hx
  | cons p m ih =>
    obtain ⟨j, y⟩ := p
    unfold Sparse.get at h
    split at h
    · next hj =>
      subst hj h
      exact List.mem_cons_self
    · exact List.mem_cons_of_mem _ (ih h)

/-- A canonical table holds the default at and below its bound. -/
theorem Sparse.get_of_le {m : List (Nat × α)} {lo n : Nat} (h : Sparse.wfAbove d (some lo) m = true) (hn : n ≤ lo) :
    Sparse.get d m n = d := by
  by_contra hne
  have := Sparse.lt_of_mem h (Sparse.mem_of_get rfl hne)
  omega

/-- A pair of a canonical table is what a read finds. -/
theorem Sparse.get_of_mem {m : List (Nat × α)} {lo : Option Nat} {n : Nat} {x : α} (h : Sparse.wfAbove d lo m = true) (hx : (n, x) ∈ m) :
    Sparse.get d m n = x := by
  induction m generalizing lo with
  | nil => cases hx
  | cons p m ih =>
    obtain ⟨j, y⟩ := p
    simp only [Sparse.wfAbove, Bool.and_eq_true] at h
    rcases List.mem_cons.mp hx with heq | hmem
    · cases heq
      simp [Sparse.get]
    · rw [Sparse.get, if_neg (Sparse.lt_of_mem h.2 hmem).ne]
      exact ih h.2 hmem

end

/-- Lanes changed one by one, an unlisted one left as it is. -/
theorem get_mapLanes {f : LaneState → LaneState} (hf : f {} = {}) {m : List (Nat × LaneState)} {lo : Option Nat}
    (h : Sparse.wfAbove {} lo m = true) (n : Nat) : Sparse.get {} (mapLanes f m) n = f (Sparse.get {} m n) := by
  induction m generalizing lo with
  | nil => exact hf.symm
  | cons p m ih =>
    obtain ⟨j, l⟩ := p
    simp only [Sparse.wfAbove, Bool.and_eq_true] at h
    unfold mapLanes
    split
    · next hl =>
      rw [ih h.2]
      by_cases hj : j = n
      · subst hj
        rw [Sparse.get_of_le h.2 le_rfl, hf, Sparse.get, if_pos rfl, hl]
      · rw [Sparse.get, if_neg hj]
    · by_cases hj : j = n
      · rw [Sparse.get, if_pos hj, Sparse.get, if_pos hj]
      · rw [Sparse.get, if_neg hj, Sparse.get, if_neg hj]
        exact ih h.2

/-! ### Drain -/

theorem State.noWork_iff (s : State) :
    s.noWork = true ↔ (∀ w, w < 8 → s.worker w = none) ∧ s.units.ready = [] ∧ s.units.places = [] := by
  simp [State.noWork, Config.workers, List.all_eq_true, and_assoc]

/-- Settles O15: the look timers by `get_mapLanes`, the end of draining by the engine state and `State.noWork_iff`. -/
theorem drainAndItsEnd : Obligations.DrainAndItsEnd := by
  unfold Obligations.DrainAndItsEnd
  rintro e s₀ s rfl
  have hdrain : exec (.drain e) s₀ = .next (drainCommand (s₀.outside e)) := rfl
  have hend : exec (.drainComplete e) s₀ = .next (endDrain (s₀.outside e)) := rfl
  rw [hdrain, hend]
  generalize s₀.outside e = s
  refine ⟨fun hrun hcanonical => ⟨_, rfl, ?_⟩, fun hdraining hworkers hready hplaces => ⟨_, rfl, ?_⟩, fun hnot => ?_⟩
  · obtain ⟨-, hlanes, -⟩ := s.canonical_iff.mp hcanonical
    rw [drainCommand, if_pos hrun]
    exact ⟨rfl, get_mapLanes (f := LaneState.stopLooks) rfl hlanes, rfl, rfl⟩
  · rw [endDrain, if_pos ⟨hdraining, s.noWork_iff.mpr ⟨hworkers, hready, hplaces⟩⟩]
    exact ⟨raiseCause_control _ _, raiseCause_notices _ _,
      congrArg (fun t => t.setControl s.control) (raiseCause_rest .engine (s.setControl { s.control with engine := .idle }))⟩
  · rw [endDrain, if_neg]
    rintro ⟨hdraining, hwork⟩
    obtain ⟨hworkers, hready, hplaces⟩ := s.noWork_iff.mp hwork
    rcases hnot with h | ⟨w, hw, h⟩ | h | h
    · exact h hdraining
    · exact h (hworkers w hw)
    · exact h hready
    · exact h hplaces

/-! ### One reference cycle -/

/-- A lane one tick on (R174). -/
def LaneState.ticked (l : LaneState) : LaneState := { l with lookTimer := countDown l.lookTimer, holdTimer := countDown l.holdTimer }

theorem runsOut_iff (t : Option Nat) : runsOut t = true ↔ t = some 1 := decide_eq_true_iff

/-- The look timers that run out at a tick. -/
theorem lookTimerExpiry_mem_tickEvents {s : State} (h : Sparse.wf {} s.lanes.lane = true) (n : Nat) :
    Instr.lookTimerExpiry n .quiet ∈ tickEvents s ↔ (s.laneState n).lookTimer = some 1 := by
  simp only [tickEvents, List.mem_append, List.mem_flatMap, List.mem_ite_nil_right, List.mem_singleton, Instr.lookTimerExpiry.injEq,
    reduceCtorEq, and_false, or_false, and_true, runsOut_iff]
  constructor
  · rintro ⟨⟨j, l⟩, hmem, htimer, rfl⟩
    rw [State.laneState, Sparse.get_of_mem h hmem]
    exact htimer
  · intro htimer
    exact ⟨(n, s.laneState n), Sparse.mem_of_get rfl (fun he => by simp [he] at htimer), htimer, rfl⟩

/-- The hold timers that run out at a tick. -/
theorem noticeHoldExpiry_mem_tickEvents {s : State} (h : Sparse.wf {} s.lanes.lane = true) (n : Nat) :
    Instr.noticeHoldExpiry n .quiet ∈ tickEvents s ↔ (s.laneState n).holdTimer = some 1 := by
  simp only [tickEvents, List.mem_append, List.mem_flatMap, List.mem_ite_nil_right, List.mem_singleton, Instr.noticeHoldExpiry.injEq,
    reduceCtorEq, and_false, false_or, or_false, and_true, runsOut_iff]
  constructor
  · rintro ⟨⟨j, l⟩, hmem, htimer, rfl⟩
    rw [State.laneState, Sparse.get_of_mem h hmem]
    exact htimer
  · intro htimer
    exact ⟨(n, s.laneState n), Sparse.mem_of_get rfl (fun he => by simp [he] at htimer), htimer, rfl⟩

theorem journalWriteRetry_mem_tickEvents (s : State) : Instr.journalWriteRetry .quiet ∈ tickEvents s ↔ s.journal.retry = true := by
  simp [tickEvents, List.mem_flatMap]

theorem minuteEvent_not_mem_tickEvents (s : State) : Instr.minuteEvent .quiet ∉ tickEvents s := by
  simp [tickEvents, List.mem_flatMap]

/-- The chain of the clock at a tick event (R174). -/
def Clock.atTick (c : Clock) : Clock :=
  if c.tick < 99999 then { c with phase := 0, tick := c.tick + 1 }
  else if c.second < 59 then { c with phase := 0, tick := 0, second := c.second + 1 }
  else { c with phase := 0, tick := 0, second := 0 }

/-- The commands that a tick event sends behind those of its own (R174): at the last tick of the last second a minute event. -/
def Clock.minuteCommands (c : Clock) : List Instr := if c.tick < 99999 ∨ c.second < 59 then [] else minuteEvents

/-- The cycle that makes a tick event, in one equation. -/
theorem cycle_tick {s : State} (hset : s.clock.set = true) (hphase : s.clock.phase = 999) : cycle s =
    { s with
      clock := s.clock.atTick, lanes := { s.lanes with lane := tickLanes s.lanes.lane }
      pending := s.pending ++ (tickEvents s ++ s.clock.minuteCommands) } := by
  rw [cycle, if_pos hset, if_neg (by omega), Clock.atTick, Clock.minuteCommands]
  by_cases htick : s.clock.tick < 99999
  · rw [if_pos htick, if_pos (.inl htick), List.append_nil]
    exact (if_pos htick).trans rfl
  · have hsecondEvent : tickEvent (s.setClock { s.clock with phase := 0 }) = secondEvent
        { s with
          clock := { s.clock with phase := 0, tick := 0 }, lanes := { s.lanes with lane := tickLanes s.lanes.lane }
          pending := s.pending ++ tickEvents s } := (if_neg htick).trans rfl
    rw [if_neg htick, hsecondEvent]
    by_cases hsecond : s.clock.second < 59
    · rw [if_pos hsecond, if_pos (.inr hsecond), List.append_nil]
      exact (if_pos hsecond).trans rfl
    · rw [if_neg hsecond, if_neg (by simp [htick, hsecond]), ← List.append_assoc]
      exact (if_neg hsecond).trans rfl

/-- A sweep at or past now, or none, is not behind. -/
theorem State.sweepBehind_eq_false {s : State} (h : ∀ p, s.holds.sweep = some p → (s.clock.now : Int) ≤ p) : s.sweepBehind = false := by
  unfold State.sweepBehind
  split
  · rfl
  · next p hp => exact decide_eq_false (not_lt.mpr (h p hp))

/-- Settles O2: a sweep behind sends its move; else `cycle_tick` at the last phase. -/
theorem emptyQueueCountsOneCycle : Obligations.EmptyQueueCountsOneCycle := by
  unfold Obligations.EmptyQueueCountsOneCycle
  intro s hcanonical hpending
  obtain ⟨-, hlanes, -⟩ := s.canonical_iff.mp hcanonical
  have hstep : step s = .next (idle s) := by rw [step, hpending]
  rw [hstep]
  refine ⟨fun p hp hbehind => ?_, fun hlevel => ?_⟩
  · have hsweep : s.sweepBehind = true := by simp [State.sweepBehind, hp, hbehind]
    rw [idle, if_pos hsweep]
    rfl
  · rw [idle, State.sweepBehind_eq_false hlevel, if_neg Bool.false_ne_true]
    refine ⟨fun hset => ?_, fun hset hphase => ?_, fun hset hphase => ⟨_, rfl, ?_⟩⟩
    · rw [cycle, hset, if_neg Bool.false_ne_true]
    · rw [cycle, if_pos hset, if_pos hphase]
      rfl
    · rw [cycle_tick hset hphase, hpending, List.nil_append]
      have hminute : ∀ i, i ∈ s.clock.minuteCommands → i = .minuteEvent .quiet ∨ i = .sweepMove .quiet := by
        intro i hi
        unfold Clock.minuteCommands at hi
        split at hi
        · cases hi
        · simpa [minuteEvents] using hi
      refine ⟨rfl, get_mapLanes (f := LaneState.ticked) rfl hlanes, fun n => ?_, fun n => ?_, ?_, fun htick hsecond => ⟨tickEvents s, ?_⟩,
        fun hearly => ?_, rfl, ?_⟩
      · rw [List.mem_append, lookTimerExpiry_mem_tickEvents hlanes]
        exact or_iff_left fun h => by rcases hminute _ h with h | h <;> cases h
      · rw [List.mem_append, noticeHoldExpiry_mem_tickEvents hlanes]
        exact or_iff_left fun h => by rcases hminute _ h with h | h <;> cases h
      · rw [List.mem_append, journalWriteRetry_mem_tickEvents]
        exact or_iff_left fun h => by rcases hminute _ h with h | h <;> cases h
      · rw [Clock.minuteCommands, if_neg (by omega)]
        rfl
      · rw [Clock.minuteCommands, if_pos hearly, List.append_nil]
        exact minuteEvent_not_mem_tickEvents s
      · rw [← hpending]

/-! ### The sweep's move -/

theorem bucketOf_eq {m : Int} {b : Nat} (h : (b : Int) = m % 4096) : bucketOf m = b := by
  show (m % 4096).toNat = b
  omega

/-- The state with another sweep position. -/
def State.setSweep (s : State) (p : Int) : State := s.setHolds { s.holds with sweep := some p }

/-- A move of the sweep below now, the mark clear (R84). -/
theorem sweepStep_moves {s : State} {p : Int} {b : Nat} (hp : s.holds.sweep = some p) (hb : (b : Int) = (p + 1) % 4096)
    (hlt : p < (s.clock.now : Int)) (hmark : s.header.damaged = false) : sweepStep s = (concatBucket b s).setSweep (p + 1) := by
  simp only [sweepStep, hp, if_pos hlt, hmark, Bool.false_eq_true, if_false, bucketOf_eq hb]
  rfl

/-- A bucket that joins an empty due chain writes no link word. -/
theorem concatBucket_store_of_noTail (b : Nat) {s : State} (h : s.holds.due.tail = none) : (concatBucket b s).store = s.store := by
  unfold concatBucket
  dsimp only
  split
  · rfl
  · simp only [State.chain, h]
    rfl

/-- Settles O22: the bucket by `concatBucket_joined`. -/
theorem sweepMovesOneBucket : Obligations.SweepMovesOneBucket := by
  unfold Obligations.SweepMovesOneBucket
  rintro e s₀ s p b rfl hp hb
  have hexec : exec (.sweepMove e) s₀ = .next (sweepStep (s₀.outside e)) := rfl
  rw [hexec]
  generalize s₀.outside e = s at hp ⊢
  have hjoined := concatBucket_joined b s
  refine ⟨fun hlevel => ?_, fun hlt hnone => ?_, fun hlt hmark hhead htail => ⟨_, rfl, ?_⟩, fun h x hlt hmark hhead htail hne => ⟨_, rfl, ?_⟩⟩
  · simp only [sweepStep, hp, if_neg (not_lt.mpr hlevel)]
  · cases hmark : s.header.damaged with
    | true =>
      simp only [sweepStep, hp, if_pos hlt, hmark, if_true]
      rfl
    | false =>
      rw [sweepStep_moves hp hb hlt hmark, hjoined.empty (hnone.resolve_left (by simp [hmark]))]
      rfl
  · rw [sweepStep_moves hp hb hlt hmark]
    obtain ⟨h, hh⟩ := Option.ne_none_iff_exists'.mp hhead
    refine ⟨rfl, ?_, hjoined.bucket hhead, concatBucket_store_of_noTail b htail⟩
    rw [hh]
    exact hjoined.due h hh
  · rw [sweepStep_moves hp hb hlt hmark]
    have hdue := hjoined.due h hhead
    obtain ⟨hnext, hprev, -⟩ := hjoined.link h x hhead htail
    refine ⟨rfl, (congrArg Chain.head hdue :), (congrArg Chain.tail hdue :), (congrArg Chain.count hdue :), hjoined.bucket (by simp [hhead]),
      hjoined.otherBuckets, hnext, hprev, fun i hix hih => hjoined.otherLinks i (.inr ⟨?_, ?_⟩), ?_, ?_, hjoined.rest, hjoined.store⟩
    · rw [htail]
      exact fun h => hix (Option.some.inj h).symm
    · rw [hhead]
      exact fun h => hih (Option.some.inj h).symm
    · exact (congrArg HoldTable.free hjoined.holds :)
    · exact (congrArg HoldTable.hand hjoined.holds :)

end Sys2Proof.Machine
end

section
/-! PROOFS. The commit trail's statuses, what abandoning the pending ones leaves, and the end of a reset (spec/07, 7.7; spec/10, 10.4; O10). -/

namespace Sys2Proof.Machine

/-! ### One status -/

/-- A state that differs in trail entries and their on-chip statuses alone. -/
def TrailOnly (s t : State) : Prop :=
  t = s.setStore { s.store with trail := t.store.trail, trailStatus := t.store.trailStatus }

theorem TrailOnly.refl (s : State) : TrailOnly s s := rfl

theorem TrailOnly.trans {s t u : State} (h : TrailOnly s t) (g : TrailOnly t u) : TrailOnly s u := by
  unfold TrailOnly at *
  rw [g]
  generalize u.store.trail = a, u.store.trailStatus = b
  rw [h]
  rfl

theorem setJournalStatus_only (k : Nat) (v : TrailStatus) (s : State) : TrailOnly s (setJournalStatus k v s) := rfl
theorem setAnswerStatus_only (k : Nat) (v : TrailStatus) (s : State) : TrailOnly s (setAnswerStatus k v s) := rfl

theorem trailStatusAt_setJournalStatus (k j : Nat) (v : TrailStatus) (s : State) :
    (setJournalStatus k v s).trailStatusAt j = if j = k then { s.trailStatusAt k with journal := v } else s.trailStatusAt j := by
  split
  · next h =>
    subst h
    exact Sparse.get_set_same ..
  · next h => exact Sparse.get_set_other _ _ _ h

theorem trailStatusAt_setAnswerStatus (k j : Nat) (v : TrailStatus) (s : State) :
    (setAnswerStatus k v s).trailStatusAt j = if j = k then { s.trailStatusAt k with answer := v } else s.trailStatusAt j := by
  split
  · next h =>
    subst h
    exact Sparse.get_set_same ..
  · next h => exact Sparse.get_set_other _ _ _ h

theorem trailCell_setJournalStatus (k j : Nat) (v : TrailStatus) (s : State) :
    (setJournalStatus k v s).trailCell j =
      if j = k then
        { entry := { (s.trailCell k).entry with journalStatus := v }, ecc := (s.trailCell k).ecc.freshWord journalStatusWord }
      else s.trailCell j := by
  split
  · next h =>
    subst h
    exact Sparse.get_set_same ..
  · next h => exact Sparse.get_set_other _ _ _ h

theorem trailCell_setAnswerStatus (k j : Nat) (v : TrailStatus) (s : State) :
    (setAnswerStatus k v s).trailCell j =
      if j = k then
        { entry := { (s.trailCell k).entry with answerStatus := v }, ecc := (s.trailCell k).ecc.freshWord answerStatusWord }
      else s.trailCell j := by
  split
  · next h =>
    subst h
    exact Sparse.get_set_same ..
  · next h => exact Sparse.get_set_other _ _ _ h

/-! ### Pending statuses abandoned -/

/-- The journal status of a trail place, where it is pending, becomes ABANDONED. -/
def settleJournalAt (k : Nat) (s : State) : State :=
  if (s.trailStatusAt k).journal = .pending then setJournalStatus k .abandoned s else s

/-- The answer status of a trail place, where it is pending, becomes ABANDONED. -/
def settleAnswerAt (k : Nat) (s : State) : State :=
  if (s.trailStatusAt k).answer = .pending then setAnswerStatus k .abandoned s else s

theorem abandonPending_eq (s : State) :
    abandonPending s = (List.range 32).foldl (fun s k => settleAnswerAt k (settleJournalAt k s)) s := rfl

theorem TrailStatus.settled_of_ne {v : TrailStatus} (h : v ≠ .pending) : v.settled = v := by
  cases v with
  | pending => exact absurd rfl h
  | none => rfl
  | done => rfl
  | abandoned => rfl

/-- What settling the journal status of a place leaves: that status, in the store and on-chip. -/
theorem settleJournalAt_spec (k : Nat) (s : State) : TrailOnly s (settleJournalAt k s) ∧
    (∀ j, (settleJournalAt k s).trailStatusAt j =
      if j = k then { s.trailStatusAt k with journal := (s.trailStatusAt k).journal.settled } else s.trailStatusAt j) ∧
    (∀ j, ((settleJournalAt k s).trailCell j).entry =
      if j = k then { (s.trailCell k).entry with journalStatus :=
        if (s.trailStatusAt k).journal = .pending then .abandoned else (s.trailCell k).entry.journalStatus }
      else (s.trailCell j).entry) := by
  unfold settleJournalAt
  by_cases hpending : (s.trailStatusAt k).journal = .pending
  · simp only [if_pos hpending]
    refine ⟨setJournalStatus_only k _ s, fun j => ?_, fun j => ?_⟩
    · rw [trailStatusAt_setJournalStatus, hpending]
      rfl
    · rw [trailCell_setJournalStatus]
      split <;> rfl
  · simp only [if_neg hpending, TrailStatus.settled_of_ne hpending]
    refine ⟨.refl s, fun j => ?_, fun j => ?_⟩ <;>
    · split
      · next h => rw [h]
      · rfl

/-- What settling the answer status of a place leaves. -/
theorem settleAnswerAt_spec (k : Nat) (s : State) : TrailOnly s (settleAnswerAt k s) ∧
    (∀ j, (settleAnswerAt k s).trailStatusAt j =
      if j = k then { s.trailStatusAt k with answer := (s.trailStatusAt k).answer.settled } else s.trailStatusAt j) ∧
    (∀ j, ((settleAnswerAt k s).trailCell j).entry =
      if j = k then { (s.trailCell k).entry with answerStatus :=
        if (s.trailStatusAt k).answer = .pending then .abandoned else (s.trailCell k).entry.answerStatus }
      else (s.trailCell j).entry) := by
  unfold settleAnswerAt
  by_cases hpending : (s.trailStatusAt k).answer = .pending
  · simp only [if_pos hpending]
    refine ⟨setAnswerStatus_only k _ s, fun j => ?_, fun j => ?_⟩
    · rw [trailStatusAt_setAnswerStatus, hpending]
      rfl
    · rw [trailCell_setAnswerStatus]
      split <;> rfl
  · simp only [if_neg hpending, TrailStatus.settled_of_ne hpending]
    refine ⟨.refl s, fun j => ?_, fun j => ?_⟩ <;>
    · split
      · next h => rw [h]
      · rfl

/-- A trail entry whose pending statuses, as the chip knows them, are ABANDONED. -/
def TrailEntry.abandoned (e : TrailEntry) (p : StatusPair) : TrailEntry :=
  { e with
    journalStatus := if p.journal = .pending then .abandoned else e.journalStatus
    answerStatus := if p.answer = .pending then .abandoned else e.answerStatus }

/-- The first `n` places settled, the others as they were. -/
structure TrailSettled (n : Nat) (s t : State) : Prop where
  only : TrailOnly s t
  onChip : ∀ j, t.trailStatusAt j =
    if j < n then { journal := (s.trailStatusAt j).journal.settled, answer := (s.trailStatusAt j).answer.settled } else s.trailStatusAt j
  stored : ∀ j, (t.trailCell j).entry = if j < n then (s.trailCell j).entry.abandoned (s.trailStatusAt j) else (s.trailCell j).entry

theorem settled_first (n : Nat) (s : State) :
    TrailSettled n s ((List.range n).foldl (fun s k => settleAnswerAt k (settleJournalAt k s)) s) := by
  induction n with
  | zero => exact ⟨.refl s, fun _ => by simp, fun _ => by simp⟩
  | succ n ih =>
    rw [List.range_succ, List.foldl_append, List.foldl_cons, List.foldl_nil]
    generalize (List.range n).foldl (fun s k => settleAnswerAt k (settleJournalAt k s)) s = t at ih
    obtain ⟨hjournal, hjournalChip, hjournalStored⟩ := settleJournalAt_spec n t
    obtain ⟨hanswer, hanswerChip, hanswerStored⟩ := settleAnswerAt_spec n (settleJournalAt n t)
    have hchipN : t.trailStatusAt n = s.trailStatusAt n := by rw [ih.onChip, if_neg (lt_irrefl n)]
    have hstoredN : (t.trailCell n).entry = (s.trailCell n).entry := by rw [ih.stored, if_neg (lt_irrefl n)]
    refine ⟨ih.only.trans (hjournal.trans hanswer), fun j => ?_, fun j => ?_⟩
    · by_cases hj : j = n
      · subst hj
        rw [hanswerChip, if_pos rfl, hjournalChip, if_pos rfl, hchipN, if_pos (Nat.lt_succ_self j)]
      · rw [hanswerChip, if_neg hj, hjournalChip, if_neg hj, ih.onChip]
        simp only [show (j < n + 1) = (j < n) by apply propext; omega]
    · by_cases hj : j = n
      · subst hj
        rw [hanswerStored, if_pos rfl, hjournalStored, if_pos rfl, hjournalChip, if_pos rfl, hchipN, hstoredN,
          if_pos (Nat.lt_succ_self j)]
        rfl
      · rw [hanswerStored, if_neg hj, hjournalStored, if_neg hj, ih.stored]
        simp only [show (j < n + 1) = (j < n) by apply propext; omega]

/-- Abandoning settles every place of the ring (R142). -/
theorem abandonPending_settled (s : State) : TrailSettled 32 s (abandonPending s) := by
  rw [abandonPending_eq]
  exact settled_first 32 s

/-! ### The end of a reset -/

/-- The state at the end of a reset, before a START taken in it makes its checks (R128, R142, R173, R181). -/
def resetSettled (s : State) : State :=
  let t := abandonPending (dropJournal (s.setControl { s.control with resetting := false }))
  if s.control.engine = .scrubbing then t else raiseCause .engine t

theorem resetSettled_ended (s : State) : ResetEnded s (resetSettled s) := by
  have hsettled := abandonPending_settled (dropJournal (s.setControl { s.control with resetting := false }))
  unfold resetSettled
  generalize abandonPending (dropJournal (s.setControl { s.control with resetting := false })) = t at hsettled
  have honly := hsettled.only
  have hchip : ∀ k, k < 32 → t.trailStatusAt k =
      { journal := (s.trailStatusAt k).journal.settled, answer := (s.trailStatusAt k).answer.settled } := fun k hk =>
    (hsettled.onChip k).trans (if_pos hk)
  have hstored : ∀ k, k < 32 → (t.trailCell k).entry = (s.trailCell k).entry.abandoned (s.trailStatusAt k) := fun k hk =>
    (hsettled.stored k).trans (if_pos hk)
  unfold TrailOnly at honly
  dsimp only
  split
  · next hscrub =>
    refine ⟨by rw [honly]; rfl, by rw [honly]; rfl, hchip, hstored, ?_, by rw [honly]; rfl, by rw [honly]; rfl⟩
    rw [honly, if_pos hscrub]
    rfl
  · next hscrub =>
    obtain ⟨m, hraise, -⟩ := raiseCause_only .engine t
    rw [hraise]
    refine ⟨by rw [honly]; rfl, by rw [honly]; rfl, hchip, hstored, ?_, by rw [honly]; rfl, by rw [honly]; rfl⟩
    rw [honly, if_neg hscrub]
    rfl

/-- Without a START taken in the reset its end is that state; with one, STARTING runs from it. -/
theorem endReset_eq {s : State} (h : s.control.resetting = true) :
    endReset s = if s.control.engine = .starting then runStarting (resetSettled s) else resetSettled s := by
  have hcontrol := (resetSettled_ended s).control
  have hunfold : endReset s = if (resetSettled s).control.engine = .starting then runStarting (resetSettled s) else resetSettled s := by
    have hengine : (abandonPending (dropJournal (s.setControl { s.control with resetting := false }))).control.engine = s.control.engine := by
      have honly := (abandonPending_settled (dropJournal (s.setControl { s.control with resetting := false }))).only
      unfold TrailOnly at honly
      rw [honly]
      rfl
    rw [endReset, if_pos h]
    dsimp only
    rw [hengine]
    rfl
  rw [hunfold, hcontrol]

/-- Settles O10: the end of a reset is `resetSettled`, from which a START taken in the reset begins as any other. -/
theorem resetEndSettlesTheTrail : Obligations.ResetEndSettlesTheTrail := by
  unfold Obligations.ResetEndSettlesTheTrail
  rintro e s₀ s rfl
  have hexec : exec (.resetEnd e) s₀ = .next (endReset (s₀.outside e)) := rfl
  rw [hexec]
  generalize s₀.outside e = s
  have hended := resetSettled_ended s
  refine ⟨fun hno => ?_, fun hreset hengine => ⟨_, rfl, ?_⟩, fun hreset hengine hanchor hpend hstarting => ⟨_, hended, ?_⟩⟩
  · rw [endReset, hno, if_neg Bool.false_ne_true]
  · rw [endReset_eq hreset, if_neg hengine]
    exact hended
  · rw [endReset_eq hreset, if_pos hengine]
    have hcontrol := hended.control
    have hlink : (resetSettled s).anchor = s.anchor := by
      have hrest := congrArg State.anchor hended.rest
      exact hrest
    generalize resetSettled s = t at hcontrol hlink
    have hstart : exec (.start .quiet) { t with control := { t.control with engine := .idle } } =
        .next (enterStarting ({ t with control := { t.control with engine := .idle } } : State)) := rfl
    -- STARTING begun from IDLE gives the control block as the reset has left it
    have hbegun : enterStarting ({ t with control := { t.control with engine := .idle } } : State) =
        (fun x : State => if x.control.resetting then x else runStarting x) (t.setControl
          { t.control with engine := .starting, startPending := false, startAnchor := t.anchor, starting := none }) := rfl
    have hsame : ({ t.control with engine := .starting, startPending := false, startAnchor := t.anchor, starting := none } : Control) =
        t.control := by
      rw [hcontrol, hlink, ← hanchor, ← hengine, ← hpend, ← hstarting]
    have hresetting : t.control.resetting = false := by rw [hcontrol]
    rw [hstart, hbegun, hsame]
    show Host.Outcome.next (runStarting t) = .next (if t.control.resetting = true then t else runStarting t)
    rw [hresetting, if_neg Bool.false_ne_true]

end Sys2Proof.Machine
end

section
/-! PROOFS. The order of the lanes (spec/08, 8.3; O24). -/

namespace Sys2Proof.Machine

/-! ### Rotation -/

/-- Where a rotation over `count` lanes starts. -/
def rotationStart (last : Option Nat) : Nat := match last with | none => 0 | some l => l + 1

/-- How far a lane is from the start of the rotation. -/
def rotationAway (count start n : Nat) : Nat := (n + count - start) % count

theorem rotation_eq (count : Nat) (last : Option Nat) :
    rotation count last = (List.range count).map (fun k => (rotationStart last + k) % count) := rfl

/-- The lane `k` places after the start is `k` away from it. -/
theorem rotationAway_of_place {count start k : Nat} (hstart : start ≤ count) (hk : k < count) :
    rotationAway count start ((start + k) % count) = k := by
  unfold rotationAway
  rcases Nat.lt_or_ge (start + k) count with hlt | hge
  · rw [Nat.mod_eq_of_lt hlt, show start + k + count - start = k + count by omega, Nat.add_mod_right, Nat.mod_eq_of_lt hk]
  · have hmod : (start + k) % count = start + k - count := by
      rw [Nat.mod_eq_sub_mod hge]
      exact Nat.mod_eq_of_lt (by omega)
    rw [hmod, show start + k - count + count - start = k by omega, Nat.mod_eq_of_lt hk]

/-- The place of a lane, counted from the start, is its distance. -/
theorem place_of_rotationAway {count start n : Nat} (hstart : start ≤ count) (hn : n < count) :
    (start + rotationAway count start n) % count = n := by
  unfold rotationAway
  rcases Nat.lt_or_ge n start with hlt | hge
  · rw [Nat.mod_eq_of_lt (show n + count - start < count by omega), show start + (n + count - start) = n + count by omega, Nat.add_mod_right,
      Nat.mod_eq_of_lt hn]
  · rw [show n + count - start = n - start + count by omega, Nat.add_mod_right, Nat.mod_eq_of_lt (show n - start < count by omega),
      show start + (n - start) = n by omega, Nat.mod_eq_of_lt hn]

theorem mem_rotation {count n : Nat} {last : Option Nat} (hstart : rotationStart last ≤ count) : n ∈ rotation count last ↔ n < count := by
  rw [rotation_eq]
  constructor
  · intro h
    obtain ⟨k, hk, rfl⟩ := List.mem_map.mp h
    exact Nat.mod_lt _ (Nat.zero_lt_of_lt (List.mem_range.mp hk))
  · intro hn
    refine List.mem_map.mpr ⟨rotationAway count (rotationStart last) n, List.mem_range.mpr ?_, place_of_rotationAway hstart hn⟩
    exact Nat.mod_lt _ (Nat.zero_lt_of_lt hn)

/-- A rotation goes from the nearest lane to the farthest. -/
theorem rotation_pairwise {count : Nat} {last : Option Nat} (hstart : rotationStart last ≤ count) :
    (rotation count last).Pairwise (fun a b => rotationAway count (rotationStart last) a < rotationAway count (rotationStart last) b) := by
  rw [rotation_eq, List.pairwise_map]
  refine (List.pairwise_lt_range).imp_of_mem fun {i j} hi hj hij => ?_
  rw [rotationAway_of_place hstart (List.mem_range.mp hi), rotationAway_of_place hstart (List.mem_range.mp hj)]
  exact hij

/-! ### The order of the ready lanes -/

/-- The ready lanes in rotation order. -/
def readyRotation (s : State) : List Nat := (rotation s.dir.laneCount s.lanes.lastServed).filter (fun n => (s.laneState n).ready)

theorem laneOrder_rotation {s : State} (h : s.dir.arbitration ≠ 1) : laneOrder s = readyRotation s := if_neg h

theorem laneOrder_priority {s : State} (h : s.dir.arbitration = 1) : laneOrder s =
    (List.range 8).flatMap (fun p => (readyRotation s).filter (fun n => decide ((s.laneEntry n).map (·.priority) = some p))) := if_pos h

/-- The lanes that are tried are ready lanes of the table. -/
theorem mem_of_mem_laneOrder {s : State} {n : Nat} (h : n ∈ laneOrder s) : n < s.dir.laneCount ∧ (s.laneState n).ready = true := by
  have hrotation : n ∈ readyRotation s := by
    by_cases hmode : s.dir.arbitration = 1
    · rw [laneOrder_priority hmode] at h
      obtain ⟨p, -, hp⟩ := List.mem_flatMap.mp h
      exact List.mem_of_mem_filter hp
    · rwa [laneOrder_rotation hmode] at h
  obtain ⟨hmem, hready⟩ := List.mem_filter.mp hrotation
  obtain ⟨k, hk, rfl⟩ := List.mem_map.mp hmem
  exact ⟨Nat.mod_lt _ (Nat.zero_lt_of_lt (List.mem_range.mp hk)), hready⟩

/-- Settles O24: a rotation rises in distance, and PRIORITY sorts it by priority number. -/
theorem lanesAreTriedInOrder : Obligations.LanesAreTriedInOrder := by
  unfold Obligations.LanesAreTriedInOrder
  intro s p hlast hentry _
  have hstart : rotationStart s.lanes.lastServed ≤ s.dir.laneCount := by
    unfold rotationStart
    split
    · exact Nat.zero_le _
    · next l hl => exact hlast l hl
  have hmem : ∀ n, n ∈ readyRotation s ↔ n < s.dir.laneCount ∧ (s.laneState n).ready = true := fun n => by
    rw [readyRotation, List.mem_filter, mem_rotation hstart]
  have hpriority : ∀ n, n < s.dir.laneCount → (s.laneEntry n).map (·.priority) = some (p n) ∧ p n < 8 := fun n hn => by
    obtain ⟨l, hl, hpn, h8⟩ := hentry n hn
    exact ⟨by rw [hl, Option.map_some, hpn], h8⟩
  have hrotation : (readyRotation s).Pairwise (fun a b => rotationAway s.dir.laneCount (rotationStart s.lanes.lastServed) a <
      rotationAway s.dir.laneCount (rotationStart s.lanes.lastServed) b) := (rotation_pairwise hstart).filter _
  intro away
  by_cases hmode : s.dir.arbitration = 1
  · simp only [laneOrder_priority hmode, if_pos hmode]
    refine ⟨fun n => ?_, List.pairwise_flatMap.mpr ⟨fun q _ => ?_, ?_⟩⟩
    · rw [List.mem_flatMap, ← hmem]
      refine ⟨fun ⟨_, _, h⟩ => List.mem_of_mem_filter h, fun h => ?_⟩
      obtain ⟨hpn, h8⟩ := hpriority n ((hmem n).mp h).1
      exact ⟨p n, List.mem_range.mpr h8, List.mem_filter.mpr ⟨h, decide_eq_true hpn⟩⟩
    · refine (hrotation.filter _).imp_of_mem fun {a b} ha hb hab => .inr ⟨?_, hab⟩
      have hvalue : ∀ n, n ∈ (readyRotation s).filter (fun n => decide ((s.laneEntry n).map (·.priority) = some q)) → p n = q := fun n hn => by
        obtain ⟨hn, hq⟩ := List.mem_filter.mp hn
        have := (hpriority n ((hmem n).mp hn).1).1.symm.trans (of_decide_eq_true hq)
        exact Option.some.inj this
      rw [hvalue a ha, hvalue b hb]
    · refine (List.pairwise_lt_range).imp fun {q r} hqr a ha b hb => .inl ?_
      have hvalue : ∀ n x, n ∈ (readyRotation s).filter (fun n => decide ((s.laneEntry n).map (·.priority) = some x)) → p n = x :=
        fun n x hn => by
          obtain ⟨hn, hq⟩ := List.mem_filter.mp hn
          have := (hpriority n ((hmem n).mp hn).1).1.symm.trans (of_decide_eq_true hq)
          exact Option.some.inj this
      rw [hvalue a q ha, hvalue b r hb]
      exact hqr
  · simp only [laneOrder_rotation hmode, if_neg hmode]
    exact ⟨hmem, hrotation⟩

end Sys2Proof.Machine
end

section
/-! PROOFS. Journal room (spec/09, 9.4): what a refresh, a grant and a request for room leave alone. -/

namespace Sys2Proof.Machine

/-! ### What the handling of room can change -/

/-- The counts of the Journal Writer, the raised set with its messages, and the phases of waiting BALANCE requests: nothing else differs, and no worker
becomes FREE or BUSY. -/
structure RoomOnly (s t : State) : Prop where
  rest : { t with journal := s.journal, notices := s.notices, link := s.link, units := s.units } = s
  link : { t.link with msiSent := s.link.msiSent } = s.link
  units : { t.units with workers := s.units.workers, roomWaiters := s.units.roomWaiters } = s.units
  free : ∀ w, t.worker w = none ↔ s.worker w = none

theorem RoomOnly.refl (s : State) : RoomOnly s s := ⟨rfl, rfl, rfl, fun _ => Iff.rfl⟩

theorem RoomOnly.trans {s t u : State} (h : RoomOnly s t) (g : RoomOnly t u) : RoomOnly s u where
  rest := (congrArg (fun x : State => { x with journal := s.journal, notices := s.notices, link := s.link, units := s.units }) g.rest).trans
    h.rest
  link := (congrArg (fun x : Link => { x with msiSent := s.link.msiSent }) g.link).trans h.link
  units := (congrArg (fun x : Units => { x with workers := s.units.workers, roomWaiters := s.units.roomWaiters }) g.units).trans h.units
  free := fun w => (g.free w).trans (h.free w)

section
variable {s t : State}

theorem RoomOnly.control (h : RoomOnly s t) : t.control = s.control := (congrArg State.control h.rest :)
theorem RoomOnly.lanes (h : RoomOnly s t) : t.lanes = s.lanes := (congrArg State.lanes h.rest :)
theorem RoomOnly.holds (h : RoomOnly s t) : t.holds = s.holds := (congrArg State.holds h.rest :)
theorem RoomOnly.clock (h : RoomOnly s t) : t.clock = s.clock := (congrArg State.clock h.rest :)
theorem RoomOnly.store (h : RoomOnly s t) : t.store = s.store := (congrArg State.store h.rest :)
theorem RoomOnly.places (h : RoomOnly s t) : t.units.places = s.units.places := (congrArg Units.places h.units :)
theorem RoomOnly.waiting (h : RoomOnly s t) : t.units.waiting = s.units.waiting := (congrArg Units.waiting h.units :)
theorem RoomOnly.ready (h : RoomOnly s t) : t.units.ready = s.units.ready := (congrArg Units.ready h.units :)

theorem RoomOnly.dir (h : RoomOnly s t) : t.dir = s.dir := by rw [State.dir, h.control, State.dir]

theorem RoomOnly.laneEntry (h : RoomOnly s t) (n : Nat) : t.laneEntry n = s.laneEntry n := by rw [State.laneEntry, h.dir, State.laneEntry]

theorem RoomOnly.laneState (h : RoomOnly s t) (n : Nat) : t.laneState n = s.laneState n := by rw [State.laneState, h.lanes, State.laneState]

end

theorem setJournal_roomOnly (s : State) (v : Journal) : RoomOnly s (s.setJournal v) := ⟨rfl, rfl, rfl, fun _ => Iff.rfl⟩

theorem reserveRoom_roomOnly (n : Nat) (s : State) : RoomOnly s (reserveRoom n s) := setJournal_roomOnly s _

theorem raiseCause_roomOnly (c : Cause) (s : State) : RoomOnly s (raiseCause c s) := by
  obtain ⟨n, h, -⟩ := raiseCause_only c s
  rw [h]
  exact ⟨rfl, rfl, rfl, fun _ => Iff.rfl⟩

theorem testMark_roomOnly (s : State) : RoomOnly s (testMark s) := by
  unfold testMark
  dsimp only
  split
  · exact (setJournal_roomOnly s _).trans (raiseCause_roomOnly _ _)
  · exact setJournal_roomOnly s _

/-- A worker that holds work given other work. -/
theorem setWorker_roomOnly {s : State} {w : Nat} {k : Work} (h : s.worker w = some k) (k' : Work) : RoomOnly s (s.setWorker w (some k')) := by
  refine ⟨rfl, rfl, rfl, fun v => ?_⟩
  by_cases hv : v = w
  · subst hv
    rw [State.worker_setWorker_same, h]
    exact iff_of_false (Option.some_ne_none _) (Option.some_ne_none _)
  · rw [State.worker_setWorker_other s _ hv]

theorem grantWaiting_roomOnly (ws : List Nat) (s : State) : RoomOnly s (grantWaiting ws s) := by
  induction ws generalizing s with
  | nil => exact ⟨rfl, rfl, rfl, fun _ => Iff.rfl⟩
  | cons w ws ih =>
    unfold grantWaiting
    split
    · split
      · next k hk =>
        split
        · exact ((setWorker_roomOnly hk _).trans (reserveRoom_roomOnly 1 _)).trans (ih _)
        · exact ih s
      · exact ih s
    · exact ⟨rfl, rfl, rfl, fun _ => Iff.rfl⟩

theorem grantBalances_roomOnly (s : State) : RoomOnly s (grantBalances s) := grantWaiting_roomOnly _ s

theorem refreshDrained_roomOnly (s : State) : RoomOnly s (refreshDrained s) := by
  unfold refreshDrained
  split
  · exact .refl s
  · dsimp only
    split
    · exact ((setJournal_roomOnly s _).trans (testMark_roomOnly _)).trans (grantBalances_roomOnly _)
    · exact .refl s

/-! ### Requests for room -/

theorem State.roomFits_iff (s : State) (n : Nat) :
    s.roomFits n = true ↔ s.journal.written - s.journal.cached + s.journal.reserved + n ≤ s.dir.journalCount := decide_eq_true_iff

theorem State.roomFits_eq_false (s : State) (n : Nat) :
    s.roomFits n = false ↔ s.dir.journalCount < s.journal.written - s.journal.cached + s.journal.reserved + n := by
  rw [State.roomFits, decide_eq_false_iff_not, not_le]
  rfl

/-- Room found at once or after a refresh (R170). -/
theorem askRoom_granted {n : Nat} {s u : State}
    (h : ((n = 0 ∨ s.roomFits n = true) ∧ u = s) ∨ (n ≠ 0 ∧ s.roomFits n = false ∧ u = refreshDrained s ∧ u.roomFits n = true)) :
    askRoom n s = (reserveRoom n u, true) := by
  rcases h with ⟨hnow, rfl⟩ | ⟨hn, hshort, rfl, hfits⟩
  · rcases hnow with rfl | hfits
    · rfl
    · by_cases hn : n = 0
      · subst hn
        rfl
      · rw [askRoom, if_neg hn, if_pos hfits]
  · unfold askRoom
    rw [if_neg hn, hshort, if_neg Bool.false_ne_true]
    exact if_pos hfits

/-- Room still short after the refresh (R170). -/
theorem askRoom_refused {n : Nat} {s : State} (hn : n ≠ 0) (hshort : s.roomFits n = false) (hstill : (refreshDrained s).roomFits n = false) :
    askRoom n s = (refreshDrained s, false) := by
  unfold askRoom
  rw [if_neg hn, hshort, if_neg Bool.false_ne_true]
  dsimp only
  rw [hstill, if_neg Bool.false_ne_true]

/-- Room sought for a handout, found at once or after a refresh. -/
theorem seekRoom_found {n : Nat} {s u : State}
    (h : (s.roomFits n = true ∧ u = s) ∨ (s.roomFits n = false ∧ u = refreshDrained s ∧ u.roomFits n = true)) :
    seekRoom n s = (u, true) := by
  rcases h with ⟨hfits, rfl⟩ | ⟨hshort, rfl, hfits⟩
  · rw [seekRoom, if_pos hfits]
  · rw [seekRoom, hshort, if_neg Bool.false_ne_true]
    dsimp only
    rw [hfits]

theorem seekRoom_short {n : Nat} {s : State} (hshort : s.roomFits n = false) (hstill : (refreshDrained s).roomFits n = false) :
    seekRoom n s = (refreshDrained s, false) := by
  rw [seekRoom, hshort, if_neg Bool.false_ne_true]
  dsimp only
  rw [hstill]

/-! ### Pool places -/

theorem State.freePlace_some {s : State} {p : Nat} (h : s.freePlace = some p) : p < 32 ∧ p ∉ s.units.places := by
  refine ⟨List.mem_range.mp (List.mem_of_find?_eq_some h), ?_⟩
  simpa using List.find?_some h

theorem State.freePlace_none {s : State} (h : ∀ p, p < 32 → p ∈ s.units.places) : s.freePlace = none := by
  rw [State.freePlace, List.find?_eq_none]
  intro p hp
  simpa using h p (List.mem_range.mp hp)

theorem State.freePlace_some_of_free {s : State} (h : ∃ p, p < 32 ∧ p ∉ s.units.places) : ∃ p, s.freePlace = some p := by
  obtain ⟨p, hp, hfree⟩ := h
  rw [← Option.isSome_iff_exists, State.freePlace, List.find?_isSome]
  exact ⟨p, List.mem_range.mpr hp, by simpa using hfree⟩

end Sys2Proof.Machine
end

section
/-! PROOFS. Lane grants: attempts passed over, takes and withdrawn takes (spec/08, 8.3; O25, O26). -/

namespace Sys2Proof.Machine

/-! ### The lane moves on -/

/-- A lane as a take leaves it (R154): its slot written TAKEN where the link lets it, the scan position moved on, the lane the last served and looked
at. -/
structure Advanced (n : Nat) (l : LaneEntry) (s t : State) : Prop where
  link : (let a := l.base + (s.laneState n).scan * 128
    t.link = { s.link with mem := if s.link.writeFailsAt a then s.link.mem else Memory.write s.link.mem a 2 })
  lane : (let next := if (s.laneState n).scan + 1 < l.slotCount then (s.laneState n).scan + 1 else 0
    t.laneState n = { s.laneState n with scan := next, ready := slotIsPosted t l next, lookTimer := some l.lookInterval })
  otherLanes : ∀ m, m ≠ n → t.laneState m = s.laneState m
  served : t.lanes.lastServed = some n
  rest : { t with link := s.link, lanes := s.lanes } = s

/-- A write of one byte is made, or fails. -/
theorem linkPut_byte (s : State) (a : Nat) (b : Byte) :
    (linkPut s a [b]).1 = s.setMem (if s.link.writeFailsAt a then s.link.mem else Memory.write s.link.mem a b) := by
  cases h : s.link.writeFailsAt a with
  | true =>
    rw [linkPut_failed (i := 0) (by simp) h]
    rfl
  | false =>
    rw [linkPut_done (fun i hi => by
      obtain rfl : i = 0 := by simpa using hi
      exact h)]
    rfl

/-- A look reads the slot through the link alone. -/
theorem slotIsPosted_congr {s t : State} (h : t.link = s.link) (l : LaneEntry) (n : Nat) : slotIsPosted t l n = slotIsPosted s l n := by
  unfold slotIsPosted linkRead
  rw [h]

theorem advanceLane_advanced {n : Nat} {l : LaneEntry} {s : State} (hentry : s.laneEntry n = some l) (hrun : s.control.engine = .running)
    (hopen : (s.laneState n).isOpen = true) : Advanced n l s (advanceLane n l s) := by
  -- the lane before its look
  let next := nextScan l (s.laneState n).scan
  let mem := if s.link.writeFailsAt (l.slotAddr (s.laneState n).scan) then s.link.mem
    else Memory.write s.link.mem (l.slotAddr (s.laneState n).scan) slotTaken
  let moved : State := ((s.setMem mem).setLanes
    { lane := Sparse.set {} s.lanes.lane n { s.laneState n with scan := next }, lastServed := some n })
  have hmoved : advanceLane n l s = look n moved := by
    simp only [advanceLane, linkPut_byte]
    rfl
  have hlane : moved.laneState n = { s.laneState n with scan := next } := Sparse.get_set_same ..
  have hlooked : advanceLane n l s = moved.setLaneState n (moved.lookedAt n l) := by
    rw [hmoved]
    refine look_open (s := moved) hentry hrun ?_
    rw [hlane]
    exact hopen
  rw [hlooked]
  refine ⟨rfl, ?_, fun m hm => ?_, rfl, rfl⟩
  · rw [State.laneState_setLaneState_same, State.lookedAt, hlane]
    rfl
  · rw [State.laneState_setLaneState_other _ _ hm]
    exact Sparse.get_set_other _ _ _ hm

/-! ### Attempts passed over -/

/-- What attempts that reach no worker leave alone. -/
structure AttemptsOnly (s t : State) : Prop where
  control : t.control = s.control
  holds : t.holds = s.holds
  served : t.lanes.lastServed = s.lanes.lastServed
  places : t.units.places = s.units.places
  free : ∀ w, t.worker w = none ↔ s.worker w = none

theorem AttemptsOnly.trans {s t u : State} (h : AttemptsOnly s t) (g : AttemptsOnly t u) : AttemptsOnly s u :=
  ⟨g.control.trans h.control, g.holds.trans h.holds, g.served.trans h.served, g.places.trans h.places, fun w => (g.free w).trans (h.free w)⟩

theorem RoomOnly.attemptsOnly {s t : State} (h : RoomOnly s t) : AttemptsOnly s t :=
  ⟨h.control, h.holds, by rw [h.lanes], h.places, h.free⟩

theorem attemptLane_cleared {w n : Nat} {s : State} {l : LaneEntry} (hentry : s.laneEntry n = some l)
    (hslot : linkRead s (l.base + (s.laneState n).scan * 128) 64 = none ∨
      ∃ half, linkRead s (l.base + (s.laneState n).scan * 128) 64 = some half ∧
        (byteAt half 0 ≠ 1 ∨ s.inFlight n (s.laneState n).scan = true)) :
    attemptLane w n s = (s.setLaneState n { s.laneState n with ready := false }, false) := by
  unfold attemptLane
  rw [hentry]
  dsimp only [LaneEntry.slotAddr]
  rcases hslot with hnone | ⟨half, hread, hnot⟩
  · rw [hnone]
    rfl
  · rw [hread]
    refine if_pos ?_
    rcases hnot with hposted | hflight
    · rw [Bool.or_eq_true, Bool.not_eq_true', decide_eq_false_iff_not]
      exact .inr hposted
    · rw [hflight, Bool.true_or]

section
variable {w n : Nat} {s : State} {l : LaneEntry} {half : List Byte}

/-- What an attempt on a slot that reads POSTED with no withdraw mark comes to, by the pool place and the room (R153 cases 4 and 5). -/
def attemptPosted (w n : Nat) (l : LaneEntry) (half : List Byte) (s : State) : State × Bool :=
  match s.freePlace with
  | none => (s, false)
  | some place =>
    let a := askRoom (takeRoom half) s
    if a.2 then (takeSlot w place (takeRoom half) n l half a.1, true) else (a.1, false)

theorem attemptLane_posted (h : s.slotReads n l half) (hposted : byteAt half 0 = 1) (hmark : byteAt half 1 = 0) :
    attemptLane w n s = attemptPosted w n l half s := by
  obtain ⟨hentry, hread, hflight⟩ := h
  have hread : linkRead s (l.slotAddr (s.laneState n).scan) 64 = some half := hread
  have hposted : byteAt half 0 = slotPosted := hposted
  unfold attemptPosted
  simp only [attemptLane, hentry, hread, hflight, hposted, hmark, decide_true, Bool.not_true, Bool.or_self, Bool.false_eq_true, if_false,
    ne_eq, not_true_eq_false]
  cases s.freePlace with
  | none => rfl
  | some place =>
    rcases askRoom (takeRoom half) s with ⟨u, _ | _⟩ <;> rfl

theorem attemptLane_noPlace (h : s.slotReads n l half) (hposted : byteAt half 0 = 1) (hmark : byteAt half 1 = 0)
    (hplaces : ∀ p, p < 32 → p ∈ s.units.places) : attemptLane w n s = (s, false) := by
  rw [attemptLane_posted h hposted hmark, attemptPosted, State.freePlace_none hplaces]

theorem attemptLane_noRoom (h : s.slotReads n l half) (hposted : byteAt half 0 = 1) (hmark : byteAt half 1 = 0) (hplace : ∃ p, p < 32 ∧ p ∉ s.units.places) (hroom : 0 < takeRoom half)
    (hshort : s.roomFits (takeRoom half) = false) (hstill : (refreshDrained s).roomFits (takeRoom half) = false) :
    attemptLane w n s = (refreshDrained s, false) := by
  obtain ⟨p, hp⟩ := State.freePlace_some_of_free hplace
  rw [attemptLane_posted h hposted hmark, attemptPosted, hp, askRoom_refused hroom.ne' hshort hstill]
  rfl

theorem attemptLane_taken {p : Nat} {u : State} (h : s.slotReads n l half) (hposted : byteAt half 0 = 1) (hmark : byteAt half 1 = 0)
    (hplace : s.freePlace = some p) (hroom : askRoom (takeRoom half) s = (u, true)) :
    attemptLane w n s = (takeSlot w p (takeRoom half) n l half u, true) := by
  rw [attemptLane_posted h hposted hmark, attemptPosted, hplace, hroom]
  rfl

/-- A slot with a withdraw mark is withdrawn (R153 case 3, R155). -/
theorem attemptLane_withdrawn (h : s.slotReads n l half) (hposted : byteAt half 0 = 1) (hmark : byteAt half 1 ≠ 0) :
    attemptLane w n s = (withdraw n l s, true) := by
  obtain ⟨hentry, hread, hflight⟩ := h
  have hread : linkRead s (l.slotAddr (s.laneState n).scan) 64 = some half := hread
  have hposted : byteAt half 0 = slotPosted := hposted
  simp only [attemptLane, hentry, hread, hflight, hposted, hmark, decide_true, Bool.not_true, Bool.or_self, Bool.false_eq_true, if_false,
    ne_eq, not_false_eq_true, if_true]

end

/-- Attempts passed over go on with the lanes behind them (R152, R153). -/
theorem tryLanes_passedOver {w : Nat} {pre : List Nat} {s s' : State} (h : PassedOver pre s s') (ns : List Nat) :
    tryLanes w (pre ++ ns) s = tryLanes w ns s' := by
  induction h with
  | nil s => rfl
  | cleared n pre s t l hentry hslot _ ih =>
    rw [List.cons_append, tryLanes, attemptLane_cleared hentry hslot]
    exact ih
  | noPlace n pre s t l half hreads hposted hmark hplaces _ ih =>
    rw [List.cons_append, tryLanes, attemptLane_noPlace hreads hposted hmark hplaces]
    exact ih
  | noRoom n pre s t l half hreads hposted hmark hplace hroom hshort hstill _ ih =>
    rw [List.cons_append, tryLanes, attemptLane_noRoom hreads hposted hmark hplace hroom ((State.roomFits_eq_false _ _).mpr hshort)
      ((State.roomFits_eq_false _ _).mpr hstill)]
    exact ih

theorem passedOver_attemptsOnly {pre : List Nat} {s s' : State} (h : PassedOver pre s s') : AttemptsOnly s s' := by
  induction h with
  | nil s => exact ⟨rfl, rfl, rfl, rfl, fun _ => Iff.rfl⟩
  | cleared n pre s t l _ _ _ ih =>
    have hcleared : AttemptsOnly s (s.setLaneState n { s.laneState n with ready := false }) := ⟨rfl, rfl, rfl, rfl, fun _ => Iff.rfl⟩
    exact hcleared.trans ih
  | noPlace n pre s t l half _ _ _ _ _ ih => exact ih
  | noRoom n pre s t l half _ _ _ _ _ _ _ _ ih => exact (refreshDrained_roomOnly s).attemptsOnly.trans ih

/-! ### Dispatch to the lanes -/

/-- A lane that is tried holds a ready mark. -/
theorem anyReady_of_mem_laneOrder {s : State} {n : Nat} (h : n ∈ laneOrder s) : s.anyReady = true := by
  obtain ⟨hn, hready⟩ := mem_of_mem_laneOrder h
  exact List.any_eq_true.mpr ⟨n, List.mem_range.mpr hn, hready⟩

/-- With no ready entry in RUNNING a FREE worker goes on to handout and lanes (R114). -/
theorem dispatchWorker_running {w : Nat} {s : State} (hw : w < 8) (hfree : s.worker w = none) (hrun : s.control.engine = .running)
    (hready : s.units.ready = []) : dispatchWorker w s = dispatchRunning w s := by
  rw [dispatchWorker, if_pos ⟨hw, hfree⟩]
  simp only [hrun, hready, List.isEmpty_nil, if_true]

/-- With fewer than 64 rows due and a lane ready it goes on to the lanes. -/
theorem dispatchRunning_lanes {w n : Nat} {s : State} (hdue : s.holds.due.count < 64) (hn : n ∈ laneOrder s) :
    dispatchRunning w s = tryLanes w (laneOrder s) s := by
  rw [dispatchRunning, if_neg]
  rintro (hmany | hnone)
  · omega
  · exact Bool.noConfusion ((anyReady_of_mem_laneOrder hn).symm.trans hnone)

theorem exec_workerDispatch (w : Nat) (e : Outside) (s : State) : exec (.workerDispatch w e) s = .next (dispatchWorker w (s.outside e)) := rfl

/-- Settles O25: the attempts before the lane by `tryLanes_passedOver`, the take by `advanceLane_advanced`. -/
theorem takeServesTheFirstLane : Obligations.TakeServesTheFirstLane := by
  unfold Obligations.TakeServesTheFirstLane
  rintro w n p e s₀ s s' u pre ns l half rfl hw hfree hrun hready hdue horder hpassed hreads hopen hposted hmark hplace room fits hroom
  have hroomEq : room = takeRoom half := by
    unfold room takeRoom
    cases (Req.ofBytes half).kind? <;> rfl
  clear_value room
  subst hroomEq
  have hpass := passedOver_attemptsOnly hpassed
  have hgranted : askRoom (takeRoom half) s' = (reserveRoom (takeRoom half) u, true) := by
    refine askRoom_granted ?_
    rcases hroom with ⟨hfits, rfl⟩ | ⟨hshort, rfl, hfits⟩
    · exact .inl ⟨hfits.imp_right (State.roomFits_iff _ _).mpr, rfl⟩
    · obtain ⟨hne, hshort⟩ := not_or.mp hshort
      exact .inr ⟨hne, (State.roomFits_eq_false _ _).mpr (not_le.mp hshort), rfl, (State.roomFits_iff _ _).mpr (hfits.resolve_left hne)⟩
  have hu : RoomOnly s' u := by
    rcases hroom with ⟨-, rfl⟩ | ⟨-, rfl, -⟩
    · exact .refl _
    · exact refreshDrained_roomOnly _
  let held : State := (reservePlace p (reserveRoom (takeRoom half) u)).setWorker w
    (some { task := .request n (u.laneState n).scan l half, place := p, room := takeRoom half })
  have hadvanced : Advanced n l held (advanceLane n l held) := by
    refine advanceLane_advanced ?_ ?_ ?_
    · exact (hu.laneEntry n).trans hreads.1
    · show u.control.engine = .running
      rw [hu.control, hpass.control]
      exact hrun
    · exact (congrArg LaneState.isOpen (hu.laneState n)).trans hopen
  refine ⟨advanceLane n l held, ?_, ?_⟩
  · rw [exec_workerDispatch, dispatchWorker_running hw hfree hrun hready, dispatchRunning_lanes hdue (n := n) (by rw [horder]; simp), horder,
      tryLanes_passedOver hpassed, tryLanes, attemptLane_taken hreads hposted hmark hplace hgranted]
    rfl
  · obtain ⟨hp, hpfree⟩ := State.freePlace_some hplace
    rw [← hu.places] at hpfree
    generalize advanceLane n l held = t at hadvanced
    have hunits : t.units = held.units := (congrArg State.units hadvanced.rest :)
    refine ⟨?_, fun v hv => ?_, ⟨hp, hpfree, by rw [hunits]; rfl⟩, ?_, hadvanced.link, hadvanced.lane, hadvanced.otherLanes, hadvanced.served, ?_,
      by rw [hunits]; rfl⟩
    · rw [State.worker, hunits]
      exact State.worker_setWorker_same ..
    · rw [State.worker, hunits]
      exact State.worker_setWorker_other (reservePlace p (reserveRoom (takeRoom half) u)) _ hv
    · exact (congrArg State.journal hadvanced.rest :)
    · exact congrArg (fun x : State => { x with units := u.units, journal := u.journal }) hadvanced.rest

/-- Settles O26: the attempts passed over, then a withdrawn take or none. -/
theorem attemptsThatReachNoWorker : Obligations.AttemptsThatReachNoWorker := by
  unfold Obligations.AttemptsThatReachNoWorker
  rintro w e s₀ s s' pre rfl hw hfree hrun hready hdue hpassed
  have hpass := passedOver_attemptsOnly hpassed
  refine ⟨fun n ns l half horder hreads hopen hposted hmark => ?_, fun horder hne => ?_⟩
  · intro slot next a answer
    have hadvanced : Advanced n l s' (advanceLane n l s') :=
      advanceLane_advanced hreads.1 (by rw [hpass.control]; exact hrun) hopen
    refine ⟨withdraw n l s', ?_, ?_⟩
    · rw [exec_workerDispatch, dispatchWorker_running hw hfree hrun hready, dispatchRunning_lanes hdue (n := n) (by rw [horder]; simp), horder,
        tryLanes_passedOver hpassed, tryLanes, attemptLane_withdrawn hreads hposted hmark]
    · have hnotices : (advanceLane n l s').notices = s'.notices := (congrArg State.notices hadvanced.rest :)
      unfold withdraw
      generalize advanceLane n l s' = t at hadvanced hnotices
      refine ⟨?_, hadvanced.link, hadvanced.lane, hadvanced.otherLanes, hadvanced.served, ?_⟩
      · rw [State.setNotices_notices, hnotices]
        rfl
      · exact (congrArg (fun x : State => { x with notices := s'.notices }) hadvanced.rest :)
  · obtain ⟨n, hn⟩ := List.exists_mem_of_ne_nil pre hne
    have hend : tryLanes w pre (s₀.outside e) = s' := by
      have h := tryLanes_passedOver (w := w) hpassed []
      rw [List.append_nil] at h
      exact h
    refine ⟨?_, (hpass.free w).mpr hfree, hpass.served, hpass.places⟩
    rw [exec_workerDispatch, dispatchWorker_running hw hfree hrun hready, dispatchRunning_lanes hdue (horder ▸ hn), horder, hend]

end Sys2Proof.Machine
end

section
/-! PROOFS. Due handouts (spec/04, 4.6; spec/06, 6.1; O27). -/

namespace Sys2Proof.Machine

/-! ### The search along the due chain -/

/-- Rows passed over are read, and nothing else happens. -/
theorem rowsPassed_due_observed {c d : Option Nat} {js : List Nat} {s t : State} (h : RowsPassed DuePassed c js d s t) : Observed s t := by
  have hsearch := dueSearch_passed h js.length le_rfl
  rw [Nat.sub_self] at hsearch
  have hobserved := dueSearch_observed js.length c s
  rw [hsearch] at hobserved
  exact hobserved

/-- A search that passes over every row it may look at comes to nothing (R87). -/
theorem dueSearch_exhausted {n : Nat} {c d : Option Nat} {js : List Nat} {s t : State} (h : RowsPassed DuePassed c js d s t)
    (hn : js.length ≤ n) (hend : d = none ∨ js.length = n) : dueSearch n c s = (t, .exhausted) := by
  rw [dueSearch_passed h n hn]
  rcases hend with rfl | rfl
  · cases n - js.length <;> rfl
  · rw [Nat.sub_self]
    rfl

/-- The first eligible row behind the rows passed over is found (R87). -/
theorem dueSearch_found {n i : Nat} {c : Option Nat} {js : List Nat} {s t u : State} {h : HoldRow} (hp : RowsPassed DuePassed c js (some i) s t)
    (hn : js.length < n) (hhand : t.inHand i = false) (hread : HoldRead i h t u) (hcard : t.isListed .card h.card = false) :
    dueSearch n c s = (u, .found i h) := by
  have hlisted : u.isListed .card h.card = false := by
    obtain ⟨-, -, ⟨-, rfl⟩ | ⟨-, rfl⟩⟩ := hread
    · exact hcard
    · exact hcard
  obtain ⟨m, hm⟩ := Nat.exists_eq_succ_of_ne_zero (Nat.sub_ne_zero_of_lt hn)
  rw [dueSearch_passed hp n hn.le, hm, dueSearch]
  simp only [hhand, hread.1, Bool.or_self, Bool.false_eq_true, if_false, readHold_holdRead hread, Option.filter, hlisted, Bool.not_false,
    if_true]

/-! ### The handout in the dispatch -/

/-- With 64 rows due or no lane ready a handout comes first (R114). -/
theorem dispatchRunning_handout {s : State} (h : 64 ≤ s.holds.due.count ∨ ∀ n, n < s.dir.laneCount → (s.laneState n).ready = false) :
    64 ≤ s.holds.due.count ∨ s.anyReady = false := by
  refine h.imp_right fun hready => ?_
  rw [State.anyReady, List.any_eq_false]
  intro n hn
  simp [hready n (List.mem_range.mp hn)]

/-- A handout not made leaves the worker for the lanes. -/
theorem dispatchRunning_notMade {w : Nat} {s v : State} (h : 64 ≤ s.holds.due.count ∨ s.anyReady = false) (hnone : dueHandout w s = (v, .notMade)) :
    dispatchRunning w s = tryLanes w (laneOrder v) v := by
  rw [dispatchRunning, if_pos h, hnone]

theorem dispatchRunning_made {w : Nat} {s v : State} (h : 64 ≤ s.holds.due.count ∨ s.anyReady = false) (hmade : dueHandout w s = (v, .made)) :
    dispatchRunning w s = v := by
  rw [dispatchRunning, if_pos h, hmade]

/-- Lanes that all give the worker nothing. -/
theorem tryLanes_allPassed {w : Nat} {v t : State} (h : PassedOver (laneOrder v) v t) : tryLanes w (laneOrder v) v = t := by
  have hpassed := tryLanes_passedOver (w := w) h []
  rw [List.append_nil] at hpassed
  exact hpassed

/-- Settles O27: place, room and row in turn; what is not handed out is left for the lanes. -/
theorem dueHandoutGivesAJob : Obligations.DueHandoutGivesAJob := by
  unfold Obligations.DueHandoutGivesAJob
  rintro w e s₀ s rfl hw hfree hrun hready hfirst
  have hexec : exec (.workerDispatch w e) s₀ = .next (dispatchRunning w (s₀.outside e)) := by
    rw [exec_workerDispatch, dispatchWorker_running hw hfree hrun hready]
  rw [hexec]
  generalize s₀.outside e = s at hfree hrun hready hfirst
  have hfirst := dispatchRunning_handout hfirst
  intro fits left
  have hleft : ∀ v, dueHandout w s = (v, .notMade) → (v.worker w = none ↔ s.worker w = none) → v.units.places = s.units.places →
      v.holds = s.holds → left v := by
    intro v hnone hworker hplaces hholds t ht
    have honly := passedOver_attemptsOnly ht
    refine ⟨by rw [dispatchRunning_notMade hfirst hnone, tryLanes_allPassed ht], (honly.free w).mpr (hworker.mpr hfree), ?_, ?_⟩
    · rw [honly.places, hplaces]
    · rw [honly.holds, hholds]
  refine ⟨fun hplace => hleft s (by rw [dueHandout, hplace]) Iff.rfl rfl rfl, fun p hplace hshort hstill => ?_, ?_⟩
  · have hroom := refreshDrained_roomOnly s
    refine hleft _ ?_ (hroom.free w) hroom.places hroom.holds
    rw [dueHandout, hplace]
    simp only [seekRoom_short ((State.roomFits_eq_false s 1).mpr (not_le.mp hshort)) ((State.roomFits_eq_false _ 1).mpr (not_le.mp hstill))]
  · intro p u v js c hplace hroom hpassed
    have hseek : seekRoom 1 s = (u, true) := by
      refine seekRoom_found ?_
      rcases hroom with ⟨hfits, rfl⟩ | ⟨hshort, rfl, hfits⟩
      · exact .inl ⟨(State.roomFits_iff _ 1).mpr hfits, rfl⟩
      · exact .inr ⟨(State.roomFits_eq_false s 1).mpr (not_le.mp hshort), rfl, (State.roomFits_iff _ 1).mpr hfits⟩
    have hu : RoomOnly s u := by
      rcases hroom with ⟨-, rfl⟩ | ⟨-, rfl, -⟩
      · exact .refl _
      · exact refreshDrained_roomOnly _
    have hv := rowsPassed_due_observed hpassed
    rw [← hu.holds] at hpassed
    refine ⟨fun hlen hend => ?_, fun i h x hi hlen hhand hread hcard => ?_⟩
    · refine hleft v ?_ ?_ ?_ ?_
      · rw [← hu.holds] at hlen hend
        rw [dueHandout, hplace]
        simp only [hseek, dueSearch_exhausted hpassed hlen hend]
      · rw [State.worker, hv.units]
        exact hu.free w
      · rw [hv.units, hu.places]
      · rw [hv.holds, hu.holds]
    · subst hi
      have hx : Observed u x := by
        have hreadHold := readHold_observed v i
        rw [readHold_holdRead hread] at hreadHold
        exact hv.trans hreadHold
      have hmade : dueHandout w s = (giveJob w p i h x, .made) := by
        rw [← hu.holds] at hlen
        rw [dueHandout, hplace]
        simp only [hseek, dueSearch_found hpassed hlen hhand hread hcard]
      obtain ⟨hp, hpfree⟩ := State.freePlace_some hplace
      refine ⟨giveJob w p i h x, by rw [dispatchRunning_made hfirst hmade], State.worker_setWorker_same .., fun n hn => ?_, hp, hpfree, ?_, ?_,
        ?_, ?_, ?_⟩
      · refine (State.worker_setWorker_other _ _ hn).trans ?_
        show Sparse.get none x.units.workers n = u.worker n
        rw [hx.units]
        rfl
      · show x.units.places ++ [p] = _
        rw [hx.units, hu.places]
      · show ({ x.journal with reserved := x.journal.reserved + 1 } : Journal) = _
        rw [hx.journal]
      · show ({ x.holds with hand := x.holds.hand ++ [_] } : HoldTable) = _
        rw [hx.holds, hu.holds]
      · show ({ x.units with workers := u.units.workers, places := s.units.places } : Units) = _
        rw [hx.units, ← hu.places]
      · show ({ x with units := u.units, journal := u.journal, holds := s.holds } : State) = x
        rw [← hx.units, ← hx.journal, ← hu.holds, ← hx.holds]

end Sys2Proof.Machine
end

section
/-! PROOFS. Admission, step by step (spec/03, 3.1; spec/05; spec/06, 6.2 and 6.3): declines, waits and repeats (O28, O32, O33, O35, O36). -/

namespace Sys2Proof.Machine

/-! ### Steps 1 and 2 -/

/-- A request at step 1 holds the fields of its half. -/
theorem State.atStepOne_req {s : State} {w : Nat} {k : Work} (h : s.atStepOne w = some k) : k.req = Req.ofBytes k.half := by
  have hrequest : k.isRequest = true := by
    have hall := (Option.filter_eq_some_iff.mp h).2
    exact (Bool.and_eq_true_iff.mp hall).1
  unfold Work.isRequest at hrequest
  unfold Work.req Work.half
  split at hrequest
  · simp_all
  · exact Bool.noConfusion hrequest

theorem State.atStepOne_kind {s : State} {w : Nat} {k : Work} (h : s.atStepOne w = some k) : k.kind? = (Req.ofBytes k.half).kind? := by
  rw [← State.atStepOne_req h]
  have hrequest : k.isRequest = true := (Bool.and_eq_true_iff.mp (Option.filter_eq_some_iff.mp h).2).1
  unfold Work.isRequest at hrequest
  unfold Work.kind? Work.req
  split at hrequest
  · simp_all
  · exact Bool.noConfusion hrequest

/-- A request whose kind code or action byte names nothing is malformed (R39, R187). -/
theorem not_wellFormed_of_unknownKind {half : List Byte} (h : ofUnknownKind (Req.ofBytes half) = true) : requestWellFormed half = false := by
  unfold ofUnknownKind at h
  unfold requestWellFormed
  dsimp only
  cases hkind : (Req.ofBytes half).kind? with
  | none => rfl
  | some kd =>
    rw [hkind] at h
    have hnamed : actionNamed kd (Req.ofBytes half).action = false := by cases kd <;> simp_all
    simp only [hnamed, Bool.false_and]

/-- A malformed request is declined at step 1 (R39). -/
theorem stepOne_malformed {w : Nat} {k : Work} {s : State} (ht : s.trailOwing s.store.trailPlace = false)
    (h : requestWellFormed k.half = false) : stepOne w k s = commitNow w k { result := .declined, reason := .malformed } s := by
  unfold stepOne
  split
  · exact declineNow_free ht
  · rw [h, if_neg Bool.false_ne_true]
    exact declineNow_free ht

/-- An office kind on another lane is declined at step 2 (R40). -/
theorem stepTwo_notPermitted {w : Nat} {kd : RequestKind} {k : Work} {s : State} (ht : s.trailOwing s.store.trailPlace = false)
    (htill : kd.isTill = false) (hlane : k.onOfficeLane = false) :
    stepTwo w kd k s = commitNow w k { result := .declined, reason := .notPermitted } s := by
  rw [stepTwo, htill, hlane]
  exact declineNow_free ht

/-- Settles O32: by the cases of `beginRequest` and `stepOne`. -/
theorem stepsOneAndTwoDecline : Obligations.StepsOneAndTwoDecline := by
  unfold Obligations.StepsOneAndTwoDecline
  rintro mk row w e s₀ s hmk rfl
  rw [exec_requestCommand hmk]
  generalize hs : s₀.outside e = s
  refine ⟨fun hnone => ?_, fun k hk => ⟨fun hrow => ?_, fun hrow ht => ⟨fun hbad => ?_, fun kd hkind hgood htill hlane => ?_⟩, fun hunknown ht => ?_⟩⟩
  · rw [beginRequest_other (by simp [hnone])]
  · rw [beginRequest_other]
    intro k' hk'
    rw [hk, Option.some.injEq] at hk'
    rw [← hk', hrow]
  · rw [beginRequest_held hk hrow, stepOne_malformed ht hbad]
  · rw [beginRequest_held hk hrow, stepOne_wellFormed hkind hgood, stepTwo_notPermitted ht htill hlane]
  · have hmem : (Instr.unknownKindRequest, ofUnknownKind) ∈ requestCommands := by simp [requestCommands]
    rw [exec_requestCommand hmem, hs, beginRequest_held hk hunknown]
    rw [stepOne_malformed ht (not_wellFormed_of_unknownKind (State.atStepOne_req hk ▸ hunknown))]

/-! ### Waiting for a lock -/

theorem enterPool_pooled (w : Nat) (k : Work) (l : LockName) (s : State) : Pooled w l k s (enterPool w k l s) where
  worker := State.worker_setWorker_same s w none
  others := fun _ hv => State.worker_setWorker_other s none hv
  waiting := rfl
  units := rfl
  rest := rfl

theorem takeTillLock_waits {w : Nat} {kd : RequestKind} {k : Work} {s : State}
    (h : s.lockHeld (.till k.req.tillIndex) = true ∨ 8 ≤ s.locks.till.length) :
    takeTillLock w kd k s = enterPool w k (.till k.req.tillIndex) s := by
  rw [takeTillLock, requestLock_refused h]

theorem takeCardLock_waits {w i : Nat} {kd : RequestKind} {k : Work} {s : State} (hi : k.rowIndex = some i)
    (h : s.lockHeld (.card i) = true ∨ 8 ≤ s.locks.card.length) : takeCardLock w kd k s = enterPool w k (.card i) s := by
  have hrow : k.row = i := by rw [Work.row, hi, Option.getD_some]
  rw [takeCardLock, hrow, requestLock_refused h]

/-! ### Steps 3 and 4 of a till request -/

section
variable {kd : RequestKind} {f : Req → Bool} {w : Nat} {k : Work} {t : TillRow} {s : State}

/-- A posted till request comes to step 3. -/
theorem till_request_reaches_three (hf : f k.req = true) (hkd : kd.isTill = true) (hp : Posted kd w k s) :
    beginRequest f w s = stepThree w kd k s := by
  rw [beginRequest_held hp.held hf, stepOne_wellFormed hp.kind hp.wellFormed]
  simp [stepTwo, hkd]

/-- A till row outside the table or in the quarantine list gives no data without a read (R95, R134). -/
theorem readTill_listed {i : Nat} (h : 32768 ≤ i ∨ s.isListed .till i = true) : readTill s i = (s, none) := by
  unfold readTill
  rw [if_pos]
  rcases h with hout | hlisted
  · have hno : decide (i < Config.tills) = false := decide_eq_false (not_lt.mpr hout)
    rw [hno]
    rfl
  · rw [hlisted, Bool.or_true]

theorem stepThree_unread (hread : readTill s k.req.tillIndex = (s, none)) : stepThree w kd k s = declineNow w k .tillUnknown s := by
  rw [stepThree, hread]

theorem stepThree_refused (hread : readTill s k.req.tillIndex = (s, some t)) (h : t.admits k.req = false) :
    stepThree w kd k s = declineNow w k .tillUnknown s := by
  rw [stepThree, hread]
  simp only [h, Bool.false_eq_true, if_false]

theorem stepThree_admits (hread : readTill s k.req.tillIndex = (s, some t)) (h : t.admits k.req = true) :
    stepThree w kd k s = takeTillLock w kd k s := by
  rw [stepThree, hread]
  simp only [h, if_true]

/-- A till request whose till row reads and admits it comes to step 5 with the till lock (R95). -/
theorem till_request_reaches_five (hf : f k.req = true) (hkd : kd.isTill = true) (hp : Posted kd w k s) (ht : TillReads k t s) :
    beginRequest f w s =
      onTillRow w kd (k.tillRowRead t s) (t.atSecondReading s.dir.recovery s.clock.reading.index) (s.tillLocked k) := by
  have hfirst : readTill s k.req.tillIndex = (s, some t) := readTill_clean ht.inTable ht.unlisted ht.stored
  have hsecond : readTill (s.tillLocked k) k.req.tillIndex = (s.tillLocked k, some t) := readTill_clean ht.inTable ht.unlisted ht.stored
  have hlock : requestLock (.till k.req.tillIndex) k.place s = (s.tillLocked k, true) := requestLock_granted ht.free ht.bank
  calc beginRequest f w s = takeTillLock w kd k s := by rw [till_request_reaches_three hf hkd hp, stepThree_admits hfirst ht.admits]
    _ = afterTillLock w kd { k with tillLock := some k.req.tillIndex } (s.tillLocked k) := by simp only [takeTillLock, hlock]
    _ = onTillRow w kd (k.tillRowRead t s) (t.atSecondReading s.dir.recovery s.clock.reading.index) (s.tillLocked k) :=
        afterTillLock_admits hkd hsecond ht.admits

end

/-! ### Steps 5 and 6 -/

section
variable {w : Nat} {kd : RequestKind} {k : Work} {t : TillRow} {s : State}

/-- An entry of the sequence that is the same request answers it as a repeat (R107, R108). -/
theorem onTillRow_repeat {x : RecentEntry} (hs : s.trailOwing s.store.trailPlace = false) (hfind : findRecent k.req.seq t.recent = some x)
    (hstate : x.state ≠ .reversedAhead)
    (hsame : x.kind = some kd ∧ x.digits = k.req.digits ∧ x.requested = some (comparedAmount kd k.req)) :
    onTillRow w kd k t s = commitNow w k (repeatPlan x) s := by
  have hcheck : recentCheck kd k.req t.recent = .isRepeat x := by
    rw [recentCheck, hfind]
    exact if_pos ⟨hstate, hsame⟩
  rw [onTillRow, hcheck]
  exact prepareCommit_free rfl hs

/-- An entry of the sequence that is not declines the request (R107, R110). -/
theorem onTillRow_clash {x : RecentEntry} (hs : s.trailOwing s.store.trailPlace = false) (hfind : findRecent k.req.seq t.recent = some x)
    (hnot : ¬ (x.state ≠ .reversedAhead ∧ x.kind = some kd ∧ x.digits = k.req.digits ∧ x.requested = some (comparedAmount kd k.req))) :
    onTillRow w kd k t s = commitNow w k
      { result := .declined, adds := false
        reason := if x.state = .reversedAhead ∧ kd ≠ .reverse then .alreadyReversed else .sequenceClash } s := by
  have hcheck : recentCheck kd k.req t.recent =
      .decline (if x.state = .reversedAhead ∧ kd ≠ .reverse then .alreadyReversed else .sequenceClash) := by
    rw [recentCheck, hfind]
    refine (if_neg hnot).trans ?_
    split <;> rfl
  rw [onTillRow, hcheck]
  exact prepareCommit_free rfl hs

/-- With a new sequence the standing gate declines (R100). -/
theorem onTillRow_gate {r : Reason} (hs : s.trailOwing s.store.trailPlace = false) (hfresh : findRecent k.req.seq t.recent = none)
    (hgate : standingGate kd t.standing = some r) :
    onTillRow w kd k t s = commitNow w k { result := .declined, reason := r } s := by
  have hcheck : recentCheck kd k.req t.recent = .goOn := by rw [recentCheck, hfresh]
  rw [onTillRow, hcheck]
  simp only [hgate]
  exact declineNow_free hs

/-- A RESTRICTED till may ask BALANCE, HOLD_CANCEL and REVERSE alone (R100). -/
theorem standingGate_restricted (h₁ : kd ≠ .balance) (h₂ : kd ≠ .holdCancel) (h₃ : kd ≠ .reverse) :
    standingGate kd .restricted = some .tillRestricted := by
  cases kd <;> first | rfl | contradiction

/-- A BARRED till may ask REVERSE alone (R100). -/
theorem standingGate_barred (h : kd ≠ .reverse) : standingGate kd .barred = some .tillBarred := by
  cases kd <;> first | rfl | contradiction

end

/-- What a repeat gives as bonus granted depends on the repeated request's kind (R108). -/
theorem repeatedBonus_eq {x : RecentEntry} {kd : RequestKind} (h : x.kind = some kd) :
    repeatedBonus x = if kd = .activate ∨ kd = .load ∨ kd = .reverse then lotSum (x.parts.filter Lot.isBonus) else 0 := by
  unfold repeatedBonus
  rw [h]
  cases kd <;> rfl

/-- Settles O35: step 5 on the entry found, and step 6 where there is none. -/
theorem repeatsClashesAndTheStandingGate : Obligations.RepeatsClashesAndTheStandingGate := by
  unfold Obligations.RepeatsClashesAndTheStandingGate
  rintro mk kd w e s₀ s k t hmk rfl hp ht
  rw [exec_requestCommand (tillCommand_mem_requestCommands hmk), till_request_reaches_five hp.row_ofKind (tillCommand_isTill hmk) hp ht]
  generalize s₀.outside e = s at hp ht
  intro out st
  have hfree : (s.tillLocked k).trailOwing (s.tillLocked k).store.trailPlace = false := hp.trail
  have hrecent : (t.atSecondReading s.dir.recovery s.clock.reading.index).recent = t.recent := t.atSecondReading_recent ..
  refine ⟨fun x hx => ?_, fun hnone => ⟨fun hst h₁ h₂ h₃ => ?_, fun hst h => ?_⟩⟩
  · rw [← hrecent] at hx
    intro same
    refine ⟨fun hstate hsame => ?_, fun hstate hkd => ?_, fun hstate hkd => ?_, fun hstate hnot => ?_⟩
    · rw [onTillRow_repeat (k := k.tillRowRead t s) hfree hx hstate hsame, repeatPlan, repeatedBonus_eq hsame.1]
    · rw [onTillRow_clash (k := k.tillRowRead t s) hfree hx (fun h => h.1 hstate), if_pos ⟨hstate, hkd⟩]
    · rw [onTillRow_clash (k := k.tillRowRead t s) hfree hx (fun h => h.1 hstate), if_neg (fun h => h.2 hkd)]
    · rw [onTillRow_clash (k := k.tillRowRead t s) hfree hx (fun h => hnot h.2), if_neg (fun h => hstate h.1)]
  · rw [← hrecent] at hnone
    rw [onTillRow_gate (k := k.tillRowRead t s) hfree hnone (hst.symm ▸ standingGate_restricted h₁ h₂ h₃ : standingGate kd st = _)]
  · rw [← hrecent] at hnone
    rw [onTillRow_gate (k := k.tillRowRead t s) hfree hnone (hst.symm ▸ standingGate_barred h : standingGate kd st = _)]

/-! ### Steps 7 to 12 -/

section
variable {w i : Nat} {kd : RequestKind} {k : Work} {sel : Selection} {s : State}

theorem rowIndex_some {serial : Nat} (h : serial < sel.programme.rowCount) : rowIndex sel serial = some (sel.programme.rowBase + serial) :=
  if_pos h

theorem rowIndex_none {serial : Nat} (h : sel.programme.rowCount ≤ serial) : rowIndex sel serial = none := if_neg (not_lt.mpr h)

/-- A kind outside the allowed kinds is declined at step 9 (R27). -/
theorem stepsSevenOn_kindNotAllowed (hs : s.trailOwing s.store.trailPlace = false) (hdigit : checkDigitOk k.req.digits = true)
    (hsel : selectProgramme s.tables k.req.digits = some sel) (h : kindAllowed kd sel = false) :
    stepsSevenOn w kd k s = commitNow w { k with selection := some sel } { result := .declined, reason := .kindNotAllowed } s := by
  simp [stepsSevenOn, hdigit, hsel, h, declineNow_free hs]

/-- A serial past the row count is declined at step 10 (R30). -/
theorem stepsSevenOn_unknownCard (hs : s.trailOwing s.store.trailPlace = false) (hdigit : checkDigitOk k.req.digits = true)
    (hsel : selectProgramme s.tables k.req.digits = some sel) (hkind : kindAllowed kd sel = true) (h : rowIndex sel k.req.serial = none) :
    stepsSevenOn w kd k s = commitNow w { k with selection := some sel } { result := .declined, reason := .unknownCard } s := by
  simp [stepsSevenOn, hdigit, hsel, hkind, h, declineNow_free hs]

/-- A listed card row is declined at step 11, but for ROW_WRITE (R134). -/
theorem stepsSevenOn_listed (hs : s.trailOwing s.store.trailPlace = false) (hdigit : checkDigitOk k.req.digits = true)
    (hsel : selectProgramme s.tables k.req.digits = some sel) (hkind : kindAllowed kd sel = true) (hi : rowIndex sel k.req.serial = some i)
    (hlisted : s.isListed .card i = true) (hwrite : kd ≠ .rowWrite) :
    stepsSevenOn w kd k s =
      commitNow w { k with selection := some sel, rowIndex := some i } { result := .declined, reason := .cardUnreadable } s := by
  simp [stepsSevenOn, hdigit, hsel, hkind, hi, hlisted, hwrite, declineNow_free hs]

/-- Any other comes to its card lock (R38 step 12). -/
theorem stepsSevenOn_takesLock (hdigit : checkDigitOk k.req.digits = true) (hsel : selectProgramme s.tables k.req.digits = some sel)
    (hkind : kindAllowed kd sel = true) (hi : rowIndex sel k.req.serial = some i) (hrow : s.isListed .card i = false ∨ kd = .rowWrite) :
    stepsSevenOn w kd k s = takeCardLock w kd { k with selection := some sel, rowIndex := some i } s := by
  have hgo : ¬ (s.isListed .card i = true ∧ kd ≠ .rowWrite) := by
    rintro ⟨hlisted, hwrite⟩
    rcases hrow with h | h
    · simp [h] at hlisted
    · exact hwrite h
  simp only [stepsSevenOn, hdigit, hsel, hkind, hi, Bool.not_true, Bool.false_eq_true, if_false, if_neg hgo]

/-- A free card lock is granted, and the row comes to be read (R118). -/
theorem takeCardLock_granted (hi : k.rowIndex = some i) (hfree : s.lockHeld (.card i) = false) (hbank : s.locks.card.length < 8) :
    takeCardLock w kd k s = afterCardLock w kd { k with cardLock := some i } (s.cardLocked k i) := by
  have hrow : k.row = i := by rw [Work.row, hi, Option.getD_some]
  have hlock : requestLock (.card i) k.place s = (s.cardLocked k i, true) := requestLock_granted hfree hbank
  simp only [takeCardLock, hrow, hlock]

/-! ### Steps 13 to 15 -/

/-- A card row that reads comes to step 14 (R38). -/
theorem afterCardLock_read {row : CardRow} (hkd : kd.gated = true) (hi : k.rowIndex = some i) (hsel : k.selection = some sel)
    (hread : readCard s i = (s, some row)) :
    afterCardLock w kd k s = onCardRow w kd { k with cardReading := some s.clock.reading } sel s.clock.reading row s := by
  cases kd <;> first
    | exact absurd hkd (by decide)
    | simp only [afterCardLock, Work.row, hi, Option.getD_some, hread, hsel]

/-- A card row whose read is uncorrectable joins the quarantine list and declines the request (R134). -/
theorem afterCardLock_unread (hkd : kd.gated = true) (hi : k.rowIndex = some i) (hecc : (s.card i).ecc.outcome = .uncorrectable) :
    afterCardLock w kd k s = declineNow w { k with cardReading := some s.clock.reading } .cardUnreadable (quarantineJoin .card i s) := by
  have hread : readCard s i = (quarantineJoin .card i s, none) := by rw [readCard, hecc]
  cases kd <;> first
    | exact absurd hkd (by decide)
    | simp only [afterCardLock, Work.row, hi, Option.getD_some, hread]

end

/-- Reading keeps what the trail owes. -/
theorem Observed.trailOwing {s t : State} (h : Observed s t) : t.trailOwing t.store.trailPlace = s.trailOwing s.store.trailPlace := by
  have hplace : t.store.trailPlace = s.store.trailPlace := (congrArg Store.trailPlace h.store :)
  have hstatus : t.store.trailStatus = s.store.trailStatus := (congrArg Store.trailStatus h.store :)
  rw [State.trailOwing, State.trailStatusAt, hstatus, hplace, State.trailOwing, State.trailStatusAt]

section
variable {w : Nat} {kd : RequestKind} {k : Work} {sel : Selection} {row : CardRow} {t : Reading} {s : State}

/-- Upkeep keeps the card's state (R9, R18). -/
theorem upkeep_state : (upkeep kd sel t row).state = row.state := by
  unfold upkeep rollWindow
  dsimp only
  split
  · split
    · split <;> rfl
    · split <;> rfl
  · split <;> rfl

theorem upkeep_code : (upkeep kd sel t row).code = row.code := by
  unfold upkeep rollWindow
  dsimp only
  split
  · split
    · split <;> rfl
    · split <;> rfl
  · split <;> rfl

/-- An EMPTY row, or one of another programme, is not the programme's own (R3). -/
theorem owned_eq_false (h : row.state = .empty ∨ row.programme ≠ sel.programmeNo) : owned row sel.programmeNo = false := by
  rcases h with h | h <;> simp [owned, h]

theorem owned_eq_true (hstate : row.state ≠ .empty) (hprogramme : row.programme = sel.programmeNo) : owned row sel.programmeNo = true := by
  simp [owned, hstate, hprogramme]

/-- The card state gate of the till kinds is R4's table. -/
theorem cardGate_of_declines {st : CardState} {r : Reason} (hkd : kd.isTill = true) (h : GateDeclines kd st r) : cardGate kd st = some r := by
  have hgate : cardGate kd st = stateGate kd st := by cases kd <;> first | rfl | exact absurd hkd (by decide)
  rw [hgate]
  rcases h with ⟨rfl, h₁, h₂, rfl⟩ | ⟨rfl, h₁, h₂, h₃, rfl⟩ | ⟨rfl, h₁, rfl⟩ | ⟨rfl, rfl⟩
  · cases kd <;> first | rfl | contradiction
  · cases kd <;> first | rfl | contradiction
  · cases kd <;> first | rfl | contradiction
  · cases kd <;> rfl

theorem onCardRow_notOwned (hs : s.trailOwing s.store.trailPlace = false) (h : owned row sel.programmeNo = false) :
    onCardRow w kd k sel t row s = commitNow w k { result := .declined, reason := .unknownCard } s := by
  simp [onCardRow, h, declineNow_free hs]

/-- A card state that the gate declines: the card's upkeep is kept (R4). -/
theorem onCardRow_gate {r : Reason} (hs : s.trailOwing s.store.trailPlace = false) (howned : owned row sel.programmeNo = true)
    (h : cardGate kd row.state = some r) : onCardRow w kd k sel t row s = commitNow w k
      { result := .declined, reason := r, today := t.day, card := some (upkeep kd sel t row), cardRead := some row
        lapsed := upkeepLapsed kd t row, seen := true } s := by
  rw [onCardRow, howned]
  simp only [Bool.not_true, Bool.false_eq_true, if_false, upkeep_state, h]
  exact prepareCommit_free rfl hs

/-- A code check that declines (R17). -/
theorem onCardRow_code {r : Reason} (howned : owned row sel.programmeNo = true) (hgate : cardGate kd (upkeep kd sel t row).state = none)
    (hreason : (codeCheck kd k.req sel (upkeep kd sel t row)).reason = some r) :
    onCardRow w kd k sel t row s = (let x := codeCheck kd k.req sel (upkeep kd sel t row)
      prepareCommit w k
        { result := .declined, reason := r, today := t.day, card := some x.card, cardRead := some row, lapsed := upkeepLapsed kd t row, seen := true
          flags := { cardLockedNow := x.lockedNow }, status := if x.lockedNow then some ((upkeep kd sel t row).state, .locked) else none } s) := by
  rw [onCardRow, howned]
  simp only [Bool.not_true, Bool.false_eq_true, if_false, hgate, hreason]
  rfl

end

/-- A till kind goes through steps 14 and 15. -/
theorem RequestKind.gated_of_isTill {kd : RequestKind} (h : kd.isTill = true) : kd.gated = true := by rw [RequestKind.gated, h, Bool.true_or, Bool.true_or]

section
variable {kd : RequestKind} {f : Req → Bool} {w i : Nat} {k : Work} {t : TillRow} {sel : Selection} {row : CardRow} {s : State}

/-- A till request comes to its card row with both locks (R38 step 13). -/
theorem till_request_reaches_thirteen (hf : f k.req = true) (hkd : kd.isTill = true) (hp : Posted kd w k s) (ht : TillPasses kd k t s)
    (hdigit : checkDigitOk k.req.digits = true) (hsel : selectProgramme s.tables k.req.digits = some sel) (hallowed : kindAllowed kd sel = true)
    (hi : rowIndex sel k.req.serial = some i) (hlisted : s.isListed .card i = false) (hfree : s.lockHeld (.card i) = false)
    (hbank : s.locks.card.length < 8) :
    beginRequest f w s = afterCardLock w kd
      { k.tillRowRead t s with selection := some sel, rowIndex := some i, cardLock := some i } (s.bothLocked k i) := by
  have hseven := till_request_reaches_seven hf hkd hp ht
  have htwelve := stepsSevenOn_takesLock (w := w) (kd := kd) (k := k.tillRowRead t s) (s := s.tillLocked k) hdigit hsel hallowed hi (.inl hlisted)
  have hgranted := takeCardLock_granted (w := w) (kd := kd) (k := { k.tillRowRead t s with selection := some sel, rowIndex := some i })
    (s := s.tillLocked k) rfl hfree hbank
  exact hseven.trans (htwelve.trans hgranted)

/-- A till request whose card row reads comes to step 14 (R38). -/
theorem till_request_reaches_fourteen (hf : f k.req = true) (hkd : kd.isTill = true) (hp : Posted kd w k s) (ht : TillPasses kd k t s)
    (hc : CardPasses kd k sel i row s) :
    beginRequest f w s = onCardRow w kd (k.tillServed t sel i s) sel s.clock.reading row (s.bothLocked k i) := by
  rw [till_request_reaches_thirteen hf hkd hp ht hc.digit hc.selected hc.allowed hc.serial hc.unlisted hc.free hc.bank]
  have hread : readCard (s.bothLocked k i) i = (s.bothLocked k i, some row) := readCard_clean hc.stored
  exact afterCardLock_read (RequestKind.gated_of_isTill hkd) rfl rfl hread

end

/-- Settles O33: each step's decline by its own lemma, the path there by the lemmas above. -/
theorem tillAdmissionDeclinesByTheFirstFailedTest : Obligations.TillAdmissionDeclinesByTheFirstFailedTest := by
  unfold Obligations.TillAdmissionDeclinesByTheFirstFailedTest
  rintro mk kd w e s₀ s k hmk rfl hp
  rw [exec_requestCommand (tillCommand_mem_requestCommands hmk)]
  generalize s₀.outside e = s at hp
  have htill := tillCommand_isTill hmk
  have hrow := hp.row_ofKind
  intro no
  refine ⟨fun hout => ?_, fun t hin hlisted hstored hnot => ?_, fun t ht => ?_⟩
  · rw [till_request_reaches_three hrow htill hp, stepThree_unread (readTill_listed hout), declineNow_free hp.trail]
  · have hadmits : t.admits k.req = false := by
      rcases hnot with h | h | h <;> simp [TillRow.admits, h]
    rw [till_request_reaches_three hrow htill hp, stepThree_refused (readTill_clean hin hlisted hstored) hadmits, declineNow_free hp.trail]
  · have hfree : (s.tillLocked k).trailOwing (s.tillLocked k).store.trailPlace = false := hp.trail
    have hseven := till_request_reaches_seven hrow htill hp ht
    intro k₁ u
    refine ⟨fun hdigit => ?_, fun hdigit hsel => ?_, fun sel hdigit hsel => ⟨fun hkind => ?_, fun hkind hserial => ?_, fun i hkind hserial hi => ?_⟩⟩
    · rw [hseven, stepsSevenOn_checkDigit (k := k.tillRowRead t s) hfree hdigit]
    · rw [hseven, stepsSevenOn_noProgramme (k := k.tillRowRead t s) hfree hdigit hsel]
    · rw [hseven, stepsSevenOn_kindNotAllowed (k := k.tillRowRead t s) hfree hdigit hsel hkind]
    · rw [hseven, stepsSevenOn_unknownCard (k := k.tillRowRead t s) hfree hdigit hsel hkind (rowIndex_none hserial)]
    · have hindex : rowIndex sel k.req.serial = some i := hi ▸ rowIndex_some hserial
      refine ⟨fun hlisted => ?_, fun hlisted hlock hbank => ⟨fun hecc => ?_, fun row hstored => ⟨fun hnot => ?_, fun r hstate hprogramme hgate => ?_⟩⟩⟩
      · have hwrite : kd ≠ .rowWrite := by
          rintro rfl
          exact absurd htill (by decide)
        rw [hseven, stepsSevenOn_listed (k := k.tillRowRead t s) hfree hdigit hsel hkind hindex hlisted hwrite]
      · have hunread : (quarantineJoin .card i (s.bothLocked k i)).trailOwing (quarantineJoin .card i (s.bothLocked k i)).store.trailPlace =
            false := (quarantineJoin_observed .card i (s.bothLocked k i)).trailOwing.trans hp.trail
        rw [till_request_reaches_thirteen hrow htill hp ht hdigit hsel hkind hindex hlisted hlock hbank,
          afterCardLock_unread (s := s.bothLocked k i) (RequestKind.gated_of_isTill htill) (Eq.refl (some i)) hecc, declineNow_free hunread]
        rfl
      · rw [till_request_reaches_fourteen hrow htill hp ht ⟨hdigit, hsel, hkind, hindex, hlisted, hlock, hbank, hstored⟩,
          onCardRow_notOwned (s := s.bothLocked k i) hp.trail (owned_eq_false hnot)]
      · rw [till_request_reaches_fourteen hrow htill hp ht ⟨hdigit, hsel, hkind, hindex, hlisted, hlock, hbank, hstored⟩,
          onCardRow_gate (s := s.bothLocked k i) hp.trail (owned_eq_true hstate hprogramme) (cardGate_of_declines htill hgate)]
        rfl

end Sys2Proof.Machine
end

section
/-! PROOFS. The code check (spec/01, 1.7; O36), and requests that wait for their locks (spec/06, 6.2; O28). -/

namespace Sys2Proof.Machine

/-! ### The code check -/

section
variable {kd : RequestKind} {r : Req} {sel : Selection} {c : CardRow}

/-- A code is required of BALANCE, REDEEM and HOLD_OPEN on an open card with a code, by the programme's policy (R16). -/
theorem codeRequired_of {amount : Nat} (hkd : kd = .balance ∨ kd = .redeem ∨ kd = .holdOpen) (hstate : c.state = .active ∨ c.state = .suspended)
    (hcode : c.code ≠ none) (hpolicy : sel.programme.codePolicy = .always ∨
      (sel.programme.codePolicy = .above ∧ sel.programme.codeThreshold ≤ amount)) : codeRequired kd amount sel c = true := by
  have hsome : c.code.isSome = true := Option.isSome_iff_ne_none.mpr hcode
  rcases hpolicy with h | ⟨h, hle⟩
  · rcases hkd with rfl | rfl | rfl <;> simp [codeRequired, hstate, hsome, h]
  · rcases hkd with rfl | rfl | rfl <;> simp [codeRequired, hstate, hsome, h, hle]

theorem codeCheck_absent (h : codeRequired kd r.amount sel c = true) (hcode : r.code = [0xFF, 0xFF]) :
    codeCheck kd r sel c = { reason := some .codeMissing, card := c, lockedNow := false } := by
  have habsent : r.codeAbsent = true := decide_eq_true hcode
  rw [codeCheck, if_pos h, if_pos habsent]

/-- A wrong code raises tries, stopping at 7, and locks the card at the limit (R17). -/
theorem codeCheck_wrong (h : codeRequired kd r.amount sel c = true) (hcode : r.code ≠ [0xFF, 0xFF]) (hwrong : c.code ≠ some r.codeValue) :
    codeCheck kd r sel c = if sel.programme.triesLimit ≤ min (c.tries + 1) 7 then
        { reason := some .wrongCode, card := { c with tries := min (c.tries + 1) 7, state := .locked }, lockedNow := true }
      else { reason := some .wrongCode, card := { c with tries := min (c.tries + 1) 7 }, lockedNow := false } := by
  have habsent : ¬ r.codeAbsent = true := by simpa [Req.codeAbsent] using hcode
  rw [codeCheck, if_pos h, if_neg habsent, if_neg hwrong]

end

section
variable {w : Nat} {k : Work} {p : Plan} {s : State}

/-- A plan of another kind goes to its commit without asking for room (R46). -/
theorem prepareCommit_notBalance (hkind : k.kind? ≠ some .balance) (ht : s.trailOwing s.store.trailPlace = false) :
    prepareCommit w k p s = commitNow w k p s := by
  rw [prepareCommit, if_neg (fun h => hkind h.1), commitWork, ht, if_neg Bool.false_ne_true]

/-- A BALANCE that locks its card commits with one entry of room (R46). -/
theorem prepareCommit_roomFree (hkind : k.kind? = some .balance) (hstatus : p.status.isSome = true) (hfits : s.roomFits 1 = true)
    (ht : s.trailOwing s.store.trailPlace = false) :
    prepareCommit w k p s = commitNow w { k with room := k.room + 1 } p (reserveRoom 1 s) := by
  have hroom : askRoom 1 s = (reserveRoom 1 s, true) := askRoom_granted (.inl ⟨.inr hfits, rfl⟩)
  have htrail : (reserveRoom 1 s).trailOwing (reserveRoom 1 s).store.trailPlace = false := ht
  rw [prepareCommit, if_pos ⟨hkind, hstatus⟩, hroom]
  dsimp only
  rw [if_pos rfl, commitWork, htrail, if_neg Bool.false_ne_true]

/-- With no room free, and none found by the refresh, it waits on its worker (R46, R170). -/
theorem prepareCommit_awaitsRoom (hkind : k.kind? = some .balance) (hstatus : p.status.isSome = true) (hshort : s.roomFits 1 = false)
    (hread : linkRead s s.dir.hostWords 8 = none) :
    prepareCommit w k p s = (s.setWorker w (some { k with phase := .awaitRoom p })).setUnits
      { (s.setWorker w (some { k with phase := .awaitRoom p })).units with roomWaiters := s.units.roomWaiters ++ [w] } := by
  have hrefresh : refreshDrained s = s := by rw [refreshDrained, hread]
  have hroom : askRoom 1 s = (s, false) := by
    have hrefused := askRoom_refused Nat.one_ne_zero hshort (hrefresh.symm ▸ hshort)
    rwa [hrefresh] at hrefused
  rw [prepareCommit, if_pos ⟨hkind, hstatus⟩, hroom]
  rfl

end

/-- Settles O36: what the code check answers, and the room a BALANCE asks for. -/
theorem codeCheckDeclines : Obligations.CodeCheckDeclines := by
  unfold Obligations.CodeCheckDeclines
  rintro mk kd w i e s₀ s k t sel row hmk rfl hp ht hc howned
  rw [exec_requestCommand (tillCommand_mem_requestCommands hmk),
    till_request_reaches_fourteen hp.row_ofKind (tillCommand_isTill hmk) hp ht hc]
  generalize s₀.outside e = s at hp ht hc
  intro c k' u p tries hgate hkd hstate hcode hpolicy
  have hrequired : codeRequired kd k'.req.amount sel c = true := codeRequired_of hkd hstate hcode hpolicy
  have hfree : u.trailOwing u.store.trailPlace = false := hp.trail
  have hkind : k'.kind? = some kd := hp.kind
  refine ⟨fun habsent => ?_, fun hpresent hwrong hbelow => ?_, fun hpresent hwrong hlimit => ?_⟩
  · have hcheck : codeCheck kd k'.req sel c = _ := codeCheck_absent hrequired habsent
    rw [onCardRow_code (k := k') howned hgate (congrArg CodeOutcome.reason hcheck), hcheck, ← prepareCommit_free (w := w) (k := k') rfl hfree]
    rfl
  · have hcheck : codeCheck kd k'.req sel c = _ := (codeCheck_wrong hrequired hpresent hwrong).trans (if_neg (not_le.mpr hbelow))
    rw [onCardRow_code (k := k') howned hgate (congrArg CodeOutcome.reason hcheck), hcheck, ← prepareCommit_free (w := w) (k := k') rfl hfree]
    rfl
  · have hcheck : codeCheck kd k'.req sel c = _ := (codeCheck_wrong hrequired hpresent hwrong).trans (if_pos hlimit)
    rw [onCardRow_code (k := k') howned hgate (congrArg CodeOutcome.reason hcheck), hcheck]
    intro q
    refine ⟨fun hother => ?_, fun hbalance hroom => ?_, fun hbalance hroom hread => ?_⟩
    · have hnot : k'.kind? ≠ some .balance := by
        rw [hkind]
        simpa using hother
      exact congrArg Host.Outcome.next (prepareCommit_notBalance hnot hfree)
    · subst hbalance
      exact congrArg Host.Outcome.next (prepareCommit_roomFree (p := q) hkind rfl ((State.roomFits_iff u 1).mpr hroom) hfree)
    · subst hbalance
      exact ⟨_, congrArg Host.Outcome.next (prepareCommit_awaitsRoom (p := q) hkind rfl ((State.roomFits_eq_false u 1).mpr hroom) hread),
        State.worker_setWorker_same u w (some { k' with phase := .awaitRoom q }), rfl, rfl, rfl⟩

/-! ### Waiting for locks -/

section
variable {kd : RequestKind} {f : Req → Bool} {w : Nat} {k : Work} {s : State}

/-- TILL_WRITE and TILL_RELEASE come to their till lock (R40). -/
theorem till_table_request_reaches_four (hf : f k.req = true) (hkd : kd = .tillWrite ∨ kd = .tillRelease) (hp : Posted kd w k s) :
    beginRequest f w s = takeTillLock w kd k s := by
  have hlane : k.onOfficeLane = true := by
    refine hp.authority.resolve_left ?_
    rcases hkd with rfl | rfl <;> decide
  rw [beginRequest_held hp.held hf, stepOne_wellFormed hp.kind hp.wellFormed]
  rcases hkd with rfl | rfl <;> simp [stepTwo, RequestKind.isTill, RequestKind.takesTillLock, hlane]

end

/-- Settles O28: each request's path to its lock, and the lock refused. -/
theorem requestsWaitForTheirLocks : Obligations.RequestsWaitForTheirLocks := by
  unfold Obligations.RequestsWaitForTheirLocks
  constructor
  · rintro mk kd w e s₀ s k t hmk rfl hp hin hlisted hstored hadmits
    rw [exec_requestCommand (tillCommand_mem_requestCommands hmk)]
    generalize s₀.outside e = s at hp hlisted hstored
    have hrow := hp.row_ofKind
    have htill := tillCommand_isTill hmk
    refine ⟨fun hlock => ?_, fun sel i ht hdigit hsel hkind hi hcard hlock => ?_⟩
    · rw [till_request_reaches_three hrow htill hp, stepThree_admits (readTill_clean hin hlisted hstored) hadmits, takeTillLock_waits hlock]
      exact ⟨_, rfl, enterPool_pooled ..⟩
    · have htwelve : stepsSevenOn w kd (k.tillRowRead t s) (s.tillLocked k) = _ :=
        stepsSevenOn_takesLock (k := k.tillRowRead t s) hdigit hsel hkind hi (.inl hcard)
      rw [till_request_reaches_seven hrow htill hp ht, htwelve, takeCardLock_waits (s := s.tillLocked k) rfl hlock]
      exact ⟨_, rfl, enterPool_pooled ..⟩
  · rintro mk row kd w e s₀ s k hmk rfl hp hrow
    rw [exec_requestCommand hmk]
    generalize s₀.outside e = s at hp
    refine ⟨fun sel i hkd hdigit hsel hkind hi hcard hlock => ?_, fun sel hkd hdigit hsel hkind => ?_, fun hkd hlock => ?_⟩
    · have hoffice : kd.isTill = false ∧ kd.hasCard = true := by rcases hkd with rfl | rfl | rfl | rfl <;> decide
      rw [office_card_request_reaches_seven hrow hoffice.1 hoffice.2 hp, stepsSevenOn_takesLock hdigit hsel hkind hi hcard,
        takeCardLock_waits rfl hlock]
      exact ⟨_, rfl, enterPool_pooled ..⟩
    · subst hkd
      rw [office_card_request_reaches_seven hrow rfl rfl hp, stepsSevenOn_kindNotAllowed hp.trail hdigit hsel hkind]
    · rw [till_table_request_reaches_four hrow hkd hp, takeTillLock_waits hlock]
      exact ⟨_, rfl, enterPool_pooled ..⟩

end Sys2Proof.Machine
end

section
/-! PROOFS. Expiry jobs (spec/04, 4.6; O31), and work that goes on from the lock, the room or the trail entry it waited for (spec/06, 6.1; O29, O30). -/

namespace Sys2Proof.Machine

/-! ### A row that joins the quarantine list -/

section
variable {k : RowKind} {i : Nat} {s : State}

/-- With room in the list the row is in it afterwards (R135). -/
theorem isListed_quarantineJoin (hroom : s.store.quarantine.length < Config.quarantineCapacity) : (quarantineJoin k i s).isListed k i = true := by
  cases hlisted : s.isListed k i with
  | true => rw [quarantineJoin, if_pos hlisted, hlisted]
  | false =>
    rw [quarantineJoin, hlisted, if_neg Bool.false_ne_true, if_pos hroom]
    have hkeeps : ∀ u : State, (writeQuarantineCount u).store = u.store := fun u => by
      obtain ⟨m, h, -⟩ := writeQuarantineCount_only u
      rw [h]
      rfl
    have hraise : ∀ u : State, (raiseCause .store u).store = u.store := fun u => by
      obtain ⟨n, h, -⟩ := raiseCause_only .store u
      rw [h]
      rfl
    rw [State.isListed, hkeeps, hraise]
    simp

/-- With the list full the overflow flag is set, and STORE raised (R135). -/
theorem quarantineJoin_full (hlisted : s.isListed k i = false) (hfull : Config.quarantineCapacity ≤ s.store.quarantine.length) :
    quarantineJoin k i s = if s.store.overflow then s else raiseCause .store (s.setStore { s.store with overflow := true }) := by
  rw [quarantineJoin, hlisted, if_neg Bool.false_ne_true, if_neg (not_lt.mpr hfull)]

end

/-! ### The decision of a job (R88, R89, R90) -/

/-- The job's EXPIRY entry is still in the hand list. -/
theorem State.jobEntry_iff (s : State) (hold gen place : Nat) : s.jobEntry hold gen place = true ↔
    ∃ x ∈ s.holds.hand, x.kind = .expiry ∧ x.hold = hold ∧ x.gen = gen ∧ x.place = place := by
  simp only [State.jobEntry, List.any_eq_true, Bool.and_eq_true, decide_eq_true_eq, and_assoc]

section
variable {w hold gen card : Nat} {k : Work} {s : State}

/-- The reading of a job's card row gives no data: the row is in the quarantine list, or joins it. -/
theorem runJob_cardUnread {t : State} (hread : (if s.isListed .card card then (s, none) else readCard s card) = (t, none))
    (ht : t.trailOwing t.store.trailPlace = false) :
    runJob w hold gen card k s = commitNow w { k with cardReading := some s.clock.reading }
      (unreadableCardJob hold gen card k.place s.clock.reading t) t := by
  have hplan : (unreadableCardJob hold gen card k.place s.clock.reading t).status = none := by
    unfold unreadableCardJob
    split <;> rfl
  rw [runJob, hread]
  exact prepareCommit_free hplan ht

/-- The card row reads: the decision is made on the hold row. -/
theorem runJob_cardRead {row : CardRow} {u : State} {p : Plan} (hlisted : s.isListed .card card = false)
    (hstored : s.card card = { val := row, ecc := .clean }) (hdecide : decideJob hold gen k.place s.clock.reading row s = (u, p))
    (hp : p.status = none) (hu : u.trailOwing u.store.trailPlace = false) :
    runJob w hold gen card k s = commitNow w { k with cardReading := some s.clock.reading } p u := by
  have hread : (if s.isListed .card card then (s, none) else readCard s card) = (s, some row) := by
    rw [hlisted, if_neg Bool.false_ne_true, readCard_clean hstored]
  rw [runJob, hread]
  dsimp only
  rw [hdecide]
  exact prepareCommit_free hp hu

/-- The decision once the hold row has read: by the first case of R88. -/
theorem decideJob_read {place : Nat} {t : Reading} {row : CardRow} {h : HoldRow} (hread : readHold s hold = (s, some h)) :
    decideJob hold gen place t row s =
      if ¬ s.jobEntry hold gen place = true ∨ h.isOpen = false ∨ h.gen ≠ gen then (s, idleJob hold t)
      else if t.index < h.deadline then (s, { idleJob hold t with holdOps := [.refile hold] })
      else (s, releaseJob hold t row h) := by
  rw [decideJob, hread]
  dsimp only
  by_cases hentry : s.jobEntry hold gen place = true
  · simp only [hentry, Bool.not_true, Bool.false_eq_true, if_false, not_true_eq_false, false_or]
  · rw [Bool.not_eq_true] at hentry
    simp only [hentry, Bool.not_false, if_true, Bool.false_eq_true, not_false_eq_true, true_or]

/-- An expiry job under its card lock decides as R88 to R90 say. -/
theorem runJob_decides (ht : s.trailOwing s.store.trailPlace = false) :
    JobDecides w hold gen card { k with cardReading := some s.clock.reading } s (.next (runJob w hold gen card k s)) := by
  unfold JobDecides
  intro base entry
  have hentry : s.jobEntry hold gen k.place = true ↔ entry := State.jobEntry_iff ..
  have hunlisted : s.isListed .card card = false → (s.card card).ecc.outcome = .uncorrectable →
      (if s.isListed .card card then (s, none) else readCard s card) = (quarantineJoin .card card s, (none : Option CardRow)) := by
    intro hlisted hecc
    rw [hlisted, if_neg Bool.false_ne_true, readCard, hecc]
  have hjoinOwes : (quarantineJoin .card card s).trailOwing (quarantineJoin .card card s).store.trailPlace = false :=
    (quarantineJoin_observed .card card s).trailOwing.trans ht
  refine ⟨fun hlisted => ?_, fun row t hlisted hstored hread => ?_, fun row h hlisted hstored hhold hrow => ?_, fun hlisted hecc hfull => ?_,
    fun hlisted hecc hroom => ?_⟩
  · have hread : (if s.isListed .card card then (s, none) else readCard s card) = (s, (none : Option CardRow)) := if_pos hlisted
    rw [runJob_cardUnread hread ht, unreadableCardJob, hlisted]
    rfl
  · have hread := readHold_holdUnread hread
    have hobserved := readHold_observed s hold
    rw [hread] at hobserved
    have hdecide : decideJob hold gen k.place s.clock.reading row s = (t, base) := by
      rw [decideJob, hread]
      rfl
    rw [runJob_cardRead hlisted hstored hdecide rfl (hobserved.trailOwing.trans ht)]
  · have hdecide := decideJob_read (gen := gen) (place := k.place) (t := s.clock.reading) (row := row) (readHold_clean hhold hrow)
    refine ⟨fun hidle => ?_, fun hin hopen hgen hearly => ?_, fun hin hopen hgen hdue => ⟨fun a ha => ?_, fun hnone => ?_⟩⟩
    · rw [if_pos (hidle.imp_left (mt hentry.mp))] at hdecide
      rw [runJob_cardRead hlisted hstored hdecide rfl ht]
      rfl
    all_goals
      have hgo : ¬ (¬ s.jobEntry hold gen k.place = true ∨ h.isOpen = false ∨ h.gen ≠ gen) := by
        rintro (hno | hno | hno)
        · exact hno (hentry.mpr hin)
        · simp [hno] at hopen
        · exact hno hgen
      rw [if_neg hgo] at hdecide
    · have hearly : s.clock.reading.index < h.deadline := hearly
      rw [if_pos hearly] at hdecide
      rw [runJob_cardRead hlisted hstored hdecide rfl ht]
      rfl
    all_goals
      have hdue : ¬ s.clock.reading.index < h.deadline := not_lt.mpr hdue
      rw [if_neg hdue] at hdecide
      rw [runJob_cardRead hlisted hstored hdecide rfl ht]
      subst hgen
    · simp only [releaseJob, ha, dropRef, freedRow, nextGen, idleJob]
      rfl
    · simp only [releaseJob, hnone, freedRow, nextGen, idleJob]
      rfl
  · have hjoin := quarantineJoin_full hlisted hfull
    have hkeeps : (quarantineJoin .card card s).isListed .card card = false ∧ (quarantineJoin .card card s).holds = s.holds := by
      rw [hjoin]
      split
      · exact ⟨hlisted, rfl⟩
      · obtain ⟨n, h, -⟩ := raiseCause_only .store (s.setStore { s.store with overflow := true })
        rw [h]
        exact ⟨hlisted, rfl⟩
    have hjob : (quarantineJoin .card card s).jobEntry hold gen k.place = s.jobEntry hold gen k.place := by
      rw [State.jobEntry, hkeeps.2, State.jobEntry]
    rw [runJob_cardUnread (hunlisted hlisted hecc) hjoinOwes, unreadableCardJob, hkeeps.1, hjob]
    intro t
    refine ⟨fun hoverflow => ?_, fun hoverflow => ?_, fun hin => ?_, fun hout => ?_⟩
    · exact hjoin.trans (if_pos hoverflow)
    · have ht' : t = raiseCause .store (s.setStore { s.store with overflow := true }) := by
        rw [hoverflow, if_neg Bool.false_ne_true] at hjoin
        exact hjoin
      rw [ht']
      obtain ⟨n, h, -⟩ := raiseCause_only .store (s.setStore { s.store with overflow := true })
      refine ⟨by rw [h]; rfl, raiseCause_notices .store _, ?_⟩
      rw [h]
      rfl
    · rw [hentry.mpr hin]
      rfl
    · have hout : s.jobEntry hold gen k.place = false := Bool.eq_false_iff.mpr (mt hentry.mp hout)
      rw [hout]
      rfl
  · have hlisted' : (quarantineJoin .card card s).isListed .card card = true := isListed_quarantineJoin hroom
    rw [runJob_cardUnread (hunlisted hlisted hecc) hjoinOwes, unreadableCardJob, hlisted']
    rfl

/-- A job just handed out whose card lock is free goes on under it (R88). -/
theorem beginJob_granted (hw : s.worker w = some k) (htask : k.task = .expiry hold gen card) (hphase : k.phase = .taken)
    (hfree : s.lockHeld (.card card) = false) (hbank : s.locks.card.length < 8) :
    beginJob w s = runJob w hold gen card { k with cardLock := some card } (s.cardLocked k card) := by
  have hlock : requestLock (.card card) k.place s = (s.cardLocked k card, true) := requestLock_granted hfree hbank
  simp only [beginJob, hw, htask, hphase, hlock]

theorem beginJob_waits (hw : s.worker w = some k) (htask : k.task = .expiry hold gen card) (hphase : k.phase = .taken)
    (h : s.lockHeld (.card card) = true ∨ 8 ≤ s.locks.card.length) : beginJob w s = enterPool w k (.card card) s := by
  simp only [beginJob, hw, htask, hphase, requestLock_refused (l := .card card) (p := k.place) h]

end

/-- Settles O31: the lock, then `runJob_decides`. -/
theorem expiryJobDecides : Obligations.ExpiryJobDecides := by
  unfold Obligations.ExpiryJobDecides
  rintro w hold gen card e s₀ s k rfl hw htask hphase ht
  have hexec : exec (.expiryJob w e) s₀ = .next (beginJob w (s₀.outside e)) := rfl
  rw [hexec]
  generalize s₀.outside e = s at hw ht
  refine ⟨fun hlock => ⟨_, rfl, ?_⟩, fun hfree hbank => ?_⟩
  · rw [beginJob_waits hw htask hphase hlock]
    exact enterPool_pooled ..
  · rw [beginJob_granted hw htask hphase hfree hbank]
    have htrail : (s.cardLocked k card).trailOwing (s.cardLocked k card).store.trailPlace = false := ht
    exact runJob_decides (k := { k with cardLock := some card }) htrail

end Sys2Proof.Machine
end

section
/-! PROOFS. Looks at every lane, and grants of room to the waiting BALANCE requests (spec/08, 8.2; spec/09, 9.4; O19, O30). -/

namespace Sys2Proof.Machine

/-! ### Looks at every lane (R151) -/

/-- The lanes below `m` of state `s` have been looked at, which gives `t`. -/
structure LookedBelow (m : Nat) (s t : State) : Prop where
  looked : ∀ n l, n < m → s.laneEntry n = some l → s.control.engine = .running → (s.laneState n).isOpen = true → t.laneState n = s.lookedAt n l
  others : ∀ n, (m ≤ n ∨ s.laneEntry n = none ∨ s.control.engine ≠ .running ∨ (s.laneState n).isOpen = false) → t.laneState n = s.laneState n
  served : t.lanes.lastServed = s.lanes.lastServed
  rest : { t with lanes := s.lanes } = s

/-- A look that does not come about (R150). -/
theorem look_none {n : Nat} {s : State} (h : s.laneEntry n = none ∨ s.control.engine ≠ .running ∨ (s.laneState n).isOpen = false) :
    look n s = s := by
  unfold look
  split
  · rfl
  · next l hl =>
    rcases h with h | h | h
    · simp [hl] at h
    · exact if_neg fun hlook => h hlook.1
    · exact if_neg fun hlook => by simp [h] at hlook

section
variable {s t : State}

/-- Looks change lanes alone, so what a look goes by stays. -/
theorem LookedBelow.laneEntry {m : Nat} (h : LookedBelow m s t) (n : Nat) : t.laneEntry n = s.laneEntry n :=
  (congrArg (fun x : State => x.laneEntry n) h.rest :)

theorem LookedBelow.control {m : Nat} (h : LookedBelow m s t) : t.control = s.control := (congrArg State.control h.rest :)

theorem LookedBelow.link {m : Nat} (h : LookedBelow m s t) : t.link = s.link := (congrArg State.link h.rest :)

/-- One more lane looked at. -/
theorem LookedBelow.succ {m : Nat} (h : LookedBelow m s t) : LookedBelow (m + 1) s (look m t) := by
  have hstate : t.laneState m = s.laneState m := h.others m (.inl le_rfl)
  by_cases hnone : s.laneEntry m = none ∨ s.control.engine ≠ .running ∨ (s.laneState m).isOpen = false
  · rw [look_none (by rwa [h.laneEntry, h.control, hstate])]
    refine ⟨fun n l hn hentry hrun hopen => ?_, fun n hn => ?_, h.served, h.rest⟩
    · rcases Nat.lt_succ_iff_lt_or_eq.mp hn with hlt | rfl
      · exact h.looked n l hlt hentry hrun hopen
      · exact absurd hnone (by simp [hentry, hrun, hopen])
    · rcases hn with hn | hn
      · exact h.others n (.inl (Nat.le_of_succ_le hn))
      · exact h.others n (.inr hn)
  · obtain ⟨hentry, hrest⟩ := not_or.mp hnone
    obtain ⟨hrun, hopen⟩ := not_or.mp hrest
    obtain ⟨l, hl⟩ := Option.ne_none_iff_exists'.mp hentry
    rw [not_not] at hrun
    rw [Bool.not_eq_false] at hopen
    rw [look_open (n := m) (l := l) (by rw [h.laneEntry, hl]) (by rw [h.control, hrun]) (by rw [hstate, hopen])]
    refine ⟨fun n l' hn hentry' hrun' hopen' => ?_, fun n hn => ?_, h.served, ?_⟩
    · rcases Nat.lt_succ_iff_lt_or_eq.mp hn with hlt | rfl
      · rw [State.laneState_setLaneState_other _ _ hlt.ne]
        exact h.looked n l' hlt hentry' hrun' hopen'
      · rw [hl, Option.some.injEq] at hentry'
        subst hentry'
        rw [State.laneState_setLaneState_same, State.lookedAt, hstate, slotIsPosted, linkRead, h.link]
        rfl
    · have hne : n ≠ m := by
        rintro rfl
        rcases hn with hn | hn
        · exact absurd hn (Nat.not_succ_le_self n)
        · exact hnone hn
      rw [State.laneState_setLaneState_other _ _ hne]
      rcases hn with hn | hn
      · exact h.others n (.inl (Nat.le_of_succ_le hn))
      · exact h.others n (.inr hn)
    · exact h.rest

end

theorem looks_lookedBelow (m : Nat) (s : State) : LookedBelow m s ((List.range m).foldl (fun s n => look n s) s) := by
  induction m with
  | zero => exact ⟨fun _ _ hn => absurd hn (Nat.not_lt_zero _), fun _ _ => rfl, rfl, rfl⟩
  | succ m ih =>
    rw [List.range_succ, List.foldl_append]
    exact ih.succ

/-- Every lane of the table is looked at. -/
theorem lookAll_looked (s : State) : LookedBelow s.dir.laneCount s (lookAll s) := looks_lookedBelow _ s

/-- A lane with an entry is below the lane count. -/
theorem State.lt_of_laneEntry {s : State} {n : Nat} {l : LaneEntry} (h : s.laneEntry n = some l) : n < s.dir.laneCount := by
  by_contra hn
  rw [State.laneEntry, if_neg hn] at h
  exact absurd h (by simp)

/-! ### Room granted to the waiting BALANCE requests (R46, R170) -/

/-- The first `g` of the waiting requests `ks` have been granted one entry each. -/
structure Granted (ks : List (Nat × Work × Plan)) (g : Nat) (s t : State) : Prop where
  journal : t.journal = { s.journal with reserved := s.journal.reserved + g }
  waiters : t.units.roomWaiters = (ks.drop g).map (·.1)
  granted : ∀ x ∈ ks.take g, t.worker x.1 = some { x.2.1 with phase := .roomGranted x.2.2, room := x.2.1.room + 1 }
  others : ∀ w, (∀ x ∈ ks.take g, x.1 ≠ w) → t.worker w = s.worker w
  units : { t.units with workers := s.units.workers, roomWaiters := s.units.roomWaiters } = s.units
  rest : { t with journal := s.journal, units := s.units } = s

/-- The free room, in entries. -/
def State.freeRoom (s : State) : Nat := s.dir.journalCount - (s.journal.written - s.journal.cached + s.journal.reserved)

/-- One entry granted to the oldest waiting request. -/
def grantOne (w : Nat) (k : Work) (p : Plan) (s : State) : State :=
  reserveRoom 1 (s.setWorker w (some { k with phase := .roomGranted p, room := k.room + 1 }))

theorem grantWaiting_cons {w : Nat} {k : Work} {p : Plan} {ws : List Nat} {s : State} (hfits : s.roomFits 1 = true)
    (hw : s.worker w = some k) (hphase : k.phase = .awaitRoom p) : grantWaiting (w :: ws) s = grantWaiting ws (grantOne w k p s) := by
  rw [grantWaiting, if_pos hfits]
  simp only [hw, hphase]
  rfl

theorem grantWaiting_short {w : Nat} {ws : List Nat} {s : State} (hshort : s.roomFits 1 = false) :
    grantWaiting (w :: ws) s = s.setUnits { s.units with roomWaiters := w :: ws } := by
  rw [grantWaiting, hshort, if_neg Bool.false_ne_true]

/-- Waiting requests are granted one entry each, oldest first, while room remains (R170). -/
theorem grantWaiting_granted (ks : List (Nat × Work × Plan)) (s : State) (hnodup : (ks.map (·.1)).Nodup)
    (hwaiting : ∀ x ∈ ks, s.worker x.1 = some x.2.1 ∧ x.2.1.phase = .awaitRoom x.2.2) :
    Granted ks (min ks.length s.freeRoom) s (grantWaiting (ks.map (·.1)) s) := by
  induction ks generalizing s with
  | nil =>
    rw [List.length_nil, Nat.zero_min]
    exact ⟨rfl, rfl, fun x hx => absurd hx (by simp), fun _ _ => rfl, rfl, rfl⟩
  | cons x ks ih =>
    obtain ⟨w, k, p⟩ := x
    obtain ⟨hw, hphase⟩ := hwaiting (w, k, p) (by simp)
    rw [List.map_cons, List.nodup_cons] at hnodup
    obtain ⟨hnotin, hnodup⟩ := hnodup
    rw [List.map_cons]
    cases hfits : s.roomFits 1 with
    | false =>
      rw [State.roomFits_eq_false] at hfits
      have hroom : s.freeRoom = 0 := by
        unfold State.freeRoom
        omega
      rw [hroom, Nat.min_zero, grantWaiting_short ((State.roomFits_eq_false s 1).mpr hfits)]
      exact ⟨rfl, rfl, fun x hx => absurd hx (by simp), fun _ _ => rfl, rfl, rfl⟩
    | true =>
      have hother : ∀ v, v ≠ w → (grantOne w k p s).worker v = s.worker v := fun v hv =>
        State.worker_setWorker_other s (some { k with phase := .roomGranted p, room := k.room + 1 }) hv
      have hsame : (grantOne w k p s).worker w = some { k with phase := .roomGranted p, room := k.room + 1 } :=
        State.worker_setWorker_same s w (some { k with phase := .roomGranted p, room := k.room + 1 })
      have hne : ∀ x ∈ ks, x.1 ≠ w := fun x hx heq => hnotin (List.mem_map.mpr ⟨x, hx, heq⟩)
      have hih := ih (grantOne w k p s) hnodup fun x hx => by
        rw [hother _ (hne x hx)]
        exact hwaiting x (List.mem_cons_of_mem _ hx)
      rw [grantWaiting_cons hfits hw hphase]
      have hroom : min (ks.length + 1) s.freeRoom = min ks.length (grantOne w k p s).freeRoom + 1 := by
        rw [State.roomFits_iff] at hfits
        have hfree : (grantOne w k p s).freeRoom =
            s.dir.journalCount - (s.journal.written - s.journal.cached + (s.journal.reserved + 1)) := rfl
        rw [hfree]
        unfold State.freeRoom
        omega
      rw [List.length_cons, hroom]
      generalize min ks.length (grantOne w k p s).freeRoom = g at hih
      refine ⟨?_, hih.waiters, fun x hx => ?_, fun v hv => ?_,
        (congrArg (fun x : Units => { x with workers := s.units.workers, roomWaiters := s.units.roomWaiters }) hih.units :),
        (congrArg (fun x : State => { x with journal := s.journal, units := s.units }) hih.rest :)⟩
      · rw [hih.journal]
        show ({ s.journal with reserved := s.journal.reserved + 1 + g } : Journal) = _
        rw [Nat.add_assoc, Nat.add_comm 1 g]
      · rw [List.take_succ_cons, List.mem_cons] at hx
        rcases hx with rfl | hx
        · rw [hih.others w fun y hy => hne y (List.mem_of_mem_take hy)]
          exact hsame
        · exact hih.granted x hx
      · rw [List.take_succ_cons, List.forall_mem_cons] at hv
        rw [hih.others v hv.2]
        exact hother v hv.1.symm

/-! ### The refresh of the drained count (R171) -/

/-- The reading that a refresh keeps: it never falls, and never passes the written count (R171). -/
theorem refreshedCount_of_lt {j : Journal} {v : Nat} (h : j.cached < refreshedCount j v) : refreshedCount j v = max j.cached (min v j.written) := by
  unfold refreshedCount at h ⊢
  split_ifs at h ⊢ <;> omega

theorem max_eq_cached_of_not_lt {j : Journal} {v : Nat} (h : ¬ j.cached < refreshedCount j v) : max j.cached (min v j.written) = j.cached := by
  unfold refreshedCount at h
  split_ifs at h <;> omega

theorem refreshDrained_unread {s : State} (h : linkRead s s.dir.hostWords 8 = none) : refreshDrained s = s := by rw [refreshDrained, h]

/-- A refresh that reads a count no higher than the cached one changes nothing. -/
theorem refreshDrained_same {s : State} {bs : List Byte} (h : linkRead s s.dir.hostWords 8 = some bs)
    (hle : ¬ s.journal.cached < refreshedCount s.journal (leNat bs)) : refreshDrained s = s := by
  rw [refreshDrained, h]
  exact if_neg hle

/-- One that raises it tests the mark and grants the waiting requests. -/
theorem refreshDrained_raised {s : State} {bs : List Byte} (h : linkRead s s.dir.hostWords 8 = some bs)
    (hlt : s.journal.cached < refreshedCount s.journal (leNat bs)) :
    refreshDrained s = grantBalances (testMark (s.setJournal { s.journal with cached := refreshedCount s.journal (leNat bs) })) := by
  rw [refreshDrained, h]
  exact if_pos hlt

/-- The mark's test: the fill is kept, and JOURNAL raised when it reaches the mark (R172). -/
structure MarkTested (s t : State) : Prop where
  journal : t.journal = { s.journal with fillTested := s.journal.written - s.journal.cached }
  notices : t.notices = { s.notices with raised :=
    if s.journal.fillTested < s.dir.mark ∧ s.dir.mark ≤ s.journal.written - s.journal.cached then s.notices.raised.add .journal
    else s.notices.raised }
  link : { t.link with msiSent := s.link.msiSent } = s.link
  rest : { t with journal := s.journal, notices := s.notices, link := s.link } = s

theorem testMark_tested (s : State) : MarkTested s (testMark s) := by
  unfold testMark
  dsimp only
  split
  · next h =>
    have h : s.journal.fillTested < s.dir.mark ∧ s.dir.mark ≤ s.journal.written - s.journal.cached := h
    obtain ⟨n, hraise, -⟩ := raiseCause_only .journal (s.setJournal { s.journal with fillTested := s.journal.fill })
    rw [hraise]
    exact ⟨rfl, by rw [if_pos h]; rfl, rfl, rfl⟩
  · next h =>
    have h : ¬ (s.journal.fillTested < s.dir.mark ∧ s.dir.mark ≤ s.journal.written - s.journal.cached) := h
    exact ⟨rfl, by rw [if_neg h]; rfl, rfl, rfl⟩

/-! ### The nudge of 255 (R151, R171) -/

/-- What a refresh leaves that comes to the drained count `c` and grants `g` of the waiting requests `ks` an entry each (R170, R171). -/
structure Refreshed (c g : Nat) (ks : List (Nat × Work × Plan)) (s t : State) : Prop where
  journal : t.journal = { s.journal with
    cached := c, fillTested := if s.journal.cached < c then s.journal.written - c else s.journal.fillTested
    reserved := s.journal.reserved + g }
  notices : t.notices = { s.notices with raised :=
    if s.journal.cached < c ∧ s.journal.fillTested < s.dir.mark ∧ s.dir.mark ≤ s.journal.written - c then s.notices.raised.add .journal
    else s.notices.raised }
  waiters : t.units.roomWaiters = (ks.drop g).map (·.1)
  granted : ∀ x ∈ ks.take g, t.worker x.1 = some { x.2.1 with phase := .roomGranted x.2.2, room := x.2.1.room + 1 }
  others : ∀ w, (∀ x ∈ ks.take g, x.1 ≠ w) → t.worker w = s.worker w
  units : { t.units with workers := s.units.workers, roomWaiters := s.units.roomWaiters } = s.units
  link : { t.link with msiSent := s.link.msiSent } = s.link
  rest : { t with journal := s.journal, notices := s.notices, link := s.link, units := s.units } = s

/-- What a refresh leaves that reads a count (R171). -/
theorem refreshDrained_refreshed {s : State} {bs : List Byte} {ks : List (Nat × Work × Plan)} (hread : linkRead s s.dir.hostWords 8 = some bs)
    (hks : s.units.roomWaiters = ks.map (·.1)) (hnodup : (ks.map (·.1)).Nodup)
    (hwaiting : ∀ x ∈ ks, s.worker x.1 = some x.2.1 ∧ x.2.1.phase = .awaitRoom x.2.2) :
    (let c := max s.journal.cached (min (leNat bs) s.journal.written)
    Refreshed c (if s.journal.cached < c then min ks.length (s.dir.journalCount - (s.journal.written - c + s.journal.reserved)) else 0) ks s
      (refreshDrained s)) := by
  intro c
  by_cases hrise : s.journal.cached < refreshedCount s.journal (leNat bs)
  · have hc : refreshedCount s.journal (leNat bs) = c := refreshedCount_of_lt hrise
    rw [refreshDrained_raised hread hrise]
    rw [hc] at hrise ⊢
    clear_value c
    let u := s.setJournal { s.journal with cached := c }
    have htest : MarkTested u (testMark u) := testMark_tested u
    have hunits : (testMark u).units = s.units := (congrArg State.units htest.rest :)
    have hworker : ∀ w, (testMark u).worker w = s.worker w := fun w => by rw [State.worker, hunits, State.worker]
    have hdir : (testMark u).dir = s.dir := (congrArg State.dir htest.rest :)
    have hgranted := grantWaiting_granted ks (testMark u) hnodup fun x hx => by
      rw [hworker]
      exact hwaiting x hx
    rw [← hks, ← hunits] at hgranted
    have hroom : (testMark u).freeRoom = s.dir.journalCount - (s.journal.written - c + s.journal.reserved) := by
      rw [State.freeRoom, hdir, htest.journal]
      rfl
    rw [hroom] at hgranted
    rw [if_pos hrise]
    generalize min ks.length (s.dir.journalCount - (s.journal.written - c + s.journal.reserved)) = g at hgranted
    have hend : grantBalances (testMark u) = grantWaiting (testMark u).units.roomWaiters (testMark u) := rfl
    rw [hend]
    generalize grantWaiting (testMark u).units.roomWaiters (testMark u) = t at hgranted
    refine ⟨?_, ?_, hgranted.waiters, hgranted.granted, fun w hw => (hgranted.others w hw).trans (hworker w), ?_, ?_, ?_⟩
    · rw [hgranted.journal, htest.journal, if_pos hrise]
      rfl
    · have hnotices : t.notices = (testMark u).notices := (congrArg State.notices hgranted.rest :)
      rw [hnotices, htest.notices]
      simp only [hrise, true_and]
      rfl
    · rw [← hunits]
      exact hgranted.units
    · have hlink : t.link = (testMark u).link := (congrArg State.link hgranted.rest :)
      rw [hlink]
      exact htest.link
    · have hrest := congrArg (fun x : State => { x with journal := s.journal, notices := s.notices, link := s.link, units := s.units }) hgranted.rest
      exact hrest.trans (congrArg (fun x : State => { x with journal := s.journal, units := s.units }) htest.rest)
  · have hc : c = s.journal.cached := max_eq_cached_of_not_lt hrise
    rw [refreshDrained_same hread hrise, hc]
    have hstays : ¬ s.journal.cached < s.journal.cached := lt_irrefl _
    refine ⟨by rw [if_neg hstays, if_neg hstays]; rfl, by rw [if_neg (fun h => hstays h.1)], ?_, fun x hx => ?_, fun _ _ => rfl, rfl, rfl, rfl⟩
    · rw [if_neg hstays, hks, List.drop_zero]
    · rw [if_neg hstays] at hx
      exact absurd hx (by simp)

/-- In RUNNING the nudge looks at the lanes and refreshes, in DRAINING it refreshes alone: `u` is the state refreshed. -/
theorem nudgeAll_lookedThen {s : State} (h : s.control.engine = .running ∨ s.control.engine = .draining) :
    ∃ u, nudgeAll s = refreshDrained u ∧ LookedBelow s.dir.laneCount s u := by
  rcases h with h | h
  · exact ⟨lookAll s, by simp only [nudgeAll, h], lookAll_looked s⟩
  · refine ⟨s, by simp only [nudgeAll, h], fun n l _ _ hrun => ?_, fun _ _ => rfl, rfl, rfl⟩
    rw [h] at hrun
    exact EngineState.noConfusion hrun

/-- Settles O19: `nudgeWrite` by its value, and for 255 the looks followed by the refresh. -/
theorem nudgesLookAndReadTheDrainedCount : Obligations.NudgesLookAndReadTheDrainedCount := by
  unfold Obligations.NudgesLookAndReadTheDrainedCount
  rintro e s₀ s rfl
  have hall : exec (.nudge255 e) s₀ = .next (nudgeAll (s₀.outside e)) := rfl
  have hone : ∀ v : Word32, v ≠ 255 → exec (.nudge v e) s₀ = .next (nudgeWrite v (s₀.outside e)) := fun v hv => by
    have hwrite := exec_nudgeWrite v e s₀
    rwa [if_neg hv] at hwrite
  generalize s₀.outside e = s at hall hone
  rw [hall]
  refine ⟨fun n l hn hentry hrun hopen => ?_, fun v hv hnot => ?_, fun hengine => ?_, fun hdrain => ?_, fun hrun hdrain => ?_⟩
  · have hvalue : (BitVec.ofNat 32 n).toNat = n := by simp; omega
    have hne : BitVec.ofNat 32 n ≠ 255 := fun h => by
      have := congrArg BitVec.toNat h
      rw [hvalue] at this
      simp at this
      omega
    rw [hone _ hne, nudgeWrite, hvalue, if_neg (by omega), if_pos (State.lt_of_laneEntry hentry), look_open hentry hrun hopen]
  · have hne : v.toNat ≠ 255 := fun h => hv (BitVec.eq_of_toNat_eq h)
    rw [hone v hv, nudgeWrite, if_neg hne]
    split
    · next hlt =>
      rw [look_none]
      rcases hnot with h | h | h
      · exact .inr (.inl h)
      · exact absurd hlt (not_lt.mpr h)
      · exact .inr (.inr h)
    · rfl
  · obtain ⟨u, hnudge, hu⟩ := nudgeAll_lookedThen hengine
    rw [hnudge]
    intro looked
    have hlooked : ∀ t : State, t.lanes = u.lanes → looked t := fun t ht => by
      have hstate : ∀ n, t.laneState n = u.laneState n := fun n => by rw [State.laneState, ht, State.laneState]
      refine ⟨fun n l hentry hrun hopen => ?_, fun n hn => ?_, by rw [ht, hu.served]⟩
      · rw [hstate, hu.looked n l (State.lt_of_laneEntry hentry) hentry hrun hopen]
      · rw [hstate]
        refine hu.others n (.inr (hn.imp_right (.imp_left fun h => ?_)))
        rw [h]
        exact EngineState.noConfusion
    have hjournal : u.journal = s.journal := (congrArg State.journal hu.rest :)
    have hunits : u.units = s.units := (congrArg State.units hu.rest :)
    have hdir : u.dir = s.dir := (congrArg State.dir hu.rest :)
    have hnotices : u.notices = s.notices := (congrArg State.notices hu.rest :)
    have hreads : linkRead u u.dir.hostWords 8 = linkRead s s.dir.hostWords 8 := by rw [linkRead, hu.link, hdir, linkRead]
    refine ⟨fun hread => ?_, fun bs ks hread hks hnodup hwaiting => ?_⟩
    · rw [refreshDrained_unread (hreads.trans hread)]
      exact ⟨u, rfl, hlooked u rfl, hu.rest⟩
    · have hrefresh := refreshDrained_refreshed (hreads.trans hread) (by rw [hunits, hks]) hnodup (fun x hx => by
        rw [State.worker, hunits]
        exact hwaiting x hx)
      have hlanes : (refreshDrained u).lanes = u.lanes := (refreshDrained_roomOnly u).lanes
      rw [hjournal, hdir] at hrefresh
      generalize refreshDrained u = t at hrefresh hlanes
      intro c fill granted
      refine ⟨t, rfl, hlooked t hlanes, ?_, ?_, hrefresh.waiters, hrefresh.granted, fun w hw => ?_, ?_, ?_, ?_⟩
      · rw [hrefresh.journal, hjournal]
      · rw [hrefresh.notices, hjournal, hdir, hnotices]
      · rw [hrefresh.others w hw, State.worker, hunits, State.worker]
      · rw [← hunits]
        exact hrefresh.units
      · rw [← hu.link]
        exact hrefresh.link
      · have hrest := congrArg (fun x : State =>
          { x with lanes := s.lanes, journal := s.journal, notices := s.notices, link := s.link, units := s.units }) hrefresh.rest
        exact hrest.trans (congrArg (fun x : State => { x with journal := s.journal, notices := s.notices, link := s.link, units := s.units }) hu.rest)
  · simp only [nudgeAll, hdrain]
  · unfold nudgeAll
    split
    · next h => exact absurd h hrun
    · next h => exact absurd h hdrain
    · rfl

/-! ### Waiting commits (R46, R142) -/

/-- Nothing is granted when no one waits, or no room is free. -/
theorem grantBalances_none {s : State} (h : s.units.roomWaiters = [] ∨ s.roomFits 1 = false) : grantBalances s = s := by
  have hnil : s.units.roomWaiters = [] → grantBalances s = s := fun hnone => by
    rw [grantBalances, hnone, grantWaiting, ← hnone]
    rfl
  rcases h with h | hshort
  · exact hnil h
  · cases hws : s.units.roomWaiters with
    | nil => exact hnil hws
    | cons w ws =>
      rw [grantBalances, hws, grantWaiting_short hshort, ← hws]
      rfl

/-- A commit goes on when the trail entry at the write place owes nothing, and else waits (R142). -/
theorem commitWork_free {w : Nat} {k : Work} {p : Plan} {s : State} (h : s.trailOwing s.store.trailPlace = false) :
    commitWork w k p s = commitNow w k p s := by rw [commitWork, h, if_neg Bool.false_ne_true]

theorem commitWork_owing {w : Nat} {k : Work} {p : Plan} {s : State} (h : s.trailOwing s.store.trailPlace = true) :
    commitWork w k p s = s.setWorker w (some { k with phase := .awaitTrail p }) := by rw [commitWork, if_pos h]

/-- Settles O30: the grant of the only waiter, or none, and then the trail entry. -/
theorem waitingCommitsGoOn : Obligations.WaitingCommitsGoOn := by
  unfold Obligations.WaitingCommitsGoOn
  rintro w e s₀ s k p rfl hw
  have hroom : exec (.balanceRoomGranted w e) s₀ = .next (roomGranted w (s₀.outside e)) := rfl
  have htrail : exec (.trailPlaceFreed w e) s₀ = .next (trailFreed w (s₀.outside e)) := rfl
  rw [hroom, htrail]
  generalize s₀.outside e = s at hw
  refine ⟨fun hphase hwaiters => ⟨fun hfits ht => ?_, fun hshort => ?_⟩, fun hphase hnone => ?_, fun hphase => ⟨fun hjournal hanswer => ?_, fun howing => ?_⟩⟩
  · have hgrant : grantBalances s = (grantOne w k p s).setUnits { (grantOne w k p s).units with roomWaiters := [] } := by
      rw [grantBalances, hwaiters, grantWaiting_cons ((State.roomFits_iff s 1).mpr hfits) hw hphase]
      rfl
    let t := (grantOne w k p s).setUnits { (grantOne w k p s).units with roomWaiters := [] }
    have hworker : t.worker w = some { k with phase := .roomGranted p, room := k.room + 1 } :=
      State.worker_setWorker_same s w (some { k with phase := .roomGranted p, room := k.room + 1 })
    have htrail : t.trailOwing t.store.trailPlace = false := ht
    refine ⟨t, hworker, fun v hv => ?_, rfl, rfl, rfl, rfl, rfl, rfl, ?_⟩
    · exact State.worker_setWorker_other s (some { k with phase := .roomGranted p, room := k.room + 1 }) hv
    · have hgrant : grantBalances s = t := hgrant
      simp only [roomGranted, hgrant, hworker]
      rw [commitWork_free htrail]
  · have hgrant := grantBalances_none (.inr ((State.roomFits_eq_false s 1).mpr hshort))
    simp only [roomGranted, hgrant, hw, hphase]
  · have hgrant := grantBalances_none (hnone.imp_right (State.roomFits_eq_false s 1).mpr)
    simp only [roomGranted, hgrant, hw, hphase]
    exact ⟨fun ht => by rw [commitWork_free ht], fun ht => by rw [commitWork_owing ht]⟩
  · have howes : s.trailOwing s.store.trailPlace = false := by simp [State.trailOwing, hjournal, hanswer]
    simp only [trailFreed, hw, hphase, howes, Bool.false_eq_true, if_false]
  · have howes : s.trailOwing s.store.trailPlace = true := by rcases howing with h | h <;> simp [State.trailOwing, h]
    simp only [trailFreed, hw, hphase, howes, if_true]

end Sys2Proof.Machine
end

section
/-! PROOFS. Ready work that goes on from the lock it received (spec/06, 6.1; spec/04, 4.6; O29). -/

namespace Sys2Proof.Machine

/-! ### The worker that goes on -/

/-- Worker `w` takes work `k` from the head of the ready queue in state `s`, or already holds it; `u` is the state it goes on in. -/
def GoesOn (w : Nat) (k : Work) (s u : State) : Prop :=
  (w < 8 ∧ s.worker w = none ∧ (s.control.engine = .running ∨ s.control.engine = .draining) ∧
      ∃ r, s.units.ready = k :: r ∧ u = (s.setUnits { s.units with ready := r }).setWorker w (some k)) ∨
    (s.worker w = some k ∧ u = s)

theorem State.dispatches_iff (s : State) : s.dispatches = true ↔ s.control.engine = .running ∨ s.control.engine = .draining := by
  simp [State.dispatches]

section
variable {w : Nat} {k : Work} {s u : State} {f : Phase → Bool}

/-- Work that received the lock asked for is taken, or is held already. -/
theorem resumeFrom_goesOn (h : GoesOn w k s u) (hf : f k.phase = true) : resumeFrom f w s = u ∧ u.worker w = some k := by
  rcases h with ⟨hw, hfree, hengine, r, hready, rfl⟩ | ⟨hheld, rfl⟩
  · refine ⟨?_, State.worker_setWorker_same (s.setUnits { s.units with ready := r }) w (some k)⟩
    rw [resumeFrom, if_pos ⟨hw, hfree, s.dispatches_iff.mpr hengine⟩]
    simp only [hready, hf, if_true, takeReady_some hready]
  · refine ⟨?_, hheld⟩
    rw [resumeFrom, if_neg]
    rintro ⟨-, hfree, -⟩
    simp [hheld] at hfree

/-- Work that waits for something else stays where it is. -/
theorem resumeFrom_other (h : GoesOn w k s u) (hf : f k.phase = false) :
    resumeFrom f w s = s ∧ (s.worker w = none ∨ s.worker w = some k) := by
  rcases h with ⟨hw, hfree, hengine, r, hready, -⟩ | ⟨hheld, -⟩
  · refine ⟨?_, .inl hfree⟩
    rw [resumeFrom, if_pos ⟨hw, hfree, s.dispatches_iff.mpr hengine⟩]
    simp only [hready, hf, Bool.false_eq_true, if_false]
  · refine ⟨?_, .inr hheld⟩
    rw [resumeFrom, if_neg]
    rintro ⟨-, hfree, -⟩
    simp [hheld] at hfree

/-- With no work to take, a FREE worker stays FREE. -/
theorem resumeFrom_idle (h : 8 ≤ w ∨ s.units.ready = [] ∨ (s.control.engine ≠ .running ∧ s.control.engine ≠ .draining)) :
    resumeFrom f w s = s := by
  unfold resumeFrom
  split
  · next hgo =>
    obtain ⟨hw, -, hdispatches⟩ := hgo
    rcases h with h | h | ⟨hrun, hdrain⟩
    · exact absurd hw (not_lt.mpr h)
    · simp only [h]
    · exact absurd (s.dispatches_iff.mp hdispatches) (by simp [hrun, hdrain])
  · rfl

/-! ### From the till lock -/

theorem resumeTill_gotTill {kd : RequestKind} (h : GoesOn w k s u) (hphase : k.phase = .gotTill) (hkind : k.kind? = some kd) :
    resumeTill w s = afterTillLock w kd { k with phase := .taken } u := by
  obtain ⟨hu, hw⟩ := resumeFrom_goesOn (f := isGotTill) h (decide_eq_true hphase)
  have hgot : isGotTill k.phase = true := decide_eq_true hphase
  simp only [resumeTill, hu, hw, hgot, if_true, hkind]

theorem resumeTill_other (h : GoesOn w k s u) (hphase : k.phase ≠ .gotTill) : resumeTill w s = s := by
  have hgot : isGotTill k.phase = false := decide_eq_false hphase
  obtain ⟨hs, hfree | hheld⟩ := resumeFrom_other h hgot
  · simp only [resumeTill, hs, hfree]
  · simp only [resumeTill, hs, hheld, hgot, Bool.false_eq_true, if_false]

/-- A till request goes on through its second reading to step 16 (R95, R38). -/
theorem afterTillLock_reaches_sixteen {kd : RequestKind} {t : TillRow} {sel : Selection} {i : Nat} {row : CardRow} (hkd : kd.isTill = true)
    (hread : readTill s k.req.tillIndex = (s, some t)) (hadmits : t.admits k.req = true) (hfresh : findRecent k.req.seq t.recent = none)
    (hgate : standingGate kd (t.atSecondReading s.dir.recovery s.clock.reading.index).standing = none) (hlock : k.tillLock = some k.req.tillIndex)
    (hc : CardPasses kd k sel i row s) (hr : RowPasses kd k sel row s) :
    afterTillLock w kd k s = runSixteen w kd (k.tillServed t sel i s) (servedPlan kd k sel row s) (s.cardLocked k i) := by
  let k₁ : Work := { k with
    tillReading := some s.clock.reading, tillRead := some t, till := some (t.atSecondReading s.dir.recovery s.clock.reading.index) }
  have hc₁ : CardPasses kd k₁ sel i row s := ⟨hc.digit, hc.selected, hc.allowed, hc.serial, hc.unlisted, hc.free, hc.bank, hc.stored⟩
  have hr₁ : RowPasses kd k₁ sel row s := ⟨hr.owned, hr.gate, hr.code⟩
  have hserved : k₁.officeServed sel i s = k.tillServed t sel i s := by
    unfold Work.tillServed
    rw [← hlock]
    rfl
  rw [afterTillLock_admits hkd hread hadmits]
  have hfresh₁ : findRecent k₁.req.seq (t.atSecondReading s.dir.recovery s.clock.reading.index).recent = none := by
    rw [TillRow.atSecondReading_recent]
    exact hfresh
  refine (onTillRow_passes (k := k₁) hfresh₁ hgate).trans ?_
  refine (stepsSevenOn_passes (RequestKind.gated_of_isTill hkd) hc₁ hr₁).trans ?_
  rw [hserved]
  rfl

/-! ### From the card lock -/

theorem resumeCard_gotCard_request {kd : RequestKind} (h : GoesOn w k s u) (hphase : k.phase = .gotCard) (hkind : k.kind? = some kd) :
    resumeCard w s = afterCardLock w kd { k with phase := .taken } u := by
  obtain ⟨hu, hw⟩ := resumeFrom_goesOn (f := isGotCard) h (decide_eq_true hphase)
  have hgot : isGotCard k.phase = true := decide_eq_true hphase
  have htaken : ({ k with phase := .taken } : Work).kind? = some kd := hkind
  simp only [resumeCard, hu, hw, hgot, if_true, htaken]
  split
  · next htask =>
    unfold Work.kind? at hkind
    simp [htask] at hkind
  · next hsome _ =>
    cases hsome
    rfl
  · next hnone _ => exact absurd hnone (Option.some_ne_none kd)

theorem resumeCard_gotCard_job {hold gen card : Nat} (h : GoesOn w k s u) (hphase : k.phase = .gotCard) (htask : k.task = .expiry hold gen card) :
    resumeCard w s = runJob w hold gen card { k with phase := .taken } u := by
  obtain ⟨hu, hw⟩ := resumeFrom_goesOn (f := isGotCard) h (decide_eq_true hphase)
  have hgot : isGotCard k.phase = true := decide_eq_true hphase
  simp only [resumeCard, hu, hw, hgot, if_true, htask]

theorem resumeCard_other (h : GoesOn w k s u) (hphase : k.phase ≠ .gotCard) : resumeCard w s = s := by
  have hgot : isGotCard k.phase = false := decide_eq_false hphase
  obtain ⟨hs, hfree | hheld⟩ := resumeFrom_other h hgot
  · simp only [resumeCard, hs, hfree]
  · simp only [resumeCard, hs, hheld, hgot, Bool.false_eq_true, if_false]

/-- ROW_READ, and ROW_WRITE of an unlisted row, go on with the row read (R69, R70). -/
theorem afterCardLock_row {kd : RequestKind} {i : Nat} {row : CardRow} (hkd : kd = .rowRead ∨ (kd = .rowWrite ∧ s.isListed .card i = false))
    (hi : k.rowIndex = some i) (hread : readCard s i = (s, some row)) :
    afterCardLock w kd k s = runSixteen w kd { k with cardReading := some s.clock.reading }
      { today := s.clock.day, card := some row, cardRead := some row } s := by
  rcases hkd with rfl | ⟨rfl, hlisted⟩
  · simp only [afterCardLock, Work.row, hi, Option.getD_some, hread]
    rfl
  · simp only [afterCardLock, Work.row, hi, Option.getD_some, hread, hlisted, Bool.false_eq_true, if_false]
    rfl

/-- ROW_WRITE of a listed row goes on without a read (R71). -/
theorem afterCardLock_listed {i : Nat} (hi : k.rowIndex = some i) (hlisted : s.isListed .card i = true) :
    afterCardLock w .rowWrite k s = runSixteen w .rowWrite { k with cardReading := some s.clock.reading } { today := s.clock.day } s := by
  simp only [afterCardLock, Work.row, hi, Option.getD_some, hlisted, if_true]
  rfl

end

/-- The state a worker goes on in has the clock, the store, the locks and the tables it found. -/
theorem GoesOn.rest {w : Nat} {k : Work} {s u : State} (h : GoesOn w k s u) : { u with units := s.units } = s := by
  rcases h with ⟨-, -, -, r, -, rfl⟩ | ⟨-, rfl⟩ <;> rfl

/-- A plan whose trail entry owes nothing is committed, whatever the kind, when step 16 answers it. -/
theorem runSixteen_answers {w : Nat} {kd : RequestKind} {k : Work} {p q : Plan} {s t : State} (h : stepSixteen kd k p s = (t, some q))
    (hkind : k.kind? = some kd) (hbalance : kd ≠ .balance) (ht : t.trailOwing t.store.trailPlace = false) :
    runSixteen w kd k p s = commitNow w k q t := by
  have hnot : ¬ (k.kind? = some .balance ∧ q.status.isSome = true) := fun hb => hbalance (Option.some.inj (hkind.symm.trans hb.1))
  rw [runSixteen, h]
  dsimp only
  rw [prepareCommit, if_neg hnot, commitWork, ht, if_neg Bool.false_ne_true]

/-- Settles O29: by what the worker received, each path to its step 16 or decision. -/
theorem readyWorkGoesOnFromItsLock : Obligations.ReadyWorkGoesOnFromItsLock := by
  unfold Obligations.ReadyWorkGoesOnFromItsLock
  rintro w e s₀ s rfl
  have htill : exec (.resumeAfterTillLock w e) s₀ = .next (resumeTill w (s₀.outside e)) := rfl
  have hcard : exec (.resumeAfterCardLock w e) s₀ = .next (resumeCard w (s₀.outside e)) := rfl
  rw [htill, hcard]
  generalize s₀.outside e = s
  refine ⟨fun k u hgo => ?_, fun hfree hidle => ?_⟩
  · have hgo : GoesOn w k s u := hgo
    have hrest := hgo.rest
    have hclock : u.clock = s.clock := (congrArg State.clock hrest :)
    have hcards : u.store = s.store := (congrArg State.store hrest :)
    have hdir : u.dir = s.dir := (congrArg State.dir hrest :)
    have htables : u.tables = s.tables := (congrArg State.tables hrest :)
    have hlocks : u.locks = s.locks := (congrArg State.locks hrest :)
    have hlisted : ∀ kind i, u.isListed kind i = s.isListed kind i := fun kind i => by rw [State.isListed, hcards, State.isListed]
    have hrow : ∀ i, u.card i = s.card i := fun i => by rw [State.card, hcards, State.card]
    have htillRow : ∀ i, u.tillRow i = s.tillRow i := fun i => by rw [State.tillRow, hcards, State.tillRow]
    have hheld : ∀ i, u.lockHeld (.card i) = s.lockHeld (.card i) := fun i => by
      simp only [State.lockHeld, State.bank, hlocks]
    intro k₁ k₂
    refine ⟨?_, ?_, ?_, ?_, ?_, ?_, fun hphase => by rw [resumeTill_other hgo hphase], fun hphase => by rw [resumeCard_other hgo hphase]⟩
    · intro kd sel i row t q u₁ hkind hphase hkd hlock hin hunlisted hstored hadmits hfresh hgate hc hr hsixteen hq ht
      have hread : readTill u k₁.req.tillIndex = (u, some t) := readTill_clean hin (by rw [hlisted]; exact hunlisted) (by rw [htillRow]; exact hstored)
      have hc₁ : CardPasses kd k₁ sel i row u :=
        ⟨hc.digit, by rw [htables]; exact hc.selected, hc.allowed, hc.serial, by rw [hlisted]; exact hc.unlisted, by rw [hheld]; exact hc.free,
          by rw [hlocks]; exact hc.bank, by rw [hrow]; exact hc.stored⟩
      have hr₁ : RowPasses kd k₁ sel row u := ⟨hr.owned, by rw [hclock]; exact hr.gate, by rw [hclock]; exact hr.code⟩
      rw [resumeTill_gotTill hgo hphase hkind,
        afterTillLock_reaches_sixteen (k := k₁) hkd hread hadmits hfresh (by rw [hdir, hclock]; exact hgate) hlock hc₁ hr₁]
      have hserved : k₁.tillServed t sel i u = k₁.tillServed t sel i s := by rw [Work.tillServed, hclock, hdir, Work.tillServed]
      have hplan : servedPlan kd k₁ sel row u = servedPlan kd k sel row s := by
        rw [servedPlan, workingRow, hclock]
        rfl
      rw [hserved, hplan]
      exact congrArg Host.Outcome.next (runSixteen_plan hsixteen hq ht)
    · intro kd q u₁ hkind hphase hkd hsixteen ht
      have hafter : afterTillLock w kd k₁ u = runSixteen w kd k₁ {} u := by rcases hkd with rfl | rfl <;> rfl
      rw [resumeTill_gotTill hgo hphase hkind, hafter]
      exact congrArg Host.Outcome.next (runSixteen_answers hsixteen hkind (by rcases hkd with rfl | rfl <;> decide) ht)
    · intro kd sel i row q u₁ hkind hphase hkd hsel hi hstored hr hsixteen hq ht
      have hgated : kd.gated = true := by
        rcases hkd with h | rfl | rfl
        · exact RequestKind.gated_of_isTill h
        · rfl
        · rfl
      have hread : readCard u i = (u, some row) := readCard_clean (by rw [hrow]; exact hstored)
      have hk₂ : ({ k₁ with cardReading := some u.clock.reading } : Work) = k₂ := by rw [hclock]
      have hr₂ : RowPasses kd k₂ sel row u := ⟨hr.owned, by rw [hclock]; exact hr.gate, by rw [hclock]; exact hr.code⟩
      have hplan : servedPlan kd k₂ sel row u = servedPlan kd k sel row s := by
        rw [servedPlan, workingRow, hclock]
        rfl
      rw [resumeCard_gotCard_request hgo hphase hkind, afterCardLock_read (k := k₁) hgated hi hsel hread, hk₂, onCardRow_passes hr₂, hplan]
      exact congrArg Host.Outcome.next (runSixteen_plan hsixteen hq ht)
    · intro kd i row q u₁ hkind hphase hkd hi hstored hsixteen ht
      have hread : readCard u i = (u, some row) := readCard_clean (by rw [hrow]; exact hstored)
      have hkd' : kd = .rowRead ∨ (kd = .rowWrite ∧ u.isListed .card i = false) := by rwa [hlisted]
      rw [resumeCard_gotCard_request hgo hphase hkind, afterCardLock_row (k := k₁) hkd' hi hread, hclock]
      exact congrArg Host.Outcome.next (runSixteen_answers hsixteen hkind (by rcases hkd with rfl | ⟨rfl, -⟩ <;> decide) ht)
    · intro i q u₁ hkind hphase hi hin hsixteen ht
      rw [resumeCard_gotCard_request hgo hphase hkind, afterCardLock_listed (k := k₁) hi (by rw [hlisted]; exact hin), hclock]
      exact congrArg Host.Outcome.next (runSixteen_answers hsixteen hkind (by decide) ht)
    · intro hold gen card htask hphase ht
      have htrail : u.trailOwing u.store.trailPlace = false := by
        rw [State.trailOwing, State.trailStatusAt, hcards]
        exact ht
      rw [resumeCard_gotCard_job hgo hphase htask]
      have hk₂ : ({ k₁ with cardReading := some u.clock.reading } : Work) = k₂ := by rw [hclock]
      rw [← hk₂]
      exact runJob_decides (k := k₁) htrail
  · have hresume : ∀ f, resumeFrom f w s = s := fun f => resumeFrom_idle hidle
    simp only [resumeTill, resumeCard, hresume, hfree, and_self]

end Sys2Proof.Machine
end

section
/-! PROOFS. Step 16 of ACTIVATE, LOAD and REDEEM (spec/03, 3.4 and 3.5; O38, O39, O40). -/

namespace Sys2Proof.Machine

/-! ### From step 16 to the commit -/

/-- A till request whose checks pass commits what its own step 16 answers. -/
theorem till_request_commits {mk : Nat → Outside → Instr} {kd : RequestKind} {w i : Nat} {e : Outside} {s₀ v : State} {k : Work} {t : TillRow}
    {sel : Selection} {row : CardRow} {q : Plan} (hmk : (mk, kd) ∈ tillCommands) (h : TillReady kd w k t sel i row (s₀.outside e))
    (hsixteen : stepSixteen kd (k.tillServed t sel i (s₀.outside e)) (servedPlan kd k sel row (s₀.outside e)) ((s₀.outside e).bothLocked k i) =
      (v, some q)) (hq : q.status = none) (hv : v.trailOwing v.store.trailPlace = false) :
    exec (mk w e) s₀ = .next (commitNow w (k.tillServed t sel i (s₀.outside e)) q v) := by
  rw [exec_requestCommand (tillCommand_mem_requestCommands hmk), till_request_reaches_sixteen h.posted.row_ofKind h,
    runSixteen_plan hsixteen hq hv]

/-- Where step 16 leaves the state, the trail entry still owes nothing. -/
theorem TillReady.trail {kd : RequestKind} {w i : Nat} {k : Work} {t : TillRow} {sel : Selection} {row : CardRow} {s : State}
    (h : TillReady kd w k t sel i row s) : (s.bothLocked k i).trailOwing (s.bothLocked k i).store.trailPlace = false := h.posted.trail

/-! ### ACTIVATE and LOAD -/

/-- The end of an approved ACTIVATE or LOAD is the plan of R49 to R52. -/
theorem approveLoad_loadPlan (g : Programme) (kind : JournalKind) (a : Nat) (c : CardRow) (paid : List Lot) (p : Plan) :
    LoadPlan g kind a c paid p (approveLoad g kind a c paid p) := by
  let b := placeBonus g p.today a (balance p.today paid) paid
  have hclamped : b.clamped = decide (g.cap - balance p.today paid < bonusDue g a) := by
    unfold b placeBonus
    dsimp only
    split
    · rfl
    · split <;> rfl
  have hexpiry : b.expiry = min (p.today + g.bonusLife) 65535 := by
    unfold b placeBonus
    dsimp only
    split
    · rfl
    · split <;> rfl
  refine ⟨b.lots, b.granted, b.withheld, fun hnone => ?_, fun ls hsome hadd => ?_, fun hsome hfull => ?_, ?_⟩
  · have hb : b = { lots := paid, granted := 0, expiry := expiryDay p.today g.bonusLife
                    clamped := decide (g.cap - balance p.today paid < bonusDue g a), withheld := false } := if_pos hnone
    rw [hb]
    exact ⟨rfl, rfl, rfl⟩
  · have hb : b = { lots := ls, granted := min (bonusDue g a) (g.cap - balance p.today paid), expiry := expiryDay p.today g.bonusLife
                    clamped := decide (g.cap - balance p.today paid < bonusDue g a), withheld := false } := by
      refine (if_neg (Nat.one_le_iff_ne_zero.mp hsome)).trans ?_
      have hadd : addBonus (min (bonusDue g a) (g.cap - balance p.today paid)) (expiryDay p.today g.bonusLife) paid = some ls := hadd
      rw [hadd]
    rw [hb]
    exact ⟨rfl, rfl, rfl⟩
  · have hb : b = { lots := paid, granted := 0, expiry := expiryDay p.today g.bonusLife
                    clamped := decide (g.cap - balance p.today paid < bonusDue g a), withheld := true } := by
      refine (if_neg (Nat.one_le_iff_ne_zero.mp hsome)).trans ?_
      have hfull : addBonus (min (bonusDue g a) (g.cap - balance p.today paid)) (expiryDay p.today g.bonusLife) paid = none := hfull
      rw [hfull]
    rw [hb]
    exact ⟨rfl, rfl, rfl⟩
  · have hplan : approveLoad g kind a c paid p = { p with
        result := .approved, reason := .none, approved := a, bonus := b.granted
        card := some { c with lots := b.lots, lastUseDay := some p.today }
        flags := { p.flags with bonusClamped := b.clamped, bonusWithheld := b.withheld }
        own := (kind, [a]) :: (if b.granted = 0 then [] else [(.bonus, [b.granted, b.expiry])])
        parts := if b.granted = 0 then [] else [{ expiry := some b.expiry, amount := b.granted }] } := rfl
    rw [hplan, hclamped, hexpiry]
    rfl

/-- Settles O38: the checks of R48 in their order. -/
theorem activateChecksAndLoads : Obligations.ActivateChecksAndLoads := by
  unfold Obligations.ActivateChecksAndLoads
  rintro w i e s₀ s k t sel row rfl h
  intro g a p c out
  have hcommit : ∀ q, activateStep (k.tillServed t sel i (s₀.outside e)) p ((s₀.outside e).bothLocked k i) =
      ((s₀.outside e).bothLocked k i, some q) → q.status = none → exec (.activate w e) s₀ = out q :=
    fun q hsixteen hq => till_request_commits (by simp [tillCommands]) h hsixteen hq h.trail
  refine ⟨fun hstate => hcommit _ (if_pos hstate) rfl, fun hstate => ⟨fun hmin => hcommit _ ?_ rfl, fun hmin => ⟨fun hcap => hcommit _ ?_ rfl,
    fun hcap => ⟨fun hfull => hcommit _ ?_ rfl, fun paid hpaid => ⟨_, approveLoad_loadPlan .., hcommit _ ?_ rfl⟩⟩⟩⟩⟩
  all_goals refine (if_neg (not_not.mpr hstate)).trans ?_
  · exact if_pos hmin
  all_goals refine (if_neg (not_lt.mpr hmin)).trans ?_
  · exact if_pos hcap
  all_goals refine (if_neg (not_lt.mpr hcap)).trans ?_
  · have hfull : addPaid a p.working.lots = none := hfull
    have hreq : (k.tillServed t sel i (s₀.outside e)).req.amount = a := rfl
    rw [hreq, hfull]
    rfl
  · have hpaid : addPaid a p.working.lots = some paid := hpaid
    have hreq : (k.tillServed t sel i (s₀.outside e)).req.amount = a := rfl
    rw [hreq, hpaid]
    rfl

/-- Settles O39: the checks of R50 in their order. -/
theorem loadAddsValueAndBonus : Obligations.LoadAddsValueAndBonus := by
  unfold Obligations.LoadAddsValueAndBonus
  rintro w i e s₀ s k t sel row rfl h
  intro g a p c out
  have hcommit : ∀ q, loadStep (k.tillServed t sel i (s₀.outside e)) p ((s₀.outside e).bothLocked k i) =
      ((s₀.outside e).bothLocked k i, some q) → q.status = none → exec (.load w e) s₀ = out q :=
    fun q hsixteen hq => till_request_commits (by simp [tillCommands]) h hsixteen hq h.trail
  have hreq : (k.tillServed t sel i (s₀.outside e)).req.amount = a := rfl
  refine ⟨fun hcap => hcommit _ (if_pos hcap) rfl, fun hcap => ⟨fun hfull => hcommit _ ?_ rfl,
    fun paid hpaid => ⟨_, approveLoad_loadPlan .., hcommit _ ?_ rfl⟩⟩⟩
  all_goals refine (if_neg (not_lt.mpr hcap)).trans ?_
  · have hfull : addPaid a p.working.lots = none := hfull
    rw [hreq, hfull]
    rfl
  · have hpaid : addPaid a p.working.lots = some paid := hpaid
    rw [hreq, hpaid]
    rfl

/-! ### REDEEM -/

theorem velocityReached_iff (sel : Selection) (c : CardRow) :
    velocityReached sel c = true ↔ 0 < sel.programme.velocityLimit ∧ sel.programme.velocityLimit ≤ c.windowCount := by
  simp [velocityReached]

/-- Settles O40: the checks of R53 in their order. -/
theorem redeemDrawsTheLots : Obligations.RedeemDrawsTheLots := by
  unfold Obligations.RedeemDrawsTheLots
  rintro w i e s₀ s k t sel row rfl h
  intro g a p c av out drawn reached
  have hcommit : ∀ q, redeemStep (k.tillServed t sel i (s₀.outside e)) p ((s₀.outside e).bothLocked k i) =
      ((s₀.outside e).bothLocked k i, some q) → q.status = none → exec (.redeem w e) s₀ = out q :=
    fun q hsixteen hq => till_request_commits (by simp [tillCommands]) h hsixteen hq h.trail
  have hreached : velocityReached sel c = true ↔ reached := velocityReached_iff sel c
  refine ⟨fun hv => hcommit _ (if_pos (hreached.mpr hv)) rfl, fun hv => ⟨fun hall => hcommit _ ?_ rfl, fun hshort hpartial hsome => hcommit _ ?_ rfl,
    fun hshort hnot => hcommit _ ?_ rfl⟩⟩
  all_goals refine (if_neg (mt hreached.mp hv)).trans ?_
  · exact if_pos hall
  all_goals refine (if_neg (not_le.mpr hshort)).trans ?_
  · exact if_pos ⟨hpartial, hsome⟩
  · refine if_neg ?_
    rintro ⟨hpartial, hsome⟩
    rcases hnot with hno | hzero
    · exact Bool.noConfusion (hno.symm.trans hpartial)
    · exact absurd hsome (by rw [show available p.today p.working = av from rfl, hzero]; decide)

end Sys2Proof.Machine
end

section
/-! PROOFS. Step 16 of the hold kinds (spec/03, 3.6; spec/04, 4.3 and 4.4; O41, O42, O43, O44). -/

namespace Sys2Proof.Machine

/-! ### Reading the hold of a reference (R55) -/

section
variable {ref : HoldRef} {c : CardRow} {now : Nat} {r : CardRef} {h : HoldRow} {s v : State}

theorem findHold_noRef (hnone : findRef ref c = none) : findHold ref c now s = (s, .noRef) := by rw [findHold, hnone]

theorem findHold_unread (hsome : findRef ref c = some r) (hread : HoldUnread r.index s v) : findHold ref c now s = (v, .unreadable r) := by
  rw [findHold, hsome]
  dsimp only
  rw [readHold_holdUnread hread]

theorem findHold_gone (hsome : findRef ref c = some r) (hread : HoldRead r.index h s v) (hdue : h.deadline ≤ now) :
    findHold ref c now s = (v, .gone r h) := by
  rw [findHold, hsome]
  dsimp only
  rw [readHold_holdRead hread]
  dsimp only
  rw [if_pos hdue]

theorem findHold_live (hsome : findRef ref c = some r) (hread : HoldRead r.index h s v) (hlive : now < h.deadline) :
    findHold ref c now s = (v, .live r h) := by
  rw [findHold, hsome]
  dsimp only
  rw [readHold_holdRead hread]
  dsimp only
  rw [if_neg (not_le.mpr hlive)]

/-- A row that reads clean is read and left as it was. -/
theorem holdRead_clean {j : Nat} (hlisted : s.isListed .hold j = false) (hstored : s.hold j = { val := h, ecc := .clean }) : HoldRead j h s s :=
  ⟨hlisted, by rw [hstored], .inl ⟨by rw [hstored], rfl⟩⟩

/-- Reading a hold row is an observation, whatever it finds. -/
theorem HoldRead.observed {j : Nat} (hread : HoldRead j h s v) : Observed s v := by
  have hobserved := readHold_observed s j
  rwa [readHold_holdRead hread] at hobserved

theorem HoldUnread.observed {j : Nat} (hread : HoldUnread j s v) : Observed s v := by
  have hobserved := readHold_observed s j
  rwa [readHold_holdUnread hread] at hobserved

end

/-! ### HOLD_OPEN -/

/-- Rows passed over by a claim search are read, and nothing else happens. -/
theorem rowsPassed_claim_observed {c d : Option Nat} {js : List Nat} {s t : State} (h : RowsPassed ClaimPassed c js d s t) : Observed s t := by
  have hsearch := claimSearch_passed h js.length le_rfl
  rw [Nat.sub_self] at hsearch
  have hobserved := claimSearch_observed js.length c s
  rw [hsearch] at hobserved
  exact hobserved

/-- A claim search that passes over every row it may look at comes to nothing (R79). -/
theorem claimSearch_exhausted {n : Nat} {c d : Option Nat} {js : List Nat} {s t : State} (h : RowsPassed ClaimPassed c js d s t)
    (hn : js.length ≤ n) (hend : d = none ∨ js.length = n) : claimSearch n c s = (t, .exhausted) := by
  rw [claimSearch_passed h n hn]
  rcases hend with rfl | rfl
  · cases n - js.length <;> rfl
  · rw [Nat.sub_self]
    rfl

/-- The first claimable row behind the rows passed over is found (R79). -/
theorem claimSearch_found {n i : Nat} {c : Option Nat} {js : List Nat} {s t u : State} {h : HoldRow} (hp : RowsPassed ClaimPassed c js (some i) s t)
    (hn : js.length < n) (hclaimed : t.isClaimed i = false) (hread : HoldRead i h t u) : claimSearch n c s = (u, .found i h) := by
  obtain ⟨m, hm⟩ := Nat.exists_eq_succ_of_ne_zero (Nat.sub_ne_zero_of_lt hn)
  rw [claimSearch_passed hp n hn.le, hm, claimSearch]
  simp only [hclaimed, hread.1, Bool.or_self, Bool.false_eq_true, if_false, readHold_holdRead hread]

/-- With rows in the free chain the claim is the search from its head. -/
theorem claimRow_search {s v : State} {x : Search} (hempty : s.holds.free.count ≠ 0)
    (h : claimSearch s.holds.free.count s.holds.free.head s = (v, x)) : claimRow s = (v, x) := (if_neg hempty).trans h

/-- A free chain that a search goes along from a row to another is not empty, and one that it finds empty is exhausted. -/
theorem claimRow_exhausted {s v : State} {js : List Nat} {d : Option Nat} (h : RowsPassed ClaimPassed s.holds.free.head js d s v)
    (hn : js.length ≤ s.holds.free.count) (hend : d = none ∨ js.length = s.holds.free.count) : claimRow s = (v, .exhausted) := by
  by_cases hempty : s.holds.free.count = 0
  · have hjs : js = [] := List.eq_nil_of_length_eq_zero (by omega)
    subst hjs
    have hv : v = s := by
      generalize s.holds.free.head = c at h
      cases h
      rfl
    rw [hv]
    exact if_pos hempty
  · exact claimRow_search hempty (claimSearch_exhausted h hn hend)

/-- Settles O41: the checks of R56 in their order, then the claim. -/
theorem holdOpenClaimsARow : Obligations.HoldOpenClaimsARow := by
  unfold Obligations.HoldOpenClaimsARow
  rintro w i e s₀ s k t sel row rfl h
  intro g a p c u out no reached
  have hcommit : ∀ q v, holdOpenStep (k.tillServed t sel i (s₀.outside e)) p u = (v, some q) → q.status = none → Observed u v →
      exec (.holdOpen w e) s₀ = out q v :=
    fun q v hsixteen hq hv => till_request_commits (by simp [tillCommands]) h hsixteen hq (hv.trailOwing.trans h.trail)
  have hreached : velocityReached sel c = true ↔ reached := velocityReached_iff sel c
  refine ⟨fun hv => hcommit _ u (if_pos (hreached.mpr hv)) rfl (.refl u), fun hv hshort => hcommit _ u ?_ rfl (.refl u),
    fun hv hfunds => ⟨fun hlimit => hcommit _ u ?_ rfl (.refl u), fun hlimit => ?_⟩⟩
  · exact (if_neg (mt hreached.mp hv)).trans (if_pos hshort)
  · exact (if_neg (mt hreached.mp hv)).trans ((if_neg (not_lt.mpr hfunds)).trans (if_pos hlimit))
  · have hclaim : holdOpenStep (k.tillServed t sel i (s₀.outside e)) p u = match claimRow u with
        | (s, .lost) => (s, none)
        | (s, .exhausted) => (s, some (p.decline .holdTableFull))
        | (s, .found j h) => (handClaim j h.gen k.place i s, some (approveOpen (k.tillServed t sel i (s₀.outside e)) p j h)) :=
      (if_neg (mt hreached.mp hv)).trans ((if_neg (not_lt.mpr hfunds)).trans (if_neg (not_le.mpr hlimit)))
    have hfull : ∀ v, claimRow u = (v, .exhausted) → Observed u v →
        exec (.holdOpen w e) s₀ = out { p with result := .declined, reason := .holdTableFull } v := fun v hnone hv =>
      hcommit _ v (by rw [hclaim, hnone]; rfl) rfl hv
    refine ⟨fun hempty => hfull u (if_pos hempty) (.refl u), fun js v hpassed hlen => ?_, fun js j v hpassed hlen => ?_,
      fun js j h' v x hpassed hlen hclaimed hread => ?_⟩
    · exact hfull v (claimRow_exhausted (s := u) hpassed hlen (.inl rfl)) (rowsPassed_claim_observed hpassed)
    · exact hfull v (claimRow_exhausted (s := u) hpassed hlen.le (.inr hlen)) (rowsPassed_claim_observed hpassed)
    · intro d
      have hx : Observed u x := (rowsPassed_claim_observed hpassed).trans hread.observed
      have hfound : claimRow u = (x, .found j h') :=
        claimRow_search (Nat.ne_of_gt (Nat.zero_lt_of_lt hlen)) (claimSearch_found hpassed hlen hclaimed hread)
      have htrail : (handClaim j h'.gen k.place i x).trailOwing (handClaim j h'.gen k.place i x).store.trailPlace = false :=
        hx.trailOwing.trans h.trail
      have hholds : x.holds = (s₀.outside e).holds := hx.holds
      have hend := till_request_commits (mk := Instr.holdOpen) (by simp [tillCommands]) h
        (q := approveOpen (k.tillServed t sel i (s₀.outside e)) p j h') (hclaim.trans (by rw [hfound])) rfl htrail
      rw [hend, handClaim, hholds]
      rfl

/-! ### HOLD_RENEW -/

/-- Settles O42: the checks of R55 and R57 in their order. -/
theorem holdRenewMovesTheDeadline : Obligations.HoldRenewMovesTheDeadline := by
  unfold Obligations.HoldRenewMovesTheDeadline
  rintro w i e s₀ s k t sel row rfl h
  intro p c u ends out
  have hcommit : ∀ q v, holdRenewStep (k.tillServed t sel i (s₀.outside e)) p u = (v, some q) → q.status = none → Observed u v →
      exec (.holdRenew w e) s₀ = ends q v :=
    fun q v hsixteen hq hv => till_request_commits (by simp [tillCommands]) h hsixteen hq (hv.trailOwing.trans h.trail)
  have hstep : ∀ v x, findHold k.req.hold c (s₀.outside e).clock.now u = (v, x) →
      holdRenewStep (k.tillServed t sel i (s₀.outside e)) p u = match x with
        | .noRef => (v, some (p.decline .noHold))
        | .unreadable r => (v, some ((p.matched r none).decline .cardUnreadable))
        | .gone r h => (v, some ((p.matched r (heldItem h r)).decline .holdGone))
        | .live r h => if h.renewals < sel.programme.renewalLimit then (v, some (approveRenew (k.tillServed t sel i (s₀.outside e)) p r h))
          else (v, some ((p.matched r (heldItem h r)).decline .renewLimit)) := by
    intro v x hfind
    have hfind : findHold (k.tillServed t sel i (s₀.outside e)).req.hold p.working (k.tillServed t sel i (s₀.outside e)).now u = (v, x) := hfind
    rw [holdRenewStep, hfind]
    cases x <;> rfl
  refine ⟨fun hnone => hcommit _ u (hstep _ _ (findHold_noRef hnone)) rfl (.refl u), fun r hr => ⟨fun v hread => ?_, fun h' v hread => ⟨fun hdue => ?_,
    fun hlive hlimit => ?_, fun hlive hlimit => ?_⟩⟩⟩
  · exact hcommit _ v (hstep _ _ (findHold_unread hr hread)) rfl hread.observed
  · exact hcommit _ v (hstep _ _ (findHold_gone hr hread hdue)) rfl hread.observed
  · exact hcommit _ v ((hstep _ _ (findHold_live hr hread hlive)).trans (if_neg (not_lt.mpr hlimit))) rfl hread.observed
  · exact hcommit _ v ((hstep _ _ (findHold_live hr hread hlive)).trans (if_pos hlimit)) rfl hread.observed

/-! ### HOLD_CLOSE -/

/-- Settles O43: the checks of R55 and R58 in their order. -/
theorem holdCloseCaptures : Obligations.HoldCloseCaptures := by
  unfold Obligations.HoldCloseCaptures
  rintro w i e s₀ s k t sel row rfl h
  intro p c f u ends out
  have hcommit : ∀ q v, holdCloseStep (k.tillServed t sel i (s₀.outside e)) p u = (v, some q) → q.status = none → Observed u v →
      exec (.holdClose w e) s₀ = ends q v :=
    fun q v hsixteen hq hv => till_request_commits (by simp [tillCommands]) h hsixteen hq (hv.trailOwing.trans h.trail)
  have hstep : ∀ v x, findHold k.req.hold c (s₀.outside e).clock.now u = (v, x) →
      holdCloseStep (k.tillServed t sel i (s₀.outside e)) p u = match x with
        | .noRef => (v, some (p.decline .noHold))
        | .unreadable r => (v, some ((p.matched r none).decline .cardUnreadable))
        | .gone r h => (v, some ((p.matched r (heldItem h r)).decline .holdGone))
        | .live r h =>
          if toleranceLimit sel.programme r.amount < f then (v, some ((p.matched r (heldItem h r)).decline .overTolerance))
          else if (f : Int) ≤ captureFunds p.today c r.amount then (v, some (approveClose f f p r h))
          else if sel.programme.partialAllowed ∧ 1 ≤ captureFunds p.today c r.amount then
            (v, some (approveClose f (captureFunds p.today c r.amount).toNat p r h))
          else (v, some ((p.matched r (heldItem h r)).decline .insufficient)) := by
    intro v x hfind
    have hfind : findHold (k.tillServed t sel i (s₀.outside e)).req.hold p.working (k.tillServed t sel i (s₀.outside e)).now u = (v, x) := hfind
    rw [holdCloseStep, hfind]
    cases x <;> rfl
  refine ⟨fun hnone => hcommit _ u (hstep _ _ (findHold_noRef hnone)) rfl (.refl u), fun r hr => ⟨fun v hread => ?_, fun h' hlisted hstored => ?_⟩⟩
  · exact hcommit _ v (hstep _ _ (findHold_unread hr hread)) rfl hread.observed
  · have hread : HoldRead r.index h' u u := holdRead_clean hlisted hstored
    intro kept funds beyond taken
    refine ⟨fun hdue => hcommit _ u (hstep _ _ (findHold_gone hr hread hdue)) rfl (.refl u), fun hlive => ⟨fun hbeyond => ?_, fun hbeyond =>
      ⟨fun hfunds => ?_, fun hshort hpartial hsome => ?_, fun hshort hnot => ?_⟩⟩⟩
    all_goals have hfind := hstep _ _ (findHold_live hr hread hlive)
    · exact hcommit _ u (hfind.trans (if_pos hbeyond)) rfl (.refl u)
    all_goals replace hfind := hfind.trans (if_neg hbeyond)
    · exact hcommit _ u (hfind.trans (if_pos hfunds)) rfl (.refl u)
    all_goals replace hfind := hfind.trans (if_neg (not_le.mpr hshort))
    · exact hcommit _ u (hfind.trans (if_pos ⟨hpartial, hsome⟩)) rfl (.refl u)
    · refine hcommit _ u (hfind.trans (if_neg ?_)) rfl (.refl u)
      rintro ⟨hpartial, hsome⟩
      rcases hnot with hno | hlow
      · exact Bool.noConfusion (hno.symm.trans hpartial)
      · exact absurd hsome (not_le.mpr hlow)

/-! ### HOLD_CANCEL -/

/-- Settles O44: the checks of R55, and the lane where the row cannot be read (R83). -/
theorem holdCancelReleases : Obligations.HoldCancelReleases := by
  unfold Obligations.HoldCancelReleases
  rintro w i e s₀ s k t sel row rfl h
  intro p c u ends out
  have hcommit : ∀ q v, holdCancelStep (k.tillServed t sel i (s₀.outside e)) p u = (v, some q) → q.status = none → Observed u v →
      exec (.holdCancel w e) s₀ = ends q v :=
    fun q v hsixteen hq hv => till_request_commits (by simp [tillCommands]) h hsixteen hq (hv.trailOwing.trans h.trail)
  have hstep : ∀ v x, findHold k.req.hold c (s₀.outside e).clock.now u = (v, x) →
      holdCancelStep (k.tillServed t sel i (s₀.outside e)) p u = match x with
        | .noRef => (v, some (p.decline .noHold))
        | .unreadable r =>
          if k.onOfficeLane then (v, some (approveCancel p r (freedFromRef r.gen) true))
          else (v, some ((p.matched r none).decline .cardUnreadable))
        | .gone r h => (v, some ((p.matched r (heldItem h r)).decline .holdGone))
        | .live r h => (v, some (approveCancel p r (freedRow h) k.onOfficeLane)) := by
    intro v x hfind
    have hfind : findHold (k.tillServed t sel i (s₀.outside e)).req.hold p.working (k.tillServed t sel i (s₀.outside e)).now u = (v, x) := hfind
    rw [holdCancelStep, hfind]
    cases x <;> rfl
  refine ⟨fun hnone => hcommit _ u (hstep _ _ (findHold_noRef hnone)) rfl (.refl u), fun r hr => ?_⟩
  intro m released
  refine ⟨fun v hread hlane => ?_, fun v hread hlane => ?_, fun h' hlisted hstored => ⟨fun hdue => ?_, fun hlive => ?_⟩⟩
  · refine hcommit _ v ((hstep _ _ (findHold_unread hr hread)).trans (if_neg ?_)) rfl hread.observed
    rw [hlane]
    exact Bool.false_ne_true
  · refine (hcommit _ v ((hstep _ _ (findHold_unread hr hread)).trans (if_pos hlane)) rfl hread.observed).trans ?_
    unfold released
    rw [hlane]
    rfl
  · exact hcommit _ u (hstep _ _ (findHold_gone hr (holdRead_clean hlisted hstored) hdue)) rfl (.refl u)
  · exact hcommit _ u (hstep _ _ (findHold_live hr (holdRead_clean hlisted hstored) hlive)) rfl (.refl u)

end Sys2Proof.Machine
end

section
/-! PROOFS. BALANCE, its rows read clean or corrected (spec/03, 3.3; spec/07, 7.3; O37). -/

namespace Sys2Proof.Machine

/-! ### Rows that read corrected -/

/-- A unit that reads clean has no wrong bit. -/
theorem BitErrors.eq_clean_of_outcome {x : BitErrors} (h : x.outcome = .clean) : x = .clean := by
  obtain ⟨bits⟩ := x
  cases bits with
  | nil => rfl
  | cons b r =>
    exfalso
    have hword : (BitErrors.mk (b :: r)).wordOutcome b.1 = .corrected ∨ (BitErrors.mk (b :: r)).wordOutcome b.1 = .uncorrectable := by
      have hcount : (BitErrors.mk (b :: r)).inWord b.1 ≠ 0 := by simp [BitErrors.inWord]
      unfold BitErrors.wordOutcome
      split
      · next h => exact absurd h hcount
      · exact .inl rfl
      · exact .inr rfl
    unfold BitErrors.outcome at h
    split at h
    · exact Ecc.noConfusion h
    · next huncorrectable =>
      split at h
      · exact Ecc.noConfusion h
      · next hcorrected =>
        rcases hword with hword | hword
        · exact hcorrected (List.any_eq_true.mpr ⟨b, List.mem_cons_self, decide_eq_true hword⟩)
        · exact huncorrectable (List.any_eq_true.mpr ⟨b, List.mem_cons_self, decide_eq_true hword⟩)

/-- A till row that is not uncorrectable reads, and reads clean from then on (R132, R133). -/
theorem readTill_correctable {v : State} {i : Nat} {t : TillRow} (hin : i < Config.tills) (hlisted : v.isListed .till i = false)
    (hval : (v.tillRow i).val = t) (hecc : (v.tillRow i).ecc.outcome ≠ .uncorrectable) :
    ∃ u, readTill v i = (u, some t) ∧ u.tillRow i = { val := t, ecc := .clean } ∧ (∀ n, n ≠ i → u.tillRow n = v.tillRow n) ∧
      { u with store := { u.store with tills := v.store.tills } } = v := by
  have hread : ¬ (!decide (i < Config.tills) || v.isListed .till i) = true := by simp [hin, hlisted]
  cases houtcome : (v.tillRow i).ecc.outcome with
  | clean =>
    refine ⟨v, by rw [readTill, if_neg hread, houtcome, hval], ?_, fun _ _ => rfl, rfl⟩
    rw [← hval, ← BitErrors.eq_clean_of_outcome houtcome]
  | corrected =>
    refine ⟨v.putTill i t, by rw [readTill, if_neg hread, houtcome, hval], Sparse.get_set_same .., fun n hn => Sparse.get_set_other _ _ _ hn, rfl⟩
  | uncorrectable => exact absurd houtcome hecc

/-- A card row that is not uncorrectable reads, and reads clean from then on (R132, R133). -/
theorem readCard_correctable {v : State} {i : Nat} {row : CardRow} (hval : (v.card i).val = row) (hecc : (v.card i).ecc.outcome ≠ .uncorrectable) :
    ∃ u, readCard v i = (u, some row) ∧ u.card i = { val := row, ecc := .clean } ∧ (∀ n, n ≠ i → u.card n = v.card n) ∧
      { u with store := { u.store with cards := v.store.cards } } = v := by
  cases houtcome : (v.card i).ecc.outcome with
  | clean =>
    refine ⟨v, by rw [readCard, houtcome, hval], ?_, fun _ _ => rfl, rfl⟩
    rw [← hval, ← BitErrors.eq_clean_of_outcome houtcome]
  | corrected =>
    refine ⟨v.putCard i row, by rw [readCard, houtcome, hval], Sparse.get_set_same .., fun n hn => Sparse.get_set_other _ _ _ hn, rfl⟩
  | uncorrectable => exact absurd houtcome hecc

/-- A card row that reads, corrected or not, comes to step 14 (R38, R133). -/
theorem afterCardLock_readThen {w i : Nat} {kd : RequestKind} {k : Work} {sel : Selection} {row : CardRow} {s u : State} (hkd : kd.gated = true)
    (hi : k.rowIndex = some i) (hsel : k.selection = some sel) (hread : readCard s i = (u, some row)) :
    afterCardLock w kd k s = onCardRow w kd { k with cardReading := some s.clock.reading } sel s.clock.reading row u := by
  cases kd <;> first
    | exact absurd hkd (by decide)
    | simp only [afterCardLock, Work.row, hi, Option.getD_some, hread, hsel]

/-! ### What two states that differ in till rows and card rows share -/

/-- State `u` is `s` but for till rows and card rows. -/
structure SameButRows (s u : State) : Prop where
  store : { u.store with tills := s.store.tills, cards := s.store.cards } = s.store
  rest : { u with store := s.store } = s

section
variable {s u : State}

theorem SameButRows.quarantine (h : SameButRows s u) : u.store.quarantine = s.store.quarantine := (congrArg Store.quarantine h.store :)

theorem SameButRows.isListed (h : SameButRows s u) (k : RowKind) (i : Nat) : u.isListed k i = s.isListed k i := by
  rw [State.isListed, h.quarantine, State.isListed]

theorem SameButRows.trailOwing (h : SameButRows s u) : u.trailOwing u.store.trailPlace = s.trailOwing s.store.trailPlace := by
  have hplace : u.store.trailPlace = s.store.trailPlace := (congrArg Store.trailPlace h.store :)
  have hstatus : u.store.trailStatus = s.store.trailStatus := (congrArg Store.trailStatus h.store :)
  rw [State.trailOwing, State.trailStatusAt, hstatus, hplace, State.trailOwing, State.trailStatusAt]

theorem SameButRows.clock (h : SameButRows s u) : u.clock = s.clock := (congrArg State.clock h.rest :)
theorem SameButRows.locks (h : SameButRows s u) : u.locks = s.locks := (congrArg State.locks h.rest :)
theorem SameButRows.tables (h : SameButRows s u) : u.tables = s.tables := (congrArg State.tables h.rest :)
theorem SameButRows.units (h : SameButRows s u) : u.units = s.units := (congrArg State.units h.rest :)
theorem SameButRows.dir (h : SameButRows s u) : u.dir = s.dir := (congrArg State.dir h.rest :)

theorem SameButRows.lockHeld (h : SameButRows s u) (l : LockName) : u.lockHeld l = s.lockHeld l := by
  cases l <;> simp only [State.lockHeld, State.bank, h.locks]

/-- A posted request stays posted. -/
theorem SameButRows.posted {kd : RequestKind} {w : Nat} {k : Work} (h : SameButRows s u) (hp : Posted kd w k s) : Posted kd w k u where
  held := by
    rw [State.atStepOne, State.worker, h.units]
    exact hp.held
  kind := hp.kind
  wellFormed := hp.wellFormed
  authority := hp.authority
  trail := h.trailOwing.trans hp.trail

/-- A till row that reads clean and as before passes as before. -/
theorem SameButRows.tillPasses {kd : RequestKind} {k : Work} {t : TillRow} (h : SameButRows s u) (ht : TillPasses kd k t s)
    (hstored : u.tillRow k.req.tillIndex = { val := t, ecc := .clean }) : TillPasses kd k t u where
  inTable := ht.inTable
  unlisted := (h.isListed ..).trans ht.unlisted
  stored := hstored
  admits := ht.admits
  free := (h.lockHeld _).trans ht.free
  bank := by
    rw [h.locks]
    exact ht.bank
  fresh := ht.fresh
  gate := by
    rw [h.dir, h.clock]
    exact ht.gate

end

/-- Wrong bits in the two rows that a till request reads are put right by its reads, and it comes to step 16 all the same (R132, R133). -/
theorem corrupted_reaches_sixteen {kd : RequestKind} {f : Req → Bool} {w i : Nat} {k : Work} {t : TillRow} {sel : Selection} {row : CardRow}
    {s v : State} (hf : f k.req = true) (h : TillReady kd w k t sel i row s) (hv : Corrupted k.req.tillIndex i s v) :
    ∃ u, ReadsAs (s.bothLocked k i) u ∧ beginRequest f w v = runSixteen w kd (k.tillServed t sel i s) (servedPlan kd k sel row s) u := by
  obtain ⟨hp, hkd, ht, hc, hr⟩ := h
  have hsame : SameButRows s v := ⟨hv.store, hv.rest⟩
  obtain ⟨htillVal, htillEcc⟩ := hv.till
  rw [ht.stored] at htillVal
  obtain ⟨v₁, hread, hclean, hothers, hrest⟩ := readTill_correctable ht.inTable ((hsame.isListed ..).trans ht.unlisted) htillVal htillEcc
  have hsame₁ : SameButRows s v₁ := by
    have hstore : v₁.store = { v.store with tills := v₁.store.tills } := by
      rw [← hrest]
    refine ⟨?_, (congrArg (fun x : State => { x with store := s.store }) hrest).trans hv.rest⟩
    rw [hstore]
    exact hv.store
  have hp₁ := hsame₁.posted hp
  have ht₁ := hsame₁.tillPasses ht hclean
  have hfirst : beginRequest f w v = beginRequest f w v₁ := by
    rw [till_request_reaches_three hf hkd (hsame.posted hp), till_request_reaches_three hf hkd hp₁,
      stepThree_admits (readTill_clean ht₁.inTable ht₁.unlisted hclean) ht.admits]
    simp only [stepThree, hread, ht.admits, if_true]
  have hcards : ∀ n, v₁.card n = v.card n := fun n => (congrArg (fun x : State => x.card n) hrest :)
  obtain ⟨hcardVal, hcardEcc⟩ := hv.card
  rw [hc.stored, ← hcards] at hcardVal
  rw [← hcards] at hcardEcc
  obtain ⟨v₂, hread₂, hclean₂, hothers₂, hrest₂⟩ := readCard_correctable (v := v₁.bothLocked k i) hcardVal hcardEcc
  have htills₂ : v₂.store.tills = v₁.store.tills := (congrArg (fun x : State => x.store.tills) hrest₂ :)
  have hclock : (v₁.bothLocked k i).clock = s.clock := hsame₁.clock
  have hclockRead : v₂.clock = (v₁.bothLocked k i).clock := (congrArg State.clock hrest₂ :)
  have hclock₂ : v₂.clock = s.clock := hclockRead.trans hclock
  refine ⟨v₂, ⟨fun n => ?_, fun n => ?_, ?_, ?_⟩, ?_⟩
  · have hrow : v₂.tillRow n = v₁.tillRow n := by rw [State.tillRow, htills₂, State.tillRow]
    rw [hrow]
    by_cases hn : n = k.req.tillIndex
    · rw [hn, hclean]
      exact ht.stored.symm
    · rw [hothers n hn, hv.otherTills n hn]
      rfl
  · by_cases hn : n = i
    · rw [hn, hclean₂]
      exact hc.stored.symm
    · have hcard : (v₁.bothLocked k i).card n = s.card n := (hcards n).trans (hv.otherCards n hn)
      rw [hothers₂ n hn, hcard]
      rfl
  · have hstore : v₂.store = { v₁.store with cards := v₂.store.cards } := by
      have := congrArg State.store hrest₂
      exact (congrArg (fun x : Store => { x with cards := v₂.store.cards }) this :)
    rw [hstore]
    exact hsame₁.store
  · have h₁ : ({ v₂ with store := s.store } : State) = { v₁.bothLocked k i with store := s.store } :=
      congrArg (fun x : State => { x with store := s.store }) hrest₂
    have h₂ : ({ v₁.bothLocked k i with store := s.store } : State) = s.bothLocked k i := by
      have hlocks := congrArg (fun x : State => x.bothLocked k i) hsame₁.rest
      exact hlocks
    exact h₁.trans h₂
  · have hserved : k.tillServed t sel i v₁ = k.tillServed t sel i s := by rw [Work.tillServed, hsame₁.clock, hsame₁.dir, Work.tillServed]
    have hpasses : RowPasses kd (k.tillServed t sel i s) sel row v₂ :=
      ⟨hr.owned, by rw [hclock₂]; exact hr.gate, by rw [hclock₂]; exact hr.code⟩
    have hplan : servedPlan kd (k.tillServed t sel i s) sel row v₂ = servedPlan kd k sel row s := by
      rw [servedPlan, workingRow, hclock₂]
      rfl
    rw [hfirst, till_request_reaches_thirteen hf hkd hp₁ ht₁ hc.digit (by rw [hsame₁.tables]; exact hc.selected) hc.allowed hc.serial
      ((hsame₁.isListed ..).trans hc.unlisted) ((hsame₁.lockHeld _).trans hc.free) (by rw [hsame₁.locks]; exact hc.bank),
      afterCardLock_readThen (RequestKind.gated_of_isTill hkd) rfl rfl hread₂, hclock]
    have hk : ({ k.tillRowRead t v₁ with
        selection := some sel, rowIndex := some i, cardLock := some i, cardReading := some s.clock.reading } : Work) = k.tillServed t sel i s := by
      rw [← hserved, Work.tillServed, ← hsame₁.clock]
      rfl
    have hpass := onCardRow_passes (w := w) hpasses
    rw [hclock₂, hplan] at hpass
    rw [← hk] at hpass ⊢
    exact hpass

/-! ### The statement -/

/-- A code check that passes leaves the card, but that a right code sets tries to 0 (R17). -/
theorem codeCheck_card {kd : RequestKind} {r : Req} {sel : Selection} {c : CardRow} (h : (codeCheck kd r sel c).reason = none) :
    (codeCheck kd r sel c).card = if codeRequired kd r.amount sel c then { c with tries := 0 } else c := by
  unfold codeCheck at h ⊢
  split
  · next hrequired =>
    rw [if_pos hrequired] at h
    split
    · next habsent =>
      rw [if_pos habsent] at h
      exact absurd h (Option.some_ne_none _)
    · next habsent =>
      rw [if_neg habsent] at h
      split
      · rfl
      · next hwrong =>
        rw [if_neg hwrong] at h
        dsimp only at h
        split at h <;> exact absurd h (Option.some_ne_none _)
  · rfl

/-- Settles O37: step 16 of BALANCE answers the plan it was brought. -/
theorem balanceReportsTheCard : Obligations.BalanceReportsTheCard := by
  unfold Obligations.BalanceReportsTheCard
  rintro w i e s₀ s k t sel row rfl h
  intro p
  have hworking : workingRow .balance k sel row (s₀.outside e) =
      if codeRequired .balance k.req.amount sel row then { row with tries := 0 } else row := codeCheck_card h.row.code
  have hplan : servedPlan .balance k sel row (s₀.outside e) = p := by
    rw [servedPlan, hworking]
    rfl
  refine ⟨?_, ?_⟩
  · have hcommit := till_request_commits (mk := Instr.balance) (by simp [tillCommands]) h rfl rfl h.trail
    rw [hplan] at hcommit
    exact hcommit
  · rintro v₀ v rfl hv
    obtain ⟨u, hu, hbegin⟩ := corrupted_reaches_sixteen (f := ofKind .balance) h.posted.row_ofKind h hv
    have hsame : SameButRows ((s₀.outside e).bothLocked k i) u := ⟨hu.store, hu.rest⟩
    refine ⟨u, hu, ?_⟩
    rw [hplan] at hbegin
    rw [exec_requestCommand (tillCommand_mem_requestCommands (mk := Instr.balance) (kd := .balance) (by simp [tillCommands])), hbegin,
      runSixteen_plan (q := p) rfl rfl (hsame.trailOwing.trans h.trail)]

end Sys2Proof.Machine
end

section
/-! PROOFS. Step 16 of REVERSE (spec/03, 3.8; spec/05, 5.5; O45, O46). -/

namespace Sys2Proof.Machine

/-! ### The target's entry (R61, R107) -/

/-- An entry found carries the sequence looked for. -/
theorem findRecent_seq {seq : Nat} {l : List RecentEntry} {x : RecentEntry} (h : findRecent seq l = some x) : x.seq = seq := by
  have hpasses := List.find?_some (p := fun e : RecentEntry => decide (e.seq = seq)) h
  exact of_decide_eq_true hpasses

/-- The entry is one of this card when it names the card row, or names none and carries the digits (R61, R110). -/
theorem entryOnCard_iff {x : RecentEntry} {i : Nat} {digits : List Nat} :
    entryOnCard x (some i) digits = true ↔ x.cardRow = some i ∨ (x.cardRow = none ∧ x.digits = digits) := by
  unfold entryOnCard
  cases x.cardRow with
  | none => simp
  | some j => simp

section
variable {k : Work} {x : RecentEntry} {p : Plan} {s : State} {l : List RecentEntry}

/-- No entry of the target: a REVERSED_AHEAD entry is added (R109). -/
theorem reverseStep_none (hfind : findRecent k.req.target ((k.till.getD {}).recent) = none) : reverseStep k p s =
    (s, some { p.decline .noOriginal with ahead := some (aheadEntry k.req.target k.req.digits k.rowIndex) }) := by
  unfold reverseStep
  dsimp only
  rw [hfind]

/-- An entry that is REVERSED_AHEAD, or another card's, declines (R61, R110). -/
theorem reverseStep_noOriginal (hfind : findRecent k.req.target ((k.till.getD {}).recent) = some x)
    (h : x.state = .reversedAhead ∨ entryOnCard x k.rowIndex k.req.digits = false) : reverseStep k p s = (s, some (p.decline .noOriginal)) := by
  unfold reverseStep
  dsimp only
  rw [hfind]
  dsimp only
  split
  · rfl
  · next hstate =>
    rw [h.resolve_left hstate]
    rfl

/-- A target already REVERSED is answered as a repeat (R61). -/
theorem reverseStep_reversed (hfind : findRecent k.req.target ((k.till.getD {}).recent) = some x)
    (hcard : entryOnCard x k.rowIndex k.req.digits = true) (hstate : x.state = .reversed) : reverseStep k p s =
    (s, some { p.withCard (usedToday p.today p.working) with
      result := .approved, reason := .none, approved := 0, flags := { p.flags with isRepeat := true } }) := by
  unfold reverseStep
  dsimp only
  rw [hfind]
  dsimp only
  rw [hstate, if_neg (by decide), hcard, if_neg (by decide), if_pos rfl]

/-- An ANSWERED entry of this card is reversed by its kind and result (R62 to R65). -/
theorem reverseStep_answered (hfind : findRecent k.req.target ((k.till.getD {}).recent) = some x)
    (hcard : entryOnCard x k.rowIndex k.req.digits = true) (hstate : x.state = .answered) : reverseStep k p s = reverseAnswered k x p s := by
  unfold reverseStep
  dsimp only
  rw [hfind]
  dsimp only
  rw [hstate, if_neg (by decide), hcard, if_neg (by decide), if_neg (by decide)]

/-! ### An ANSWERED target -/

theorem reverseAnswered_moved (h : x.result = some .approved ∨ x.result = some .partly) : reverseAnswered k x p s =
    match x.kind with
    | some .redeem => (s, some (reverseDraw x .redeem p))
    | some .holdClose => (s, some (reverseDraw x .holdClose p))
    | some .load => (s, some (reverseLoad x .load p))
    | some .activate => (s, some (reverseLoad x .activate p))
    | some .holdOpen => reverseHold k x p s
    | _ => (s, some (reversed p x.seq)) := if_pos h

/-- A declined target, or one that moved no value, becomes REVERSED and nothing else (R65). -/
theorem reverseAnswered_nothing (h : (x.result ≠ some .approved ∧ x.result ≠ some .partly) ∨ x.kind = some .balance ∨ x.kind = some .holdRenew ∨
    x.kind = some .holdCancel ∨ x.kind = some .reverse) : reverseAnswered k x p s = (s, some (reversed p x.seq)) := by
  by_cases hmoved : x.result = some .approved ∨ x.result = some .partly
  · rw [reverseAnswered_moved hmoved]
    rcases h with ⟨h₁, h₂⟩ | h | h | h | h
    · rcases hmoved with hm | hm
      · exact absurd hm h₁
      · exact absurd hm h₂
    all_goals rw [h]
  · exact if_neg hmoved

end

/-- Settles O45: the kind of the target's entry selects `reverseDraw` or `reverseLoad`. -/
theorem reverseRestoresOrTakesBack : Obligations.ReverseRestoresOrTakesBack := by
  unfold Obligations.ReverseRestoresOrTakesBack
  rintro w i e s₀ s k t sel row x kd rfl h hfind hstate hcard hresult hkind
  intro p c a out
  have hseq : x.seq = k.req.target := findRecent_seq hfind
  have htarget : findRecent k.req.target (((k.tillServed t sel i (s₀.outside e)).till.getD {}).recent) = some x := by
    have hrecent : ((k.tillServed t sel i (s₀.outside e)).till.getD {}).recent = t.recent := TillRow.atSecondReading_recent ..
    rwa [hrecent]
  have hstep : reverseStep (k.tillServed t sel i (s₀.outside e)) (servedPlan .reverse k sel row (s₀.outside e)) ((s₀.outside e).bothLocked k i) =
      reverseAnswered (k.tillServed t sel i (s₀.outside e)) x (servedPlan .reverse k sel row (s₀.outside e)) ((s₀.outside e).bothLocked k i) :=
    reverseStep_answered htarget (entryOnCard_iff.mpr hcard) hstate
  rw [reverseAnswered_moved hresult, hkind] at hstep
  have hcommit : ∀ q, reverseStep (k.tillServed t sel i (s₀.outside e)) (servedPlan .reverse k sel row (s₀.outside e))
      ((s₀.outside e).bothLocked k i) = ((s₀.outside e).bothLocked k i, some q) → q.status = none → exec (.reverse w e) s₀ = out q :=
    fun q hsixteen hq => till_request_commits (by simp [tillCommands]) h hsixteen hq h.trail
  have hload : kd = .load ∨ kd = .activate →
      exec (.reverse w e) s₀ = out (reverseLoad x kd (servedPlan .reverse k sel row (s₀.outside e))) := by
    rintro (rfl | rfl)
    · exact hcommit _ hstep rfl
    · exact hcommit _ hstep rfl
  refine ⟨fun hkd => ?_, fun hkd => ⟨fun y d hparts hy => ?_, fun hparts => ?_⟩⟩
  · have hdraw : exec (.reverse w e) s₀ = out (reverseDraw x kd (servedPlan .reverse k sel row (s₀.outside e))) := by
      rcases hkd with rfl | rfl
      · exact hcommit _ hstep rfl
      · exact hcommit _ hstep rfl
    rw [hdraw, reverseDraw, hseq]
    rfl
  · have hrecorded : recordedBonus x = (y, d) := by
      rw [recordedBonus, hparts]
      rfl
    rw [hload hkd, reverseLoad, hseq]
    simp only [hrecorded, if_neg hy]
    rfl
  · have hrecorded : recordedBonus x = (0, 0) := by
      rw [recordedBonus, hparts]
      rfl
    rw [hload hkd, reverseLoad, hseq]
    simp only [hrecorded, if_true, lt_self_iff_false, or_false]
    rfl

/-! ### A HOLD_OPEN (R64) -/

/-- What REVERSE answers by what the reference of its HOLD_OPEN target came to in state `v` (R64, R83); the plan has the hold index. -/
def reverseFound (office : Bool) (x : RecentEntry) (p : Plan) (v : State) : HoldFound → Sixteen
  | .noRef => (v, some (reverseEnded x p))
  | .unreadable r => if office then (v, some (reverseOpen x p r (freedFromRef r.gen) true)) else (v, some (p.decline .cardUnreadable))
  | .gone _ _ => (v, some (reverseEnded x p))
  | .live r h => (v, some (reverseOpen x p r (freedRow h) office))

section
variable {k : Work} {x : RecentEntry} {p : Plan} {s v : State} {ref : HoldRef} {found : HoldFound}

theorem reverseHold_found (href : x.ref = some ref) (hfind : findHold ref p.working k.now s = (v, found)) :
    reverseHold k x p s = reverseFound k.onOfficeLane x { p with holdIndex := some ref.index } v found := by
  have hfind : findHold ref ({ p with holdIndex := some ref.index } : Plan).working k.now s = (v, found) := hfind
  unfold reverseHold
  rw [href]
  dsimp only
  rw [hfind]
  cases found <;> rfl

end

/-- Settles O46: the entry found, its card and state, and for a HOLD_OPEN what its reference comes to. -/
theorem reverseOfOtherTargets : Obligations.ReverseOfOtherTargets := by
  unfold Obligations.ReverseOfOtherTargets
  rintro w i e s₀ s k t sel row rfl h
  intro p c used u ends out
  have hrecent : ((k.tillServed t sel i (s₀.outside e)).till.getD {}).recent = t.recent := TillRow.atSecondReading_recent ..
  have hcommit : ∀ q v, reverseStep (k.tillServed t sel i (s₀.outside e)) p u = (v, some q) → q.status = none → Observed u v →
      exec (.reverse w e) s₀ = ends q v :=
    fun q v hsixteen hq hv => till_request_commits (by simp [tillCommands]) h hsixteen hq (hv.trailOwing.trans h.trail)
  refine ⟨fun hnone => ?_, fun x hx => ⟨fun hother => ?_, fun hcard => ⟨fun hstate => ?_, fun hstate => ?_⟩⟩⟩
  · exact hcommit _ u (reverseStep_none (by rw [hrecent]; exact hnone)) rfl (.refl u)
  all_goals
    have htarget : findRecent k.req.target ((k.tillServed t sel i (s₀.outside e)).till.getD {}).recent = some x := by
      rw [hrecent]
      exact hx
  · refine hcommit _ u (reverseStep_noOriginal htarget (hother.imp_right fun hcard => ?_)) rfl (.refl u)
    refine Bool.eq_false_iff.mpr fun honcard => ?_
    rcases entryOnCard_iff.mp honcard with hrow | ⟨hnone, hdigits⟩
    · rcases hcard with ⟨j, hj, hne⟩ | ⟨hno, -⟩
      · exact hne (Option.some.inj (hj.symm.trans hrow))
      · exact Option.some_ne_none i (hrow.symm.trans hno)
    · rcases hcard with ⟨j, hj, -⟩ | ⟨-, hne⟩
      · exact Option.some_ne_none j (hj.symm.trans hnone)
      · exact hne hdigits
  · exact hcommit _ u (reverseStep_reversed htarget (entryOnCard_iff.mpr hcard) hstate) rfl (.refl u)
  · have hstep := reverseStep_answered (k := k.tillServed t sel i (s₀.outside e)) (p := p) (s := u) htarget (entryOnCard_iff.mpr hcard) hstate
    have hseq : x.seq = k.req.target := findRecent_seq hx
    intro r
    refine ⟨fun hnothing => ?_, fun ref hresult hkind href => ?_⟩
    · refine (hcommit _ u (hstep.trans (reverseAnswered_nothing hnothing)) rfl (.refl u)).trans ?_
      rw [hseq]
      rfl
    · rw [reverseAnswered_moved (.inl hresult), hkind] at hstep
      intro a m
      have hfound : ∀ v found, findHold ref c (s₀.outside e).clock.now u = (v, found) →
          reverseStep (k.tillServed t sel i (s₀.outside e)) p u =
            reverseFound k.onOfficeLane x { p with holdIndex := some ref.index } v found := fun v found hfind =>
        hstep.trans (reverseHold_found (k := k.tillServed t sel i (s₀.outside e)) (p := p) (found := found) href hfind)
      refine ⟨fun hnone => ?_, fun f v hf hread hlane => ?_, fun f v hf hread hlane => ?_, fun f h' hf hlisted hstored => ⟨fun hdue => ?_, fun hlive => ?_⟩⟩
      · refine (hcommit _ u (hfound _ _ (findHold_noRef hnone)) rfl (.refl u)).trans ?_
        rw [reverseEnded, hseq]
        rfl
      · exact hcommit _ v ((hfound _ _ (findHold_unread hf hread)).trans (if_neg (hlane ▸ Bool.false_ne_true))) rfl hread.observed
      · refine (hcommit _ v ((hfound _ _ (findHold_unread hf hread)).trans (if_pos hlane)) rfl hread.observed).trans ?_
        rw [reverseOpen, hseq]
        rfl
      · refine (hcommit _ u (hfound _ _ (findHold_gone hf (holdRead_clean hlisted hstored) hdue)) rfl (.refl u)).trans ?_
        rw [reverseEnded, hseq]
        rfl
      · refine (hcommit _ u (hfound _ _ (findHold_live hf (holdRead_clean hlisted hstored) hlive)) rfl (.refl u)).trans ?_
        rw [reverseOpen, hseq]
        rfl

end Sys2Proof.Machine
end

section
/-! PROOFS. Step 16 of CARD_STATUS, BONUS_GRANT, TILL_WRITE and TILL_RELEASE (spec/03, 3.9; spec/05, 5.2 and 5.4; O47, O50). -/

namespace Sys2Proof.Machine

/-! ### Requests with an action -/

/-- A request of a kind with an action is of that action's row. -/
theorem Posted.row_ofAction {kd : RequestKind} {w a : Nat} {k : Work} {s : State} (h : Posted kd w k s) (ha : k.req.action = a) :
    ofAction kd a k.req = true := by
  have hkind : ofKind kd k.req = true := h.row_ofKind
  exact Bool.and_eq_true_iff.mpr ⟨hkind, decide_eq_true ha⟩

/-- An office card request whose checks pass commits what its own step 16 answers. -/
theorem office_request_commits {mk : Nat → Outside → Instr} {f : Req → Bool} {kd : RequestKind} {w i : Nat} {e : Outside} {s₀ v : State} {k : Work}
    {sel : Selection} {row : CardRow} {q : Plan} (hmk : (mk, f) ∈ requestCommands) (hf : f k.req = true)
    (h : OfficeReady kd w k sel i row (s₀.outside e))
    (hsixteen : stepSixteen kd (k.officeServed sel i (s₀.outside e)) (servedPlan kd k sel row (s₀.outside e)) ((s₀.outside e).cardLocked k i) =
      (v, some q)) (hq : q.status = none) (hv : Observed ((s₀.outside e).cardLocked k i) v) :
    exec (mk w e) s₀ = .next (commitNow w (k.officeServed sel i (s₀.outside e)) q v) := by
  have htrail : v.trailOwing v.store.trailPlace = false := hv.trailOwing.trans h.posted.trail
  rw [exec_requestCommand hmk, office_request_reaches_sixteen hf h, runSixteen_plan hsixteen hq htrail]

/-! ### CARD_STATUS CLOSE (R6, R67) -/

/-- The content of a freed row that its card's reference gives, read or not (R82, R83). -/
def freedContent (s : State) (r : CardRef) : HoldRow :=
  if s.isListed .hold r.index = true then freedFromRef r.gen else freedRow (s.hold r.index).val

/-- Rows that are listed, or read clean, are freed without a change of state. -/
theorem freeRefs_readable {rs : List CardRef} {s : State} (h : ∀ r ∈ rs, s.isListed .hold r.index = true ∨ (s.hold r.index).ecc = .clean) :
    freeRefs rs s = (s, rs.map (fun r => .freeRow r.index (freedContent s r) true)) := by
  induction rs with
  | nil => rfl
  | cons r rs ih =>
    rw [List.forall_mem_cons] at h
    obtain ⟨hr, hrs⟩ := h
    rw [List.map_cons]
    cases hlisted : s.isListed .hold r.index with
    | true =>
      have hread : readHold s r.index = (s, none) := readHold_holdUnread (.inl ⟨hlisted, rfl⟩)
      simp only [freeRefs, hread, ih hrs, freedContent, hlisted, if_true]
    | false =>
      have hclean : (s.hold r.index).ecc = .clean := hr.resolve_left (by simp [hlisted])
      have hread : readHold s r.index = (s, some (s.hold r.index).val) := readHold_holdRead ⟨hlisted, rfl, .inl ⟨hclean, rfl⟩⟩
      simp only [freeRefs, hread, ih hrs, freedContent, hlisted, Bool.false_eq_true, if_false]

/-- A row that cannot be read is freed with a content built from its reference. -/
theorem freeRefs_unread {r : CardRef} {s v : State} (h : HoldUnread r.index s v) :
    freeRefs [r] s = (v, [.freeRow r.index (freedFromRef r.gen) true]) := by
  rw [freeRefs, readHold_holdUnread h]
  rfl

/-- Settles O47: each action by its equation, BONUS_GRANT by its checks in order. -/
theorem cardStatusAndBonusGrant : Obligations.CardStatusAndBonusGrant := by
  unfold Obligations.CardStatusAndBonusGrant
  constructor
  · rintro w i e s₀ s k sel row rfl h
    intro p c out
    constructor
    · intro mk action old new tries hmem haction
      have hcommit : ∀ {mk : Nat → Outside → Instr} {a : Nat}, (mk, ofAction .cardStatus a) ∈ requestCommands → k.req.action = a → ∀ q,
          cardStatusStep (k.officeServed sel i (s₀.outside e)) p ((s₀.outside e).cardLocked k i) = ((s₀.outside e).cardLocked k i, some q) →
          q.status = none → exec (mk w e) s₀ = out q := fun hmk ha q hsixteen hq =>
        office_request_commits hmk (h.posted.row_ofAction ha) h hsixteen hq (.refl _)
      have hstep : ∀ {tr : Nat → Nat}, (mk, ofAction .cardStatus action) ∈ requestCommands →
          cardStatusStep (k.officeServed sel i (s₀.outside e)) p ((s₀.outside e).cardLocked k i) =
            ((s₀.outside e).cardLocked k i, some (changeStatus old new tr p)) → tr c.tries = tries →
          (c.state = old → exec (mk w e) s₀ = out { p with
            result := .approved, reason := .none, approved := 0, own := [(.status, [old.code, new.code])]
            card := some { c with state := new, tries := tries } }) ∧
          (c.state ≠ old → exec (mk w e) s₀ = out { p with result := .declined, reason := .outOfRange }) := by
        intro tr hmk hsixteen htries
        constructor
        · intro hold
          have hchange : changeStatus old new tr p = { p with
              result := .approved, reason := .none, approved := 0, own := [(.status, [old.code, new.code])]
              card := some { c with state := new, tries := tr c.tries } } := if_pos hold
          rw [← htries]
          exact hcommit hmk haction _ (hsixteen.trans (by rw [hchange])) rfl
        · intro hold
          have hchange : changeStatus old new tr p = { p with result := .declined, reason := .outOfRange } := if_neg hold
          exact hcommit hmk haction _ (hsixteen.trans (by rw [hchange])) rfl
      have hreq : (k.officeServed sel i (s₀.outside e)).req.action = action := haction
      simp only [List.mem_cons, Prod.mk.injEq, List.not_mem_nil, or_false] at hmem
      rcases hmem with ⟨rfl, rfl, rfl, rfl, rfl⟩ | ⟨rfl, rfl, rfl, rfl, rfl⟩ | ⟨rfl, rfl, rfl, rfl, rfl⟩
      · exact hstep (tr := id) (by simp [requestCommands]) (by rw [cardStatusStep, hreq]; rfl) rfl
      · exact hstep (tr := id) (by simp [requestCommands]) (by rw [cardStatusStep, hreq]; rfl) rfl
      · exact hstep (tr := fun _ => 0) (by simp [requestCommands]) (by rw [cardStatusStep, hreq]; rfl) rfl
    · intro haction b u built closed
      have hreq : (k.officeServed sel i (s₀.outside e)).req.action = 4 := haction
      have hclose : ∀ ops v, freeRefs c.refs u = (v, ops) → Observed u v → exec (.cardStatusClose w e) s₀ = closed ops v := by
        intro ops v hfree hv
        have hfree : freeRefs p.working.refs u = (v, ops) := hfree
        have hsixteen : cardStatusStep (k.officeServed sel i (s₀.outside e)) p u = closeCard p u := by
          rw [cardStatusStep, hreq]
          rfl
        refine office_request_commits (mk := Instr.cardStatusClose) (f := ofAction .cardStatus 4) (by simp [requestCommands])
          (h.posted.row_ofAction haction) h (hsixteen.trans ?_) rfl hv
        rw [closeCard, hfree]
        rfl
      refine ⟨fun hreadable => ?_, fun r v hrefs hread => ?_⟩
      · exact hclose _ u (freeRefs_readable (s := u) hreadable) (.refl u)
      · exact hclose _ v (by rw [hrefs, freeRefs_unread hread]; rfl) hread.observed
  · rintro w i e s₀ s k sel row rfl h
    intro p c g d out
    have hcommit : ∀ q, bonusGrantStep (k.officeServed sel i (s₀.outside e)) p ((s₀.outside e).cardLocked k i) =
        ((s₀.outside e).cardLocked k i, some q) → q.status = none → exec (.bonusGrant w e) s₀ = out q := fun q hsixteen hq =>
      office_request_commits (mk := Instr.bonusGrant) (f := ofKind .bonusGrant) (by simp [requestCommands]) h.posted.row_ofKind h hsixteen hq
        (.refl _)
    refine ⟨fun hpast => hcommit _ (if_pos hpast) rfl, fun hpast => ⟨fun hcap => hcommit _ ?_ rfl, fun hcap => ⟨fun hfull => hcommit _ ?_ rfl,
      fun ls hadd => hcommit _ ?_ rfl⟩⟩⟩
    all_goals refine (if_neg (not_lt.mpr hpast)).trans ?_
    · exact if_pos hcap
    all_goals refine (if_neg (not_lt.mpr hcap)).trans ?_
    · have hfull : addBonus (k.officeServed sel i (s₀.outside e)).req.amount (fieldAt (k.officeServed sel i (s₀.outside e)).req.params 0 2)
          p.working.lots = none := hfull
      rw [hfull]
      rfl
    · have hadd : addBonus (k.officeServed sel i (s₀.outside e)).req.amount (fieldAt (k.officeServed sel i (s₀.outside e)).req.params 0 2)
          p.working.lots = some ls := hadd
      rw [hadd]
      rfl

/-! ### TILL_WRITE and TILL_RELEASE -/

/-- An office request that takes a till lock commits what its own step 16 answers. -/
theorem till_table_request_commits {mk : Nat → Outside → Instr} {f : Req → Bool} {kd : RequestKind} {w : Nat} {e : Outside} {s₀ v : State} {k : Work}
    {q : Plan} (hmk : (mk, f) ∈ requestCommands) (hf : f k.req = true) (h : TillTableReady kd w k (s₀.outside e))
    (hsixteen : stepSixteen kd { k with tillLock := some k.req.tillIndex } {} ((s₀.outside e).tillLocked k) = (v, some q)) (hq : q.status = none)
    (hv : Observed ((s₀.outside e).tillLocked k) v) :
    exec (mk w e) s₀ = .next (commitNow w { k with tillLock := some k.req.tillIndex } q v) := by
  have htrail : v.trailOwing v.store.trailPlace = false := hv.trailOwing.trans h.posted.trail
  rw [exec_requestCommand hmk, till_table_request_reaches_sixteen hf h, runSixteen_plan hsixteen hq htrail]

/-- A till row that is not read, or reads clean, stays as it was. -/
theorem readTill_same {s : State} {i : Nat} (h : s.isListed .till i = true ∨ (s.tillRow i).ecc = .clean) : (readTill s i).1 = s := by
  unfold readTill
  split
  · rfl
  · next hread =>
    have hclean : (s.tillRow i).ecc = .clean := h.resolve_left fun hlisted => hread (by rw [hlisted, Bool.or_true])
    rw [hclean]
    rfl

/-- Settles O50: the row that each action writes. -/
theorem tillWriteAndTillRelease : Obligations.TillWriteAndTillRelease := by
  unfold Obligations.TillWriteAndTillRelease
  rintro w e s₀ s k rfl
  intro i k' u
  refine ⟨fun h => ?_, fun h hin => ⟨fun hlisted => ?_, fun t hlisted hstored => ⟨fun hnot => ?_, fun hregistered hstore htill => ?_⟩⟩⟩
  · intro v
    have hcommit : ∀ {mk : Nat → Outside → Instr} {a : Nat}, (mk, ofAction .tillWrite a) ∈ requestCommands → k.req.action = a →
        exec (mk w e) s₀ = .next (commitNow w k' { ({} : Plan) with
          tillNew := some (if k.req.action = 1 then registeredRow k.req else removedRow), leaves := [(.till, i)] } v) := fun hmk ha =>
      till_table_request_commits hmk (h.posted.row_ofAction ha) h rfl rfl (readTill_observed u i)
    refine ⟨fun ha => ?_, fun ha => ?_, fun hsame => readTill_same (s := u) hsame⟩
    · rw [hcommit (mk := Instr.tillWriteRegister) (a := 1) (by simp [requestCommands]) ha, if_pos ha]
      rfl
    · rw [hcommit (mk := Instr.tillWriteRemove) (a := 2) (by simp [requestCommands]) ha, if_neg (by rw [ha]; decide)]
      rfl
  all_goals
    have hcommit : ∀ q, tillReleaseStep k' {} u = (u, some q) → q.status = none → exec (.tillRelease w e) s₀ = .next (commitNow w k' q u) :=
      fun q hsixteen hq => till_table_request_commits (mk := Instr.tillRelease) (f := ofKind .tillRelease) (by simp [requestCommands])
        h.posted.row_ofKind h hsixteen hq (.refl u)
  · have hread : readTill u k'.req.tillIndex = (u, none) := readTill_listed (.inr hlisted)
    exact hcommit _ (by rw [tillReleaseStep, hread]; rfl) rfl
  all_goals have hread : readTill u k'.req.tillIndex = (u, some t) := readTill_clean hin hlisted hstored
  · have hadmits : t.admits k'.req = false := by
      have hnot : t.registered = false ∨ t.storeNo ≠ k'.req.storeNo ∨ t.tillNo ≠ k'.req.tillNo := hnot
      rcases hnot with h | h | h <;> simp [TillRow.admits, h]
    refine hcommit _ ?_ rfl
    rw [tillReleaseStep, hread]
    simp only [hadmits, Bool.false_eq_true, if_false]
    rfl
  · have hadmits : t.admits k'.req = true := by
      have hstore : t.storeNo = k'.req.storeNo := hstore
      have htill : t.tillNo = k'.req.tillNo := htill
      simp [TillRow.admits, hregistered, hstore, htill]
    refine hcommit _ ?_ rfl
    rw [tillReleaseStep, hread]
    simp only [hadmits, if_true]
    rfl

end Sys2Proof.Machine
end

section
/-! PROOFS. Step 16 of ROW_READ and ROW_WRITE (spec/03, 3.9), and the read-outs of the trail and the quarantine list (spec/07, R143, R144):
O48, O52. -/

namespace Sys2Proof.Machine

/-! ### Blocks that go to the host -/

/-- A block with a byte whose write fails is not written whole. -/
theorem writablePrefix_length_lt {l : Link} {a : Nat} {bs : List Byte} (h : ¬ l.writable a bs.length) :
    (writablePrefix l a bs).length < bs.length := by
  induction bs generalizing a with
  | nil => exact absurd (fun i hi => absurd hi (Nat.not_lt_zero i)) h
  | cons b bs ih =>
    unfold writablePrefix
    cases hfirst : l.writeFailsAt a with
    | true => simp
    | false =>
      have hrest : ¬ l.writable (a + 1) bs.length := fun hrest => h fun i hi => by
        cases i with
        | zero => exact hfirst
        | succ i =>
          rw [← Nat.add_assoc, Nat.add_right_comm]
          exact hrest i (by simpa using hi)
      simpa using ih hrest

/-- A block write's answer says whether all of its bytes can be written. -/
theorem linkBlock_writable {s : State} {a : Nat} {bs : List Byte} (h : s.link.writable a bs.length) :
    linkBlock s a bs = (s.setMem (memWrite s.link.mem a (writablePrefix s.link a bs)), true) := by
  rw [linkBlock, writablePrefix_whole h]
  simp

theorem linkBlock_short {s : State} {a : Nat} {bs : List Byte} (h : ¬ s.link.writable a bs.length) :
    linkBlock s a bs = (s.setMem (memWrite s.link.mem a (writablePrefix s.link a bs)), false) := by
  have hlt := writablePrefix_length_lt h
  rw [linkBlock, decide_eq_false (by omega)]

/-! ### Requests of the kinds without a till -/

/-- A ROW_READ or ROW_WRITE request whose row reads commits what its own step 16 answers. -/
theorem row_request_commits {mk : Nat → Outside → Instr} {kd : RequestKind} {w i : Nat} {e : Outside} {s₀ s v : State} {k : Work}
    {sel : Selection} {row : CardRow} {q : Plan} (hs : s₀.outside e = s) (hmk : (mk, ofKind kd) ∈ requestCommands)
    (h : RowReady kd w k sel i row s)
    (hsixteen : stepSixteen kd (k.officeServed sel i s) { today := s.clock.day, card := some row, cardRead := some row }
      (s.cardLocked k i) = (v, some q)) (hq : q.status = none) (hv : v.store = s.store) :
    exec (mk w e) s₀ = .next (commitNow w (k.officeServed sel i s) q v) := by
  have htrail : v.trailOwing v.store.trailPlace = false := by
    have howes := h.posted.trail
    rw [State.trailOwing, State.trailStatusAt] at howes ⊢
    rw [hv]
    exact howes
  rw [exec_requestCommand hmk, hs, row_request_reaches_sixteen h.posted.row_ofKind h, runSixteen_plan hsixteen hq htrail]

/-- A ROW_WRITE of a listed row takes its card lock and commits what its step 16 answers, with no row read (R71). -/
theorem row_write_listed_commits {w i : Nat} {e : Outside} {s₀ s v : State} {k : Work} {sel : Selection} {q : Plan}
    (hs : s₀.outside e = s) (hposted : Posted .rowWrite w k s) (hdigit : checkDigitOk k.req.digits = true)
    (hsel : selectProgramme s.tables k.req.digits = some sel) (hi : rowIndex sel k.req.serial = some i)
    (hlisted : s.isListed .card i = true) (hfree : s.lockHeld (.card i) = false)
    (hbank : s.locks.card.length < 8)
    (hsixteen : stepSixteen .rowWrite (k.officeServed sel i s) { today := s.clock.day }
      (s.cardLocked k i) = (v, some q)) (hq : q.status = none) (hv : Observed (s.cardLocked k i) v) :
    exec (.rowWrite w e) s₀ = .next (commitNow w (k.officeServed sel i s) q v) := by
  have htrail : v.trailOwing v.store.trailPlace = false := hv.trailOwing.trans hposted.trail
  have hoffice : k.onOfficeLane = true := hposted.authority.resolve_left (by decide)
  have hbegin : beginRequest (ofKind .rowWrite) w s = stepsSevenOn w .rowWrite k s := by
    rw [beginRequest_held hposted.held hposted.row_ofKind, stepOne_wellFormed hposted.kind hposted.wellFormed]
    simp [stepTwo, RequestKind.isTill, RequestKind.takesTillLock, RequestKind.hasCard, hoffice]
  have hmk : (Instr.rowWrite, ofKind .rowWrite) ∈ requestCommands := by simp [requestCommands]
  have hrow : beginRequest (ofKind .rowWrite) w s = commitNow w (k.officeServed sel i s) q v := by
    rw [hbegin, stepsSevenOn_takesLock hdigit hsel rfl hi (.inr rfl), takeCardLock_granted rfl hfree hbank]
    exact (afterCardLock_listed (s := s.cardLocked k i) rfl hlisted).trans (runSixteen_plan hsixteen hq htrail)
  rw [exec_requestCommand hmk, hs, hrow]

/-- References each of which names its own OPEN hold row, readable without an error, pass their checks (R71). -/
theorem refsHold_open {card : Nat} {rs : List CardRef} {s : State} (hnodup : (rs.map (·.index)).Nodup)
    (h : ∀ r ∈ rs, s.isListed .hold r.index = false ∧ ∃ x, s.hold r.index = { val := x, ecc := .clean } ∧ x.isOpen = true ∧ x.gen = r.gen ∧
      x.amount = r.amount ∧ x.card = card) : refsHold card rs s = (s, true) := by
  induction rs with
  | nil => rfl
  | cons r rs ih =>
    rw [List.map_cons, List.nodup_cons] at hnodup
    rw [List.forall_mem_cons] at h
    obtain ⟨⟨hlisted, x, hstored, hopen, hgen, hamount, hcard⟩, hrest⟩ := h
    have hfresh : ¬ rs.any (fun q => decide (q.index = r.index)) = true := by
      simp only [List.any_eq_true, decide_eq_true_eq, not_exists, not_and]
      exact fun q hq heq => hnodup.1 (List.mem_map.mpr ⟨q, hq, heq⟩)
    have hread : readHold s r.index = (s, some x) :=
      readHold_holdRead ⟨hlisted, by rw [hstored], .inl ⟨by rw [hstored], rfl⟩⟩
    have hholds : refHolds card r s = (s, true) := by
      rw [refHolds, hread]
      simp [hopen, hgen, hamount, hcard]
    rw [refsHold, if_neg hfresh, hholds]
    exact ih hnodup.2 hrest

/-- A first reference whose hold row is listed fails the checks. -/
theorem refsHold_listed {card : Nat} {r : CardRef} {rs : List CardRef} {s : State} (h : s.isListed .hold r.index = true) :
    refsHold card (r :: rs) s = (s, false) := by
  rw [refsHold]
  split
  · rfl
  · rw [refHolds, readHold_holdUnread (.inl ⟨h, rfl⟩)]

section
variable {k : Work} {p : Plan} {s v : State} {bytes : List Byte} {img row : CardRow}

/-- ROW_READ, by what its block write answers (R69). -/
theorem rowReadStep_done (himage : p.working.image = bytes) (h : linkBlock s k.req.address bytes = (v, true)) :
    rowReadStep k p s = (v, some { p with result := .approved, reason := .none, approved := 0, seen := true }) := by
  rw [rowReadStep, himage, h]
  rfl

theorem rowReadStep_failed (himage : p.working.image = bytes) (h : linkBlock s k.req.address bytes = (v, false)) :
    rowReadStep k p s = (v, some (p.decline .transferFailed)) := by
  rw [rowReadStep, himage, h]
  rfl

/-- ROW_WRITE, by the first of its checks that fails (R70, R71). -/
theorem rowWriteStep_unread (h : linkRead s k.req.address 128 = none) :
    rowWriteStep k p s = (s, some ({ p with card := none, cardRead := none }.decline .transferFailed)) := by
  simp only [rowWriteStep, h]

theorem rowWriteStep_noImage (h : linkRead s k.req.address 128 = some bytes)
    (himg : rowOfImage s.holdRows ((k.selection.map (·.programmeNo)).getD 0) bytes = none) :
    rowWriteStep k p s = (s, some ({ p with card := none, cardRead := none }.decline .outOfRange)) := by
  simp only [rowWriteStep, h, himg]

theorem rowWriteStep_refused (h : linkRead s k.req.address 128 = some bytes)
    (himg : rowOfImage s.holdRows ((k.selection.map (·.programmeNo)).getD 0) bytes = some img) (hrow : imageRow k p.cardRead img s = (v, none)) :
    rowWriteStep k p s = (v, some ({ p with card := none, cardRead := none }.decline .outOfRange)) := by
  simp only [rowWriteStep, h, himg, hrow]

theorem rowWriteStep_written (h : linkRead s k.req.address 128 = some bytes)
    (himg : rowOfImage s.holdRows ((k.selection.map (·.programmeNo)).getD 0) bytes = some img)
    (hrow : imageRow k p.cardRead img s = (v, some row)) :
    rowWriteStep k p s = (v, some { p with
      card := some row, cardRead := none, result := .approved, reason := .none, approved := 0, seen := true, leaves := [(.card, k.row)] }) := by
  simp only [rowWriteStep, h, himg, hrow]

/-- The row an image gives keeps a readable row's references; an unreadable one takes the image's (R71). -/
theorem imageRow_readable : imageRow k (some row) img s =
    (s, if (img.state = .empty ∨ img.state = .closed) ∧ row.refs ≠ [] then none else some { img with refs := row.refs, held := row.held }) := rfl

theorem imageRow_unread (h : refsHold k.row img.refs s = (v, true)) :
    imageRow k none img s = (v, if (img.state = .empty ∨ img.state = .closed) ∧ img.refs ≠ [] then none else some img) := by
  simp only [imageRow, h]

theorem imageRow_refused (h : refsHold k.row img.refs s = (v, false)) : imageRow k none img s = (v, none) := by
  simp only [imageRow, h]

end

/-- ROW_READ by whether the bytes of its image can all be written. -/
theorem row_read_commits {w i : Nat} {e : Outside} {s₀ s : State} {k : Work} {sel : Selection} {row : CardRow} {bytes : List Byte}
    (hs : s₀.outside e = s) (h : RowReady .rowRead w k sel i row s) (himage : row.image = bytes) :
    let k' := k.officeServed sel i s
    let p : Plan := { today := s.clock.day, card := some row, cardRead := some row }
    let pre := writablePrefix s.link k.req.address bytes
    let v := (s.cardLocked k i).setMem (memWrite s.link.mem k.req.address pre)
    (s.link.writable k.req.address bytes.length → v.link.mem = memWrite s.link.mem k.req.address bytes ∧
      exec (.rowRead w e) s₀ = .next (commitNow w k' { p with result := .approved, approved := 0, seen := true } v)) ∧
    (¬ s.link.writable k.req.address bytes.length →
      exec (.rowRead w e) s₀ = .next (commitNow w k' { p with result := .declined, reason := .transferFailed } v)) := by
  intro k' p pre v
  have hcommit : ∀ q, rowReadStep k' p (s.cardLocked k i) = (v, some q) → q.status = none →
      exec (.rowRead w e) s₀ = .next (commitNow w k' q v) := fun q hsixteen hq =>
    row_request_commits hs (mk := Instr.rowRead) (by simp [requestCommands]) h hsixteen hq rfl
  refine ⟨fun hwrite => ⟨?_, ?_⟩, fun hwrite => ?_⟩
  · have hwhole : pre = bytes := writablePrefix_whole hwrite
    change memWrite s.link.mem k.req.address pre = _
    rw [hwhole]
  · exact hcommit _ (rowReadStep_done himage (linkBlock_writable (s := s.cardLocked k i) hwrite)) rfl
  · exact hcommit _ (rowReadStep_failed himage (linkBlock_short (s := s.cardLocked k i) hwrite)) rfl

/-- Settles O48: ROW_READ by whether its block can be written, ROW_WRITE by the image and the row's references. -/
theorem rowReadAndRowWrite : Obligations.RowReadAndRowWrite := by
  unfold Obligations.RowReadAndRowWrite
  intro w i e s₀ s k sel hs k' u day
  refine ⟨fun row h => ?_, fun row h => ?_, fun bytes img hposted hdigit hsel hi hlisted hfree hbank hread himg => ?_⟩
  · exact row_read_commits hs h rfl
  · have hcommit : ∀ q, rowWriteStep k' { today := day, card := some row, cardRead := some row } u = (u, some q) → q.status = none →
        exec (.rowWrite w e) s₀ = .next (commitNow w k' q u) := fun q hsixteen hq =>
      row_request_commits hs (mk := Instr.rowWrite) (by simp [requestCommands]) h hsixteen hq rfl
    refine ⟨fun hread => hcommit _ (rowWriteStep_unread (k := k') (s := u) hread) rfl, fun bytes hread =>
      ⟨fun himg => hcommit _ (rowWriteStep_noImage (k := k') (s := u) hread himg) rfl, fun img himg =>
      ⟨fun hempty => ?_, fun hempty => ?_⟩⟩⟩
    · exact hcommit _ (rowWriteStep_refused (k := k') (s := u) hread himg (imageRow_readable.trans (by rw [if_pos hempty]))) rfl
    · exact hcommit _ (rowWriteStep_written (k := k') (s := u) hread himg (imageRow_readable.trans (by rw [if_neg hempty]))) rfl
  · have hcommit : ∀ q, rowWriteStep k' { today := day } u = (u, some q) → q.status = none →
        exec (.rowWrite w e) s₀ = .next (commitNow w k' q u) := fun q hsixteen hq =>
      row_write_listed_commits hs hposted hdigit hsel hi hlisted hfree hbank hsixteen hq (.refl u)
    refine ⟨fun hnodup hopen hempty => ?_, fun r rs hrefs hhold => ?_⟩
    · have hrefs : refsHold k'.row img.refs u = (u, true) := refsHold_open (s := u) (card := k'.row) hnodup hopen
      exact hcommit _ (rowWriteStep_written (k := k') (s := u) hread himg ((imageRow_unread hrefs).trans (by rw [if_neg hempty]))) rfl
    · have hrefs : refsHold k'.row img.refs u = (u, false) := by
        rw [hrefs]
        exact refsHold_listed (s := u) hhold
      exact hcommit _ (rowWriteStep_refused (k := k') (s := u) hread himg (imageRow_refused hrefs)) rfl

/-! ### The trail's read-out -/

/-- The trail as a read-out of some places leaves it: each of them that reads corrected written back, and nothing else changed. -/
def TrailReadOut (read : List Nat) (s v : State) : Prop :=
  (∃ m, v = s.setStore { s.store with trail := m }) ∧
  ∀ n, v.trailCell n = if n ∈ read ∧ (s.trailCell n).correctedRead = true then { entry := (s.trailCell n).entry } else s.trailCell n

/-- One more place read. -/
theorem TrailReadOut.readTrail {read : List Nat} {s v : State} (h : TrailReadOut read s v) (k : Nat) :
    TrailReadOut (k :: read) s (readTrail v k) := by
  obtain ⟨⟨m, rfl⟩, hcells⟩ := h
  set v := s.setStore { s.store with trail := m }
  have hentry : (v.trailCell k).entry = (s.trailCell k).entry := by
    rw [hcells k]
    split <;> rfl
  unfold Machine.readTrail
  dsimp only
  split
  · next hcorrected =>
    refine ⟨⟨_, rfl⟩, fun n => ?_⟩
    have hwas : (s.trailCell k).correctedRead = true := by
      rw [hcells k] at hcorrected
      split at hcorrected
      · next h => exact h.2
      · exact hcorrected
    by_cases hn : n = k
    · subst hn
      rw [if_pos ⟨List.mem_cons_self, hwas⟩, ← hentry]
      exact Sparse.get_set_same _ _ _ _
    · have hsame : (v.setStore { v.store with trail := Sparse.set {} v.store.trail k { entry := (v.trailCell k).entry } }).trailCell n =
          v.trailCell n := Sparse.get_set_other _ _ _ hn
      rw [hsame, hcells n]
      simp [hn]
  · next hcorrected =>
    refine ⟨⟨m, rfl⟩, fun n => ?_⟩
    rw [hcells n]
    by_cases hn : n = k
    · subst hn
      rw [hcells n] at hcorrected
      by_cases hwas : (s.trailCell n).correctedRead = true
      · by_cases hread : n ∈ read
        · simp [hread, hwas]
        · simp [hread, hwas] at hcorrected
      · simp [hwas]
    · simp [hn]

theorem foldl_readTrail {places read : List Nat} {s v : State} (h : TrailReadOut read s v) :
    ∃ done, TrailReadOut done s (places.foldl readTrail v) ∧ ∀ n, n ∈ done ↔ n ∈ places ∨ n ∈ read := by
  induction places generalizing read v with
  | nil => exact ⟨read, h, fun n => by simp⟩
  | cons k places ih =>
    obtain ⟨done, hdone, hmem⟩ := ih (h.readTrail k)
    refine ⟨done, hdone, fun n => ?_⟩
    rw [hmem n, List.mem_cons, List.mem_cons, or_left_comm, or_assoc]

/-- The read-out visits each of the 32 places. -/
theorem mem_trailOrder {s : State} {n : Nat} : n ∈ trailOrder s ↔ n < 32 := by
  constructor
  · intro h
    obtain ⟨k, -, rfl⟩ := List.mem_map.mp h
    exact Nat.mod_lt _ (by decide)
  · intro h
    refine List.mem_map.mpr ⟨(n + (32 - s.store.trailPlace % 32)) % 32, List.mem_range.mpr (Nat.mod_lt _ (by decide)), ?_⟩
    change (s.store.trailPlace + (n + (32 - s.store.trailPlace % 32)) % 32) % 32 = n
    omega

theorem trailRead_done (s : State) : TrailReadOut (List.range 32) s ((trailOrder s).foldl readTrail s) := by
  have hnone : TrailReadOut [] s s := ⟨⟨s.store.trail, rfl⟩, fun n => by simp⟩
  obtain ⟨done, hdone, hmem⟩ := foldl_readTrail (places := trailOrder s) hnone
  refine ⟨hdone.1, fun n => ?_⟩
  rw [hdone.2 n]
  simp only [hmem n, mem_trailOrder, List.mem_range, List.not_mem_nil, or_false]

/-- A table request commits what its own step 16 answers. -/
theorem table_request_commits {mk : Nat → Outside → Instr} {f : Req → Bool} {kd : RequestKind} {w : Nat} {e : Outside} {s₀ s v : State} {k : Work}
    {q : Plan} (hs : s₀.outside e = s) (hmk : (mk, f) ∈ requestCommands) (hf : f k.req = true) (h : TableReady kd w k s)
    (hsixteen : stepSixteen kd k {} s = (v, some q)) (hq : q.status = none)
    (hplace : v.store.trailPlace = s.store.trailPlace) (hstatus : v.store.trailStatus = s.store.trailStatus) :
    exec (mk w e) s₀ = .next (commitNow w k q v) := by
  have htrail : v.trailOwing v.store.trailPlace = false := by
    have howes := h.posted.trail
    rw [State.trailOwing, State.trailStatusAt] at howes ⊢
    rw [hplace, hstatus]
    exact howes
  rw [exec_requestCommand hmk, hs, table_request_reaches_sixteen hf h, runSixteen_plan hsixteen hq htrail]

/-- What TRAIL_READ's own step leaves (R143). -/
structure TrailReadLeft (k : Work) (p : Plan) (s v : State) : Prop where
  memory : v.link.mem = memWrite s.link.mem k.req.address
    (writablePrefix s.link k.req.address ((trailOrder s).flatMap (fun n => (s.trailCell n).bytes)))
  cells : ∀ n, n < 32 → (v.trailCell n).entry = (s.trailCell n).entry ∧ ((s.trailCell n).unreadable = true → v.trailCell n = s.trailCell n) ∧
    ((s.trailCell n).unreadable = false → (v.trailCell n).ecc = .clean)
  notices : v.notices = { s.notices with
    raised := if (List.range 32).any (fun n => (s.trailCell n).unreadable) then s.notices.raised.add .store else s.notices.raised }
  rest : { v with store := s.store, notices := s.notices, link := s.link } = s
  store : { v.store with trail := s.store.trail } = s.store
  done : s.link.writable k.req.address ((trailOrder s).flatMap (fun n => (s.trailCell n).bytes)).length → trailReadStep k p s = (v, some p)
  failed : ¬ s.link.writable k.req.address ((trailOrder s).flatMap (fun n => (s.trailCell n).bytes)).length →
    trailReadStep k p s = (v, some (p.decline .transferFailed))

/-- A place read out: its entry stands, unreadable as it was or clean. -/
theorem TrailReadOut.cells {s v : State} (h : TrailReadOut (List.range 32) s v) {n : Nat} (hn : n < 32) :
    (v.trailCell n).entry = (s.trailCell n).entry ∧ ((s.trailCell n).unreadable = true → v.trailCell n = s.trailCell n) ∧
      ((s.trailCell n).unreadable = false → (v.trailCell n).ecc = .clean) := by
  rw [h.2 n]
  have hin : n ∈ List.range 32 := List.mem_range.mpr hn
  cases houtcome : (s.trailCell n).ecc.outcome with
  | clean =>
    have hclean : (s.trailCell n).ecc = .clean := BitErrors.eq_clean_of_outcome houtcome
    simp [TrailCell.correctedRead, hclean]
  | corrected => simp [TrailCell.correctedRead, TrailCell.unreadable, houtcome, hin]
  | uncorrectable => simp [TrailCell.correctedRead, TrailCell.unreadable, houtcome]

/-- The places are all of the ring's. -/
theorem any_trailOrder (s : State) (f : Nat → Bool) : (trailOrder s).any f = (List.range 32).any f := by
  rw [Bool.eq_iff_iff, List.any_eq_true, List.any_eq_true]
  simp only [mem_trailOrder, List.mem_range]

/-- Raising STORE when an entry is lost changes the notices, and may send an MSI. -/
theorem raiseCause_if (b : Bool) (c : Cause) (s : State) :
    ∃ n, (if b = true then raiseCause c s else s) =
      (s.setLink { s.link with msiSent := n }).setNotices { s.notices with
        raised := if b = true then s.notices.raised.add c else s.notices.raised } := by
  cases b with
  | false => exact ⟨s.link.msiSent, rfl⟩
  | true =>
    obtain ⟨n, h, -⟩ := raiseCause_only c s
    exact ⟨n, h⟩

/-- Messages sent do not bear on which writes fail. -/
theorem writablePrefix_sent (l : Link) (n : List (BitVec 64 × Word32)) (a : Nat) (bs : List Byte) :
    writablePrefix { l with msiSent := n } a bs = writablePrefix l a bs := by
  induction bs generalizing a with
  | nil => rfl
  | cons b bs ih => rw [writablePrefix, writablePrefix, ih]; rfl

theorem trailReadStep_left (k : Work) (p : Plan) (s : State) : TrailReadLeft k p s (trailReadStep k p s).1 := by
  have hread := trailRead_done s
  obtain ⟨m, hm⟩ := hread.1
  obtain ⟨n, hn⟩ := raiseCause_if ((trailOrder s).any (fun n => (s.trailCell n).unreadable)) .store ((trailOrder s).foldl readTrail s)
  have hstep : trailReadStep k p s = (let bytes := (trailOrder s).flatMap (fun n => (s.trailCell n).bytes)
      let a := linkBlock (if (trailOrder s).any (fun n => (s.trailCell n).unreadable) = true then
        raiseCause .store ((trailOrder s).foldl readTrail s) else (trailOrder s).foldl readTrail s) k.req.address bytes
      (a.1, some (if a.2 then p else p.decline .transferFailed))) := rfl
  generalize hbytes : (trailOrder s).flatMap (fun n => (s.trailCell n).bytes) = bytes at hstep
  rw [any_trailOrder] at hn hstep
  generalize hnoted : (if (List.range 32).any (fun n => (s.trailCell n).unreadable) = true then
    raiseCause .store ((trailOrder s).foldl readTrail s) else (trailOrder s).foldl readTrail s) = noted at hn hstep
  rw [hm] at hn hread
  have hlink : noted.link = { s.link with msiSent := n } := by
    rw [hn]
    rfl
  have hprefix : writablePrefix noted.link k.req.address bytes = writablePrefix s.link k.req.address bytes := by
    rw [hlink]
    exact writablePrefix_sent ..
  set out := memWrite s.link.mem k.req.address (writablePrefix s.link k.req.address bytes) with hout
  have hblock : linkBlock noted k.req.address bytes =
      (noted.setMem out, decide ((writablePrefix s.link k.req.address bytes).length = bytes.length)) := by
    rw [linkBlock, hprefix, hlink, hout]
  rw [hstep]
  simp only [hblock]
  refine ⟨?_, fun j hj => ?_, ?_, ?_, ?_, fun hwrite => ?_, fun hwrite => ?_⟩
  · rw [hbytes]
    exact congrArg Link.mem (State.setMem_link noted _)
  · have hcell : (noted.setMem out).trailCell j = (s.setStore { s.store with trail := m }).trailCell j := by
      rw [hn]
      rfl
    rw [hcell]
    exact hread.cells hj
  · rw [State.setMem_notices, hn]
    rfl
  · rw [hn]
    rfl
  · rw [State.setMem_store, hn]
    rfl
  · rw [hbytes] at hwrite
    rw [hstep]
    simp only [hblock, writablePrefix_whole hwrite, decide_true, if_true]
  · rw [hbytes] at hwrite
    have hshort := writablePrefix_length_lt hwrite
    rw [hstep]
    simp only [hblock, Nat.ne_of_lt hshort, decide_false, Bool.false_eq_true, if_false]

/-- Settles O52: both by whether their block can be written; the trail by the fold over its places. -/
theorem readOutsGoToTheHost : Obligations.ReadOutsGoToTheHost := by
  unfold Obligations.ReadOutsGoToTheHost
  intro w e s₀ s k hs
  refine ⟨fun h => ?_, fun h => ?_⟩
  · intro bytes v
    have hcommit : ∀ done, linkBlock s k.req.address bytes = (v, done) → exec (.quarantineRead w e) s₀ =
        .next (commitNow w k (if done = true then {} else ({} : Plan).decline .transferFailed) v) := fun done hblock =>
      table_request_commits hs (mk := Instr.quarantineRead) (f := ofKind .quarantineRead) (by simp [requestCommands]) h.posted.row_ofKind h
        (by rw [stepSixteen, quarantineReadStep, hblock]) (by cases done <;> rfl) rfl rfl
    exact ⟨fun hwrite => hcommit true (linkBlock_writable hwrite), fun hwrite => hcommit false (linkBlock_short hwrite)⟩
  · intro order bytes
    have hleft := trailReadStep_left k {} s
    generalize (trailReadStep k {} s).1 = v at hleft
    have hcommit : ∀ q, trailReadStep k {} s = (v, some q) → q.status = none → exec (.trailRead w e) s₀ = .next (commitNow w k q v) :=
      fun q hsixteen hq => table_request_commits hs (mk := Instr.trailRead) (f := ofKind .trailRead) (by simp [requestCommands])
        h.posted.row_ofKind h hsixteen hq (congrArg Store.trailPlace hleft.store :) (congrArg Store.trailStatus hleft.store :)
    exact ⟨v, fun hwrite => hcommit _ (hleft.done hwrite) rfl, fun hwrite => hcommit _ (hleft.failed hwrite) rfl, hleft.memory, hleft.cells,
      hleft.notices, hleft.rest, hleft.store⟩

end Sys2Proof.Machine
end

section
/-! PROOFS. The office kinds that change tables, lanes and clock at their commit point (spec/02, R33, R34; spec/08, R157, R158; spec/10, R177;
O51), and the move of all buckets at a far step of the clock (R85), which O13 shares. -/

namespace Sys2Proof.Machine

/-! ### All buckets moved (R85) -/

/-- A bucket move is a chain step: it changes chains and link words alone, and depends on nothing else. -/
theorem concatBucket_chainStep (b : Nat) : ChainStep (concatBucket b) := by
  have step : ∀ (h : Nat) (ch d : Chain), ChainStep (fun s =>
      ((match d.tail with | none => s | some t => joinPrev h (some t) (joinNext t (some h) s)).setChain .due
        { head := match d.head with | none => some h | some x => some x, tail := ch.tail, count := d.count + ch.count }).setChain
        (.bucket b) {}) := fun h ch d =>
    ((optional_chainStep (fun t => (joinNext_chainStep t (some h)).comp (joinPrev_chainStep h (some t))) d.tail).comp
      (setChain_chainStep .due _)).comp (setChain_chainStep (.bucket b) _)
  refine ⟨fun s => ?_, fun s t g => ?_⟩
  · unfold concatBucket
    dsimp only
    split
    · exact .refl s
    · next h _ => exact (step h (s.chain (.bucket b)) (s.chain .due)).1 s
  · unfold concatBucket
    rw [← g.chain (.bucket b), ← g.chain .due]
    dsimp only
    split
    · exact ⟨g.holds, g.links⟩
    · next h _ => exact (step h (s.chain (.bucket b)) (s.chain .due)).2 s t g

theorem foldl_chainStep {f : Nat → State → State} (h : ∀ n, ChainStep (f n)) (ns : List Nat) : ChainStep (fun s => ns.foldl (fun s n => f n s) s) := by
  induction ns with
  | nil => exact ChainStep.id
  | cons n ns ih => exact (h n).comp ih

/-- The first `n` buckets moved, from the one after the sweep position on and going round. -/
def moveBuckets (p : Int) (n : Nat) (s : State) : State :=
  (List.range n).foldl (fun (s : State) (k : Nat) => concatBucket (bucketOf (p + 1 + (k : Int))) s) s

theorem moveAllBuckets_eq (p : Int) (s : State) : moveAllBuckets p s = moveBuckets p 4096 s := by
  simp only [moveAllBuckets, moveBuckets, Config.buckets, bind_pure_comp, List.map_eq_map, List.foldl_map]

theorem moveBuckets_succ (p : Int) (n : Nat) (s : State) :
    moveBuckets p (n + 1) s = concatBucket (bucketOf (p + 1 + (n : Int))) (moveBuckets p n s) := by
  rw [moveBuckets, List.range_succ, List.foldl_append]
  rfl

theorem moveBuckets_chainStep (p : Int) (n : Nat) : ChainStep (moveBuckets p n) :=
  foldl_chainStep (fun k => concatBucket_chainStep (bucketOf (p + 1 + (k : Int)))) (List.range n)

theorem moveAllBuckets_chainStep (p : Int) : ChainStep (moveAllBuckets p) := by
  have hstep := moveBuckets_chainStep p 4096
  rwa [← funext (moveAllBuckets_eq p)] at hstep

/-- The clock is none of a bucket move's business. -/
theorem moveAllBuckets_setClock (p : Int) (c : Clock) (s : State) :
    (moveAllBuckets p (s.setClock c)).holds = (moveAllBuckets p s).holds ∧ (moveAllBuckets p (s.setClock c)).store = (moveAllBuckets p s).store := by
  obtain ⟨honly, hsame⟩ := moveAllBuckets_chainStep p
  obtain ⟨hholds, hlinks⟩ := hsame (s.setClock c) s ⟨rfl, rfl, rfl⟩
  have hset : (moveAllBuckets p (s.setClock c)).store = { s.store with links := (moveAllBuckets p (s.setClock c)).store.links } :=
    (congrArg State.store (honly (s.setClock c)) :)
  have hbase : (moveAllBuckets p s).store = { s.store with links := (moveAllBuckets p s).store.links } := (congrArg State.store (honly s) :)
  exact ⟨hholds, by rw [hset, hbase, hlinks]⟩

/-- A bucket is empty once it has moved, and stays so. -/
theorem concatBucket_empties (b : Nat) (s : State) : ((concatBucket b s).chain (.bucket b)).head = none := by
  have hjoined := concatBucket_joined b s
  by_cases hempty : (s.chain (.bucket b)).head = none
  · rw [hjoined.empty hempty]
    exact hempty
  · rw [hjoined.bucket hempty]

theorem concatBucket_staysEmpty (b : Nat) {c : Nat} {s : State} (h : (s.chain (.bucket c)).head = none) :
    ((concatBucket b s).chain (.bucket c)).head = none := by
  by_cases hc : c = b
  · rw [hc]
    exact concatBucket_empties b s
  · rw [(concatBucket_joined b s).otherBuckets c hc]
    exact h

theorem foldl_concatBucket_staysEmpty {f : Nat → Nat} {c : Nat} {s : State} (ks : List Nat) (h : (s.chain (.bucket c)).head = none) :
    ((ks.foldl (fun s k => concatBucket (f k) s) s).chain (.bucket c)).head = none := by
  induction ks generalizing s with
  | nil => exact h
  | cons k ks ih => exact ih (concatBucket_staysEmpty (f k) h)

theorem foldl_concatBucket_empties {f : Nat → Nat} {c : Nat} {s : State} {ks : List Nat} (h : ∃ k ∈ ks, f k = c) :
    ((ks.foldl (fun s k => concatBucket (f k) s) s).chain (.bucket c)).head = none := by
  induction ks generalizing s with
  | nil => simp at h
  | cons k ks ih =>
    obtain ⟨j, hj, hc⟩ := h
    rcases List.mem_cons.mp hj with rfl | hj
    · rw [← hc]
      exact foldl_concatBucket_staysEmpty ks (concatBucket_empties (f j) s)
    · exact ih ⟨j, hj, hc⟩

/-- Moving all buckets joins each of them in turn, from the one after the sweep position on and going round. -/
theorem moveAllBuckets_joined (p : Int) (s : State) : AllBucketsJoined p s (moveAllBuckets p s) := by
  refine ⟨⟨fun n => moveBuckets p n s, rfl, (moveAllBuckets_eq p s).symm, fun k b _ hb => ?_⟩, fun b hb => ?_⟩
  · dsimp only
    rw [moveBuckets_succ, bucketOf_eq hb]
    exact concatBucket_joined b _
  · rw [moveAllBuckets_eq]
    refine foldl_concatBucket_empties (f := fun k => bucketOf (p + 1 + (k : Int)))
      ⟨(((b : Int) - p - 1) % 4096).toNat, List.mem_range.mpr ?_, bucketOf_eq ?_⟩
    · omega
    · omega

/-! ### The sweep's part in a step of the clock (R85, R86) -/

section
variable {old : Nat} {p : Int} {s : State}

theorem followStep_noSweep (h : s.holds.sweep = none) : followStep old s = s := by
  simp only [followStep, h]

theorem followStep_stays (h : s.holds.sweep = some p) (hold : old ≤ s.clock.now) (hnear : (s.clock.now : Int) - p < 4096 ∨ s.clock.now = old) :
    followStep old s = s := by
  have hfar : ¬ ((old : Int) < s.clock.now ∧ (4096 : Int) ≤ s.clock.now - p) := by omega
  have hback : ¬ (s.clock.now : Int) < old := by omega
  simp only [followStep, h, if_neg hback]
  split
  · next hlt => exact if_neg fun hge => hfar ⟨hlt, hge⟩
  · rfl

theorem followStep_back (h : s.holds.sweep = some p) (hback : s.clock.now < old) :
    followStep old s = s.setSweep (min p ((s.clock.now : Int) - 1)) := by
  have hlt : (s.clock.now : Int) < old := by omega
  simp only [followStep, h, if_neg (not_lt.mpr hlt.le), if_pos hlt]
  rfl

theorem followStep_far_damaged (h : s.holds.sweep = some p) (hold : old < s.clock.now) (hfar : (4096 : Int) ≤ s.clock.now - p)
    (hmark : s.header.damaged = true) : followStep old s = s.setSweep s.clock.now := by
  have hlt : (old : Int) < s.clock.now := by omega
  have hfar : (Config.buckets : Int) ≤ s.clock.now - p := hfar
  simp only [followStep, h, if_pos hlt, if_pos hfar, hmark, if_true]
  rfl

theorem followStep_far (h : s.holds.sweep = some p) (hold : old < s.clock.now) (hfar : (4096 : Int) ≤ s.clock.now - p)
    (hmark : s.header.damaged = false) : followStep old s = (moveAllBuckets p s).setSweep s.clock.now := by
  have hlt : (old : Int) < s.clock.now := by omega
  have hfar : (Config.buckets : Int) ≤ s.clock.now - p := hfar
  simp only [followStep, h, if_pos hlt, if_pos hfar, hmark, Bool.false_eq_true, if_false]
  rfl

end

/-- What a step of the clock leaves of the sweep, chains and link words of a state whose clock now reads `now` (R85, R86). -/
structure StepFollowed (old now : Nat) (s t : State) : Prop where
  only : ChainsOnly s t
  none : s.holds.sweep = none → t = s
  back : ∀ q : Int, s.holds.sweep = some q → now < old → t.holds.sweep = some (min q ((now : Int) - 1))
  stays : ∀ q : Int, s.holds.sweep = some q → old ≤ now → ((now : Int) - q < 4096 ∨ now = old) → t.holds.sweep = some q
  chains : (∀ q : Int, ¬ (s.holds.sweep = some q ∧ old < now ∧ 4096 ≤ (now : Int) - q)) →
    t.store = s.store ∧ { t.holds with sweep := s.holds.sweep } = s.holds
  far : ∀ q : Int, s.holds.sweep = some q → old < now → 4096 ≤ (now : Int) - q → t.holds.sweep = some (now : Int) ∧
    (s.header.damaged = true → t.store = s.store ∧ { t.holds with sweep := s.holds.sweep } = s.holds) ∧
    (s.header.damaged = false → t = (moveAllBuckets q s).setSweep now)

theorem setSweep_only {q : Int} (s : State) : ChainsOnly s (s.setSweep q) := rfl

/-- The sweep moved alone: it keeps the chains. -/
theorem setSweep_chains {q : Int} (s : State) :
    (s.setSweep q).store = s.store ∧ { (s.setSweep q).holds with sweep := s.holds.sweep } = s.holds := ⟨rfl, rfl⟩

theorem followStep_followed (old : Nat) (s : State) : StepFollowed old s.clock.now s (followStep old s) := by
  cases hsweep : s.holds.sweep with
  | none =>
    rw [followStep_noSweep hsweep]
    exact ⟨.refl s, fun _ => rfl, by simp [hsweep], by simp [hsweep], fun _ => ⟨rfl, rfl⟩, by simp [hsweep]⟩
  | some p =>
    by_cases hback : s.clock.now < old
    · rw [followStep_back hsweep hback]
      refine ⟨rfl, by simp [hsweep], fun q hq _ => ?_, fun _ _ hle => absurd hle (by omega), fun _ => setSweep_chains s,
        fun _ _ hlt => absurd hlt (by omega)⟩
      rw [hsweep] at hq
      cases hq
      rfl
    · by_cases hnear : (s.clock.now : Int) - p < 4096 ∨ s.clock.now = old
      · rw [followStep_stays hsweep (by omega) hnear]
        refine ⟨.refl s, by simp [hsweep], fun _ _ hlt => absurd hlt hback, fun _ hq _ _ => hq, fun _ => ⟨rfl, rfl⟩, fun q hq hlt hge => ?_⟩
        rw [hsweep] at hq
        cases hq
        omega
      · have hold : old < s.clock.now := by omega
        have hfar : (4096 : Int) ≤ s.clock.now - p := by omega
        have hstays : ∀ q : Int, s.holds.sweep = some q → old ≤ s.clock.now → ((s.clock.now : Int) - q < 4096 ∨ s.clock.now = old) →
            (followStep old s).holds.sweep = some q := by
          intro q hq _ hnear'
          rw [hsweep] at hq
          cases hq
          exact absurd hnear' hnear
        have hchains : (∀ q : Int, ¬ (s.holds.sweep = some q ∧ old < s.clock.now ∧ 4096 ≤ (s.clock.now : Int) - q)) →
            (followStep old s).store = s.store ∧ { (followStep old s).holds with sweep := s.holds.sweep } = s.holds :=
          fun hnone => absurd ⟨hsweep, hold, hfar⟩ (hnone p)
        cases hmark : s.header.damaged with
        | true =>
          have hstep := followStep_far_damaged hsweep hold hfar hmark
          refine ⟨by rw [hstep]; rfl, by simp [hsweep], fun _ _ hlt => absurd hlt hback, hstays, hchains, fun q hq _ _ => ?_⟩
          rw [hstep]
          exact ⟨rfl, fun _ => setSweep_chains s, by simp [hmark]⟩
        | false =>
          have hstep := followStep_far hsweep hold hfar hmark
          refine ⟨?_, by simp [hsweep], fun _ _ hlt => absurd hlt hback, hstays, hchains, fun q hq _ _ => ?_⟩
          · rw [hstep]
            exact ((moveAllBuckets_chainStep p).1 s).trans (setSweep_only _)
          · rw [hsweep] at hq
            cases hq
            rw [hstep]
            exact ⟨rfl, by simp [hmark], fun _ => rfl⟩

theorem joined_of_same {q now : Int} {s t u v : State} (h : t = u.setSweep now) (hjoined : AllBucketsJoined q s v)
    (hsame : u.holds = v.holds ∧ u.store = v.store) :
    ∃ u, AllBucketsJoined q s u ∧ t.store = u.store ∧ t.holds = { u.holds with sweep := some now } := by
  subst h
  exact ⟨v, hjoined, hsame.2, congrArg (fun x : HoldTable => { x with sweep := some now }) hsame.1⟩

/-- A far step joins the buckets as they stood before the clock was set. -/
theorem joined_of_moved {q now : Int} {c : Clock} {s t : State} (h : t = (moveAllBuckets q (s.setClock c)).setSweep now) :
    ∃ u, AllBucketsJoined q s u ∧ t.store = u.store ∧ t.holds = { u.holds with sweep := some now } :=
  joined_of_same h (moveAllBuckets_joined q s) (moveAllBuckets_setClock q c s)

/-! ### Tables and lanes -/

section
variable {α : Type}

theorem Sparse.erase_erase (m : List (Nat × α)) (k : Nat) : Sparse.erase (Sparse.erase m k) k = Sparse.erase m k := by
  induction m with
  | nil => rfl
  | cons c m ih =>
    obtain ⟨j, x⟩ := c
    by_cases hj : j = k
    · simp only [Sparse.erase, hj, if_true, ih]
    · simp only [Sparse.erase, hj, if_false, ih]

theorem Sparse.erase_insert (m : List (Nat × α)) (k : Nat) (v : α) : Sparse.erase (Sparse.insert m k v) k = Sparse.erase m k := by
  induction m with
  | nil => simp only [Sparse.insert, Sparse.erase, if_true]
  | cons c m ih =>
    obtain ⟨j, x⟩ := c
    unfold Sparse.insert
    split
    · simp only [Sparse.erase, if_true]
    · simp only [Sparse.erase, ih]

/-- The second of two settings at one number stands. -/
theorem Sparse.set_set [DecidableEq α] (d : α) (m : List (Nat × α)) (k : Nat) (v v' : α) :
    Sparse.set d (Sparse.set d m k v) k v' = Sparse.set d m k v' := by
  have herase : Sparse.erase (Sparse.set d m k v) k = Sparse.erase m k := by
    unfold Sparse.set
    split
    · exact Sparse.erase_erase m k
    · rw [Sparse.erase_insert, Sparse.erase_erase]
  rw [Sparse.set, herase]
  rfl

end

theorem State.setLaneState_setLaneState (s : State) (n : Nat) (l l' : LaneState) :
    (s.setLaneState n l).setLaneState n l' = s.setLaneState n l' := by
  simp only [State.setLaneState, State.setLanes, Sparse.set_set]

/-- LANE_MODE OPEN, with the look at once in RUNNING (R158). -/
theorem setLaneMode_open_running {n : Nat} {l : LaneEntry} {s : State} (hentry : s.laneEntry n = some l) (hrun : s.control.engine = .running) :
    setLaneMode n true s = s.setLaneState n { s.laneState n with
      isOpen := true, ready := slotIsPosted s l (s.laneState n).scan, lookTimer := some l.lookInterval } := by
  have hlook := look_open (s := s.setLaneState n { s.laneState n with isOpen := true }) hentry hrun
    (by rw [State.laneState_setLaneState_same])
  rw [setLaneMode, if_pos rfl, hlook, State.setLaneState_setLaneState, State.lookedAt, State.laneState_setLaneState_same]
  rfl

theorem setLaneMode_open_other {n : Nat} {s : State} (hrun : s.control.engine ≠ .running) :
    setLaneMode n true s = s.setLaneState n { s.laneState n with isOpen := true } := by
  rw [setLaneMode, if_pos rfl, look]
  split
  · rfl
  · exact if_neg fun h => hrun h.1

/-! ### The checks of a PROGRAMME_WRITE (R34) -/

/-- Two row ranges lie apart (R29). -/
theorem rangesOverlap_eq_false {b₁ n₁ b₂ n₂ : Nat} : rangesOverlap b₁ n₁ b₂ n₂ = false ↔ b₁ + n₁ ≤ b₂ ∨ b₂ + n₂ ≤ b₁ := by
  simp only [rangesOverlap, Bool.and_eq_false_iff, decide_eq_false_iff_not, Nat.not_lt]
  exact or_comm

/-- The rows of an enabled record are its own and inside the table (R34 checks 2 and 3). -/
def rowsFree (s : State) (n : Nat) (r : Programme) : Prop :=
  1 ≤ r.rowCount ∧ r.rowBase + r.rowCount ≤ s.cardRows ∧ ∀ m, m < 16 → m ≠ n → (Sparse.get {} s.tables.programmes m).enabled = true →
    r.rowBase + r.rowCount ≤ (Sparse.get {} s.tables.programmes m).rowBase ∨
      (Sparse.get {} s.tables.programmes m).rowBase + (Sparse.get {} s.tables.programmes m).rowCount ≤ r.rowBase

theorem rowsFree_iff {s : State} {n : Nat} {r : Programme} : (1 ≤ r.rowCount ∧ r.rowBase + r.rowCount ≤ s.cardRows ∧
    (List.range 16).all (fun k =>
      let q : Programme := Sparse.get {} s.tables.programmes k
      decide (k = n) || !q.enabled || !rangesOverlap r.rowBase r.rowCount q.rowBase q.rowCount) = true) ↔ rowsFree s n r := by
  refine and_congr_right fun _ => and_congr_right fun _ => ?_
  rw [List.all_eq_true]
  refine forall_congr' fun m => ?_
  simp only [List.mem_range, Bool.or_eq_true, decide_eq_true_eq, Bool.not_eq_true', rangesOverlap_eq_false, ne_eq]
  refine imp_congr_right fun _ => ?_
  cases (Sparse.get ({} : Programme) s.tables.programmes m).enabled
  · simp
  · by_cases hm : m = n
    · simp [hm]
    · simp [hm]

section
variable {s : State} {n : Nat} {bytes : List Byte} {r : Programme}

theorem programmeAccepted_refused (h : programmeOfBytes bytes = none ∨ 15 < n) : programmeAccepted s n bytes = none := by
  rcases h with h | h
  · simp only [programmeAccepted, h]
  · unfold programmeAccepted
    split
    · rfl
    · exact if_neg fun hn => absurd hn.1 (by omega)

theorem programmeAccepted_some (h : programmeOfBytes bytes = some r) (hn : n < 16) (hranges : r.rangesOk = true)
    (hrows : r.enabled = true → rowsFree s n r) : programmeAccepted s n bytes = some r := by
  simp only [programmeAccepted, h, if_pos (And.intro hn hranges)]
  split
  · next henabled => exact if_pos (rowsFree_iff.mpr (hrows henabled))
  · rfl

theorem programmeAccepted_none (h : programmeOfBytes bytes = some r)
    (hbad : ¬ (r.rangesOk = true ∧ (r.enabled = true → rowsFree s n r))) : programmeAccepted s n bytes = none := by
  simp only [programmeAccepted, h]
  split
  · next hok =>
    split
    · next henabled => exact if_neg fun hrows => hbad ⟨hok.2, fun _ => rowsFree_iff.mp hrows⟩
    · next henabled => exact absurd ⟨hok.2, fun hen => absurd hen henabled⟩ hbad
  · rfl

end

/-! ### The actions of the commit point -/

/-- A request that is taken up carries office parameters in the form of its kind (R39). -/
theorem Posted.paramsOk {kd : RequestKind} {w : Nat} {k : Work} {s : State} (h : Posted kd w k s) : k.req.paramsOk kd = true := by
  have hkind := h.kind
  have hform := h.wellFormed
  unfold Work.kind? at hkind
  unfold Work.half at hform
  unfold Work.req
  split at hkind
  · next half htask =>
    rw [htask] at hform
    simp only [requestWellFormed, hkind, Bool.and_eq_true] at hform
    exact hform.1.1.2
  · cases hkind

/-- Settles O51: each action by its own checks; the clock's by what its step does to the sweep. -/
theorem tableRequestsActAtTheirCommitPoint : Obligations.TableRequestsActAtTheirCommitPoint := by
  unfold Obligations.TableRequestsActAtTheirCommitPoint
  intro w e s₀ s k hs b
  refine ⟨fun h => ?_, fun h => ?_, fun h => ?_, fun h => ?_⟩
  · intro ix p ok
    have hok : ruleAccepted ix (fieldAt b 1 1) (fieldAt b 7 1) (fieldAt b 8 2) = true ↔ ok := by
      simp only [ruleAccepted, Bool.and_eq_true, decide_eq_true_eq, and_assoc, ok]
      omega
    refine ⟨?_, fun hbad => ?_, fun hgood => ?_⟩
    · exact table_request_commits hs (mk := Instr.ruleWrite) (by simp [requestCommands]) h.posted.row_ofKind h rfl rfl rfl rfl
    · exact if_neg fun h => hbad (hok.mp h)
    · refine ⟨_, if_pos (hok.mpr hgood), rfl, rfl, Sparse.get_set_same .., fun n hn => Sparse.get_set_other _ _ _ hn⟩
  · have hcommit : ∀ q, programmeWriteStep k {} s = (s, some q) → q.status = none → exec (.programmeWrite w e) s₀ = .next (commitNow w k q s) :=
      fun q hsixteen hq => table_request_commits hs (mk := Instr.programmeWrite) (by simp [requestCommands]) h.posted.row_ofKind h hsixteen hq rfl rfl
    refine ⟨fun hread => hcommit _ ?_ rfl, fun bytes hread => ?_⟩
    · simp only [programmeWriteStep, hread]
      rfl
    · intro n p
      have hrefused : programmeAccepted s n bytes = none → commitAction p s = (s, { p with result := .declined, reason := .outOfRange }) :=
        fun hnone => by
          simp only [commitAction, p, hnone]
          rfl
      refine ⟨hcommit _ ?_ rfl, fun hbad => hrefused (programmeAccepted_refused hbad), fun r hbytes hn => ⟨fun hok => ?_, fun hbad => ?_⟩⟩
      · simp only [programmeWriteStep, hread]
        rfl
      · have haccepted : programmeAccepted s n bytes = some r := programmeAccepted_some hbytes hn hok.1 hok.2
        refine ⟨s.setTables { s.tables with programmes := Sparse.set {} s.tables.programmes n r }, ?_, rfl, rfl, Sparse.get_set_same ..,
          fun m hm => Sparse.get_set_other _ _ _ hm⟩
        simp only [commitAction, p, haccepted]
      · exact hrefused (programmeAccepted_none hbytes hbad)
  · intro n p
    have hcommit : ∀ {mk : Nat → Outside → Instr} {a : Nat}, (mk, ofAction .laneMode a) ∈ requestCommands → k.req.action = a →
        exec (mk w e) s₀ = .next (commitNow w k p s) := fun hmk ha =>
      table_request_commits hs hmk (h.posted.row_ofAction ha) h rfl rfl rfl rfl
    have hin : ∀ {l : LaneEntry} {o : Bool}, s.laneEntry n = some l → decide (k.req.action = 1) = o →
        commitAction p s = (setLaneMode n o s, p) := fun hentry ho => by
      have hcount : n < s.dir.laneCount := State.lt_of_laneEntry hentry
      rw [← ho]
      exact if_pos hcount
    refine ⟨fun ha => hcommit (mk := Instr.laneModeOpen) (by simp [requestCommands]) ha,
      fun ha => hcommit (mk := Instr.laneModePaused) (by simp [requestCommands]) ha, fun hout => if_neg (by omega),
      fun l hentry => ⟨fun ha hrun => ?_, fun ha hrun => ?_, fun ha => ?_⟩⟩
    · rw [hin hentry (decide_eq_true ha), setLaneMode_open_running hentry hrun]
    · rw [hin hentry (decide_eq_true ha), setLaneMode_open_other hrun]
    · rw [hin hentry (decide_eq_false (by omega))]
      rfl
  · intro p now
    have hform : (fieldAt b 2 2 ≤ 1439 ∧ fieldAt b 4 1 ≤ 59) := by
      have hparams := h.posted.paramsOk
      simp only [Req.paramsOk, Bool.and_eq_true, decide_eq_true_eq] at hparams
      exact hparams.1
    obtain ⟨hminute, hsecond⟩ := hform
    have hday : fieldAt b 0 2 < 65536 := fieldAt_lt b 0 2
    set c : Clock := { s.clock with phase := 0, tick := 0, second := fieldAt b 4 1, minute := fieldAt b 2 2, day := fieldAt b 0 2 } with hc
    have haction : commitAction p s = if stepSize s.clock.now now ≤ 120 then (followStep s.clock.now (s.setClock c), p) else (s, p.decline .clockStep) := by
      have hd : (Fin.ofNat 65536 (fieldAt b 0 2)).val = fieldAt b 0 2 := Nat.mod_eq_of_lt hday
      have hm : (Fin.ofNat 1440 (fieldAt b 2 2)).val = fieldAt b 2 2 := Nat.mod_eq_of_lt (by omega)
      have hsec : (Fin.ofNat 60 (fieldAt b 4 1)).val = fieldAt b 4 1 := Nat.mod_eq_of_lt (by omega)
      simp only [commitAction, p, hd, hm, hsec]
      rfl
    have hsize : stepSize s.clock.now now ≤ 120 ↔ now ≤ s.clock.now + 120 ∧ s.clock.now ≤ now + 120 := by
      unfold stepSize
      split <;> omega
    refine ⟨?_, fun hfar => ?_, fun hle hge => ⟨followStep s.clock.now (s.setClock c), ?_, ?_⟩⟩
    · exact table_request_commits hs (mk := Instr.clockSet) (by simp [requestCommands]) h.posted.row_ofKind h rfl rfl rfl rfl
    · rw [haction, if_neg (by omega)]
      rfl
    · rw [haction, if_pos (hsize.mpr ⟨hle, hge⟩)]
    have hfollowed := followStep_followed s.clock.now (s.setClock c)
    generalize followStep s.clock.now (s.setClock c) = t at hfollowed
    have honly := hfollowed.only
    refine ⟨(congrArg State.clock honly :), hfollowed.back, hfollowed.stays, ⟨hfollowed.chains, fun q hq => ?_⟩,
      (congrArg (fun v : State => v.store.cards) honly :), (congrArg (fun v : State => v.store.tills) honly :),
      (congrArg (fun v : State => v.store.holds) honly :), (congrArg State.tables honly :), (congrArg State.link honly :),
      (congrArg State.journal honly :)⟩
    obtain ⟨hsweep, hlt, hge⟩ := hq
    obtain ⟨hnow, hdamaged, hmoved⟩ := hfollowed.far q hsweep hlt hge
    exact ⟨hnow, hdamaged, fun hmark => joined_of_moved (hmoved hmark)⟩

end Sys2Proof.Machine
end

section
/-! PROOFS. STARTING's reading of the directory and its checks (spec/10, R183; spec/07, R131; O14), which O13 shares. -/

namespace Sys2Proof.Machine

/-! ### The read of the store header (R131) -/

section
variable {s : State}

/-- One good copy of the header gives its contents, and leaves copy one clean. -/
theorem readHeader_either (h : s.store.header.one.outcome ≠ .uncorrectable ∨ s.store.header.two.outcome ≠ .uncorrectable) :
    ∃ x : StoredHeader, readHeader s = (s.setStore { s.store with header := x }, some s.header) ∧ x.header = s.header ∧ x.one = .clean := by
  cases hone : s.store.header.one.outcome with
  | clean => exact ⟨s.store.header, by simp only [readHeader, hone]; rfl, rfl, BitErrors.eq_clean_of_outcome hone⟩
  | corrected => exact ⟨{ s.store.header with one := .clean }, by simp only [readHeader, hone]; rfl, rfl, rfl⟩
  | uncorrectable =>
    have htwo := h.resolve_left (not_not.mpr hone)
    cases hcopy : s.store.header.two.outcome with
    | clean => exact ⟨{ header := s.header }, by simp only [readHeader, hone, hcopy]; rfl, rfl, rfl⟩
    | corrected => exact ⟨{ header := s.header }, by simp only [readHeader, hone, hcopy]; rfl, rfl, rfl⟩
    | uncorrectable => exact absurd hcopy htwo

/-- With both copies lost there is no header, and STORE is raised. -/
theorem readHeader_lost (hone : s.store.header.one.outcome = .uncorrectable) (htwo : s.store.header.two.outcome = .uncorrectable) :
    readHeader s = (raiseCause .store s, none) := by
  simp only [readHeader, hone, htwo]

/-! ### Check 3: the partition -/

variable {d : Directory}

theorem checkPartition_high (h : 15 < d.partition) : checkPartition d s = (s, false) := if_pos h

theorem checkPartition_lost (h : d.partition ≤ 15) (hone : s.store.header.one.outcome = .uncorrectable)
    (htwo : s.store.header.two.outcome = .uncorrectable) : checkPartition d s = (raiseCause .store s, false) := by
  rw [checkPartition, if_neg (by omega), readHeader_lost hone htwo]

/-- A recorded partition must be the directory's. -/
theorem checkPartition_read (h : d.partition ≤ 15)
    (hcopy : s.store.header.one.outcome ≠ .uncorrectable ∨ s.store.header.two.outcome ≠ .uncorrectable) :
    ∃ x : StoredHeader, checkPartition d s =
      (s.setStore { s.store with header := x }, decide (s.header.partition = none ∨ s.header.partition = some d.partition)) ∧
      x.header = s.header ∧ x.one = .clean := by
  obtain ⟨x, hread, hx⟩ := readHeader_either hcopy
  refine ⟨x, ?_, hx⟩
  rw [checkPartition, if_neg (by omega), hread]
  cases hp : s.header.partition <;> simp [hp]

end

/-! ### The beginning of STARTING -/

/-- The state in which STARTING reads its directory (R181, R185). -/
def State.begun (s : State) : State :=
  s.setControl { s.control with engine := .starting, startPending := false, startAnchor := s.anchor, starting := none }

/-- A START in IDLE or FAULTED begins STARTING, when no reset is going on (R181). -/
theorem start_begins {e : Outside} {s₀ s : State} (hs : s₀.outside e = s) (hengine : s.control.engine = .idle ∨ s.control.engine = .faulted)
    (hreset : s.control.resetting = false) : exec (.start e) s₀ = .next (runStarting s.begun) := by
  have hexec : exec (.start e) s₀ = .next (startCommand (s₀.outside e)) := rfl
  have hcommand : startCommand s = enterStarting s := by
    unfold startCommand
    rcases hengine with h | h <;> rw [h]
  have hreset : ¬ s.begun.control.resetting = true := by
    change ¬ s.control.resetting = true
    simp [hreset]
  rw [hexec, hs, hcommand]
  exact congrArg Host.Outcome.next (if_neg hreset)

section
variable {s : State}

/-- The directory's two reads, and what their bytes come to (R183 checks 1 and 2). -/
theorem readDirectory_badRevision (h : s.anchor = 0 ∨ s.anchor % 4096 ≠ 0 ∨ linkRead s s.anchor 64 = none ∨
    (∃ x, linkRead s s.anchor 64 = some x ∧ directoryRevision x ≠ 1)) : readDirectory s s.anchor = .error .badRevision := by
  unfold readDirectory
  by_cases haligned : s.anchor = 0 ∨ s.anchor % 4096 ≠ 0
  · exact if_pos haligned
  · rw [if_neg haligned]
    rcases h with h | h | h | ⟨x, h, hrev⟩
    · exact absurd (.inl h) haligned
    · exact absurd (.inr h) haligned
    · rw [h]
    · simp only [h, if_pos hrev]

variable {head : List Byte}

theorem readDirectory_readFailed (hzero : s.anchor ≠ 0) (haligned : s.anchor % 4096 = 0) (hread : linkRead s s.anchor 64 = some head)
    (hrev : directoryRevision head = 1) (hlanes : linkRead s (s.anchor + 64) (32 * min (directoryLaneCount head) 64) = none) :
    readDirectory s s.anchor = .error .readFailed := by
  have hlanes : linkRead s (s.anchor + 64) (32 * directoryLanesRead head) = none := hlanes
  unfold readDirectory
  rw [if_neg (by simp [hzero, haligned])]
  simp only [hread, if_neg (not_not.mpr hrev), hlanes]

theorem readDirectory_ok {tb : List Byte} (hzero : s.anchor ≠ 0) (haligned : s.anchor % 4096 = 0) (hread : linkRead s s.anchor 64 = some head)
    (hrev : directoryRevision head = 1) (hlanes : linkRead s (s.anchor + 64) (32 * min (directoryLaneCount head) 64) = some tb) :
    readDirectory s s.anchor = .ok (Directory.ofBytes head tb) := by
  have hlanes : linkRead s (s.anchor + 64) (32 * directoryLanesRead head) = some tb := hlanes
  unfold readDirectory
  rw [if_neg (by simp [hzero, haligned])]
  simp only [hread, if_neg (not_not.mpr hrev), hlanes]

/-! ### How STARTING goes on -/

/-- The state after the directory's read: its engine-word block is known. -/
def State.directoryRead (s : State) (d : Directory) : State := s.begun.setControl { s.begun.control with engineWords := some d.engineWords }

theorem runStarting_unread {c : FaultCode} (h : readDirectory s s.anchor = .error c) : runStarting s.begun = enterFaulted c s.begun := by
  have h : readDirectory s.begun s.begun.control.startAnchor = .error c := h
  simp only [runStarting, h]

variable {d : Directory}

theorem runStarting_partition {v : State} (h : readDirectory s s.anchor = .ok d) (hcheck : checkPartition d (s.directoryRead d) = (v, false)) :
    runStarting s.begun = enterFaulted .partitionMismatch v := by
  have h : readDirectory s.begun s.begun.control.startAnchor = .ok d := h
  have hcheck : checkPartition d (s.begun.setControl { s.begun.control with engineWords := some d.engineWords }) = (v, false) := hcheck
  simp only [runStarting, h, hcheck]

theorem runStarting_checkFails {c : FaultCode} {v : State} (h : readDirectory s s.anchor = .ok d)
    (hpart : checkPartition d (s.directoryRead d) = (v, true)) (hcheck : checkDirectory d v.clock.set = some c) :
    runStarting s.begun = enterFaulted c v := by
  have h : readDirectory s.begun s.begun.control.startAnchor = .ok d := h
  have hpart : checkPartition d (s.begun.setControl { s.begun.control with engineWords := some d.engineWords }) = (v, true) := hpart
  simp only [runStarting, h, hpart, hcheck]

theorem runStarting_passes {v : State} (h : readDirectory s s.anchor = .ok d) (hpart : checkPartition d (s.directoryRead d) = (v, true))
    (hcheck : checkDirectory d v.clock.set = none) : runStarting s.begun = startingSteps d v := by
  have h : readDirectory s.begun s.begun.control.startAnchor = .ok d := h
  have hpart : checkPartition d (s.begun.setControl { s.begun.control with engineWords := some d.engineWords }) = (v, true) := hpart
  simp only [runStarting, h, hpart, hcheck]

end

/-! ### FAULTED -/

/-- The engine faults from a state that differs in its control block, its header's copies and the messages sent alone. -/
theorem enterFaulted_faulted {c : FaultCode} {s v : State} {x : StoredHeader} {k : Control} {n : List (BitVec 64 × Word32)}
    (hv : v = ((s.setStore { s.store with header := x }).setControl k).setLink { s.link with msiSent := n }) (hx : x.header = s.header)
    (hk : k.startPending = false) : EngineFaulted c s (enterFaulted c v) := by
  subst hv
  obtain ⟨m, h, -⟩ := raiseCause_only .engine ((((s.setStore { s.store with header := x }).setControl k).setLink
    { s.link with msiSent := n }).setControl { k with engine := .faulted, fault := c, starting := none })
  have hfaulted : enterFaulted c (((s.setStore { s.store with header := x }).setControl k).setLink { s.link with msiSent := n }) = _ := h
  rw [hfaulted]
  exact ⟨rfl, rfl, hk, rfl, rfl, hx, rfl, rfl, rfl, rfl, rfl⟩

theorem enterFaulted_store (c : FaultCode) (s : State) : (enterFaulted c s).store = s.store :=
  (congrArg State.store (raiseCause_rest .engine (s.setControl { s.control with engine := .faulted, fault := c, starting := none })) :)

/-- Settles O14: by the first check that fails. -/
theorem startFaultsByTheFirstFailedCheck : Obligations.StartFaultsByTheFirstFailedCheck := by
  unfold Obligations.StartFaultsByTheFirstFailedCheck
  intro e s₀ s hs hengine hreset
  have hstart := start_begins hs hengine hreset
  have hbegun : s.begun = ((s.setStore { s.store with header := s.store.header }).setControl s.begun.control).setLink
      { s.link with msiSent := s.link.msiSent } := rfl
  refine ⟨fun h => ⟨_, hstart, ?_⟩, fun head hzero haligned hread hrev => ⟨fun hlanes => ⟨_, hstart, ?_⟩, fun tb d hlanes hd => ?_⟩⟩
  · rw [runStarting_unread (readDirectory_badRevision h)]
    exact enterFaulted_faulted hbegun rfl rfl
  · rw [runStarting_unread (readDirectory_readFailed hzero haligned hread hrev hlanes)]
    exact enterFaulted_faulted hbegun rfl rfl
  · have hok : readDirectory s s.anchor = .ok d := by
      rw [hd]
      exact readDirectory_ok hzero haligned hread hrev hlanes
    refine ⟨fun h => ⟨_, hstart, ?_⟩, fun hle hone htwo => ⟨_, hstart, ?_⟩, fun c hle hcopy hpart hcheck => ⟨_, hstart, ?_⟩⟩
    · rcases h with hhigh | ⟨hcopy, p, hp, hne⟩
      · rw [runStarting_partition hok (checkPartition_high hhigh)]
        exact enterFaulted_faulted (k := (s.directoryRead d).control) (n := s.link.msiSent) rfl rfl rfl
      · by_cases hle : d.partition ≤ 15
        · obtain ⟨x, hcheck, hx, -⟩ := checkPartition_read (s := s.directoryRead d) hle hcopy
          have hdiffers : ¬ (s.header.partition = none ∨ s.header.partition = some d.partition) := by simp [hp, hne]
          rw [runStarting_partition hok (hcheck.trans (congrArg (Prod.mk _) (decide_eq_false hdiffers)))]
          exact enterFaulted_faulted (k := (s.directoryRead d).control) (n := s.link.msiSent) rfl hx rfl
        · rw [runStarting_partition hok (checkPartition_high (by omega))]
          exact enterFaulted_faulted (k := (s.directoryRead d).control) (n := s.link.msiSent) rfl rfl rfl
    · obtain ⟨n, hraised, -⟩ := raiseCause_only .store (s.directoryRead d)
      rw [runStarting_partition hok (checkPartition_lost hle hone htwo), hraised]
      exact ⟨enterFaulted_store .., enterFaulted_faulted (k := (s.directoryRead d).control) (n := n) rfl rfl rfl⟩
    · obtain ⟨x, hcheckp, hx, -⟩ := checkPartition_read (s := s.directoryRead d) hle hcopy
      rw [runStarting_checkFails (c := c) hok (hcheckp.trans (congrArg (Prod.mk _) (decide_eq_true hpart))) hcheck]
      exact enterFaulted_faulted (k := (s.directoryRead d).control) (n := s.link.msiSent) rfl hx rfl

end Sys2Proof.Machine
end

section
/-! PROOFS. The lot operations (spec/01, R10 to R14; O58). -/

namespace Sys2Proof.Machine

/-! ### Sums -/

@[simp] theorem lotSum_nil : lotSum [] = 0 := rfl

@[simp] theorem lotSum_cons (l : Lot) (ls : List Lot) : lotSum (l :: ls) = l.amount + lotSum ls := by
  rw [lotSum, List.map_cons, List.sum_cons]
  rfl

@[simp] theorem lotSum_append (as bs : List Lot) : lotSum (as ++ bs) = lotSum as + lotSum bs := by
  rw [lotSum, List.map_append, List.sum_append]
  rfl

@[simp] theorem lotSum_reverse (ls : List Lot) : lotSum ls.reverse = lotSum ls := by
  rw [lotSum, List.map_reverse, List.sum_reverse]
  rfl

/-- The lots a test admits and those it refuses are the whole list. -/
theorem lotSum_filter_add (f : Lot → Bool) (ls : List Lot) : lotSum (ls.filter f) + lotSum (ls.filter (fun l => !f l)) = lotSum ls := by
  induction ls with
  | nil => rfl
  | cons l ls ih =>
    cases hf : f l <;> simp only [List.filter_cons, hf, Bool.not_true, Bool.not_false, Bool.false_eq_true, if_true, if_false, lotSum_cons] <;> omega

theorem lotSum_filter_le (f : Lot → Bool) (ls : List Lot) : lotSum (ls.filter f) ≤ lotSum ls := by
  have := lotSum_filter_add f ls
  omega

theorem insertLot_sum (n : Nat) (l : Lot) (ls : List Lot) : lotSum (insertLot n l ls) = lotSum ls + l.amount := by
  have hsplit : lotSum (ls.take n) + lotSum (ls.drop n) = lotSum ls := by rw [← lotSum_append, List.take_append_drop]
  rw [insertLot, lotSum_append, lotSum_cons]
  omega

theorem insertLot_length (n : Nat) (l : Lot) (ls : List Lot) : (insertLot n l ls).length = ls.length + 1 := by
  rw [insertLot, List.length_append, List.length_cons, List.length_take, List.length_drop]
  omega

theorem addAt_sum {n : Nat} (a : Nat) {ls : List Lot} (h : n < ls.length) : lotSum (addAt a n ls) = lotSum ls + a := by
  induction ls generalizing n with
  | nil => exact absurd h (Nat.not_lt_zero n)
  | cons l ls ih =>
    cases n with
    | zero =>
      rw [addAt, lotSum_cons, lotSum_cons]
      dsimp only
      omega
    | succ n =>
      rw [addAt, lotSum_cons, lotSum_cons, ih (by simpa using h)]
      omega

/-- An amount added keeps every expiry day in its place. -/
theorem addAt_expiries (a n : Nat) (ls : List Lot) : (addAt a n ls).map (·.expiry) = ls.map (·.expiry) := by
  induction ls generalizing n with
  | nil => rw [addAt]
  | cons l ls ih =>
    cases n with
    | zero => rfl
    | succ n => rw [addAt, List.map_cons, List.map_cons, ih]

theorem addAt_length (a n : Nat) (ls : List Lot) : (addAt a n ls).length = ls.length := by
  have h := congrArg List.length (addAt_expiries a n ls)
  rwa [List.length_map, List.length_map] at h

theorem findIdx?_lt {f : Lot → Bool} {ls : List Lot} {n : Nat} (h : ls.findIdx? f = some n) : n < ls.length :=
  (List.findIdx?_eq_some_iff_findIdx_eq.mp h).1

/-! ### Draw order (R7, R11) -/

/-- A lot stands in front of another in draw order (R7). -/
def Lot.before (a b : Lot) : Bool :=
  match a.expiry, b.expiry with
  | some x, some y => decide (x < y)
  | some _, none => true
  | none, some _ => false
  | none, none => true

theorem lotsOrdered_cons_cons (a b : Lot) (ls : List Lot) : lotsOrdered (a :: b :: ls) = (a.before b && lotsOrdered (b :: ls)) := rfl

/-- The order is one of expiry days alone. -/
theorem lotsOrdered_of_expiries {as bs : List Lot} (h : as.map (·.expiry) = bs.map (·.expiry)) : lotsOrdered as = lotsOrdered bs := by
  induction as generalizing bs with
  | nil =>
    rw [List.map_nil, eq_comm, List.map_eq_nil_iff] at h
    rw [h]
  | cons a as ih =>
    cases bs with
    | nil => simp at h
    | cons b bs =>
      rw [List.map_cons, List.map_cons, List.cons.injEq] at h
      cases as with
      | nil =>
        have hb : bs = [] := by simpa using h.2.symm
        rw [hb]
        rfl
      | cons a' as =>
        cases bs with
        | nil => simp at h
        | cons b' bs =>
          have hhead : a'.expiry = b'.expiry := by
            have := h.2
            rw [List.map_cons, List.map_cons, List.cons.injEq] at this
            exact this.1
          rw [lotsOrdered_cons_cons, lotsOrdered_cons_cons, ih h.2, Lot.before, Lot.before, h.1, hhead]

/-- A new dated lot put before the first lot behind it keeps the order. -/
theorem insertLot_ordered {e : Nat} {x : Lot} {ls : List Lot} (hx : x.expiry = some e) (hnew : ∀ l ∈ ls, l.expiry ≠ some e)
    (h : lotsOrdered ls = true) : lotsOrdered (insertLot (ls.findIdx (Lot.behind e)) x ls) = true := by
  induction ls with
  | nil => rfl
  | cons l ls ih =>
    rw [List.findIdx_cons]
    cases hbehind : Lot.behind e l with
    | true =>
      have hfront : x.before l = true := by
        unfold Lot.behind at hbehind
        unfold Lot.before
        rw [hx]
        cases hl : l.expiry with
        | none => rfl
        | some y =>
          rw [hl] at hbehind
          exact hbehind
      exact Bool.and_eq_true_iff.mpr ⟨hfront, h⟩
    | false =>
      have hl : l.before x = true := by
        have hne := hnew l List.mem_cons_self
        unfold Lot.behind at hbehind
        unfold Lot.before
        rw [hx]
        cases hl : l.expiry with
        | none => simp [hl] at hbehind
        | some y =>
          rw [hl] at hbehind hne
          have hle : ¬ e < y := by simpa using hbehind
          have hne : y ≠ e := fun h => hne (congrArg some h)
          exact decide_eq_true (by omega)
      have hrest := ih (fun m hm => hnew m (List.mem_cons_of_mem l hm))
      cases ls with
      | nil => exact Bool.and_eq_true_iff.mpr ⟨hl, rfl⟩
      | cons m ls =>
        rw [lotsOrdered_cons_cons, Bool.and_eq_true] at h
        have hrest := hrest h.2
        rw [List.findIdx_cons] at hrest ⊢
        cases hm : Lot.behind e m with
        | true =>
          rw [hm] at hrest
          exact Bool.and_eq_true_iff.mpr ⟨hl, hrest⟩
        | false =>
          rw [hm] at hrest
          exact Bool.and_eq_true_iff.mpr ⟨h.1, hrest⟩

/-! ### Adding (R10, R11) -/

theorem Lot.expiry_of_not_bonus {l : Lot} (h : ¬ l.isBonus = true) : l.expiry = none := by
  simpa [Lot.isBonus] using h

theorem addPaid_some {a : Nat} {ls r : List Lot} (h : addPaid a ls = some r) : lotSum r = lotSum ls + a ∧ ∃ l, r.getLast? = some l ∧ l.expiry = none := by
  unfold addPaid at h
  split at h
  · cases h
    exact ⟨by simp, _, rfl, rfl⟩
  · split at h
    · next l hlast =>
      split at h
      · split at h
        · cases h
          exact ⟨by simp, _, List.getLast?_concat, rfl⟩
        · cases h
      · next hpaid =>
        cases h
        have hsplit : lotSum ls = lotSum ls.dropLast + l.amount := by
          conv_lhs => rw [← List.dropLast_append_getLast? l hlast]
          simp
        refine ⟨?_, _, List.getLast?_concat, Lot.expiry_of_not_bonus hpaid⟩
        rw [lotSum_append, lotSum_cons, lotSum_nil]
        dsimp only
        omega
    · cases h

theorem addPaid_none_iff {a : Nat} {ls : List Lot} : addPaid a ls = none ↔ 6 ≤ ls.length ∧ ∃ l, ls.getLast? = some l ∧ l.isBonus = true := by
  unfold addPaid
  split
  · simp
  · next hne =>
    split
    · next l hlast =>
      split
      · next hbonus =>
        split
        · next hroom =>
          have hroom : ls.length < 6 := hroom
          simp only [reduceCtorEq, false_iff, not_and]
          omega
        · next hfull =>
          have hfull : 6 ≤ ls.length := not_lt.mp hfull
          simp [hfull, hlast, hbonus]
      · next hpaid => simp [hlast, hpaid]
    · next hlast => exact absurd (List.getLast?_eq_none_iff.mp hlast) hne

theorem addBonus_some {g e : Nat} {ls r : List Lot} (h : addBonus g e ls = some r) :
    lotSum r = lotSum ls + g ∧ (lotsOrdered ls = true → lotsOrdered r = true) := by
  unfold addBonus at h
  split at h
  · next n hfound =>
    cases h
    exact ⟨addAt_sum g (findIdx?_lt hfound), fun hordered => (lotsOrdered_of_expiries (addAt_expiries g n ls)).trans hordered⟩
  · next hnone =>
    split at h
    · cases h
      have hnew : ∀ l ∈ ls, l.expiry ≠ some e := by simpa using hnone
      exact ⟨insertLot_sum _ _ ls, fun hordered => insertLot_ordered rfl hnew hordered⟩
    · cases h

theorem addBonus_none_iff {g e : Nat} {ls : List Lot} : addBonus g e ls = none ↔ 6 ≤ ls.length ∧ ∀ l ∈ ls, l.expiry ≠ some e := by
  unfold addBonus
  split
  · next n hfound =>
    have hin : ¬ ∀ l ∈ ls, l.expiry ≠ some e := fun hall => by
      have hnone : ls.findIdx? (fun l => decide (l.expiry = some e)) = none := by simpa using hall
      rw [hnone] at hfound
      cases hfound
    simp [hin]
  · next hnone =>
    have hnew : ∀ l ∈ ls, l.expiry ≠ some e := by simpa using hnone
    split
    · next hroom =>
      have hroom : ls.length < 6 := hroom
      simp only [reduceCtorEq, false_iff, not_and]
      omega
    · next hfull =>
      have hfull : 6 ≤ ls.length := not_lt.mp hfull
      exact iff_of_true rfl ⟨hfull, hnew⟩

/-! ### Drawing (R12) -/

theorem drawLots_sums {d : Nat} {ls : List Lot} (h : d ≤ lotSum ls) :
    lotSum (drawLots d ls).1 = d ∧ lotSum (drawLots d ls).2 = lotSum ls - d ∧
      ((drawLots d ls).1.map (·.expiry)).isPrefixOf (ls.map (·.expiry)) = true := by
  induction ls generalizing d with
  | nil =>
    have hzero : d = 0 := by simpa using h
    rw [hzero]
    exact ⟨rfl, rfl, rfl⟩
  | cons l ls ih =>
    rw [lotSum_cons] at h
    unfold drawLots
    split
    · next hzero =>
      rw [hzero]
      exact ⟨rfl, rfl, rfl⟩
    · split
      · next hle =>
        obtain ⟨hdrawn, hleft, hprefix⟩ := ih (d := d - l.amount) (by omega)
        refine ⟨?_, ?_, ?_⟩
        · rw [lotSum_cons, hdrawn]
          omega
        · rw [hleft, lotSum_cons]
          omega
        · simpa using hprefix
      · refine ⟨by simp, ?_, by simp⟩
        rw [lotSum_cons, lotSum_cons]
        dsimp only
        omega

/-! ### Restoring (R13) -/

/-- What a restore has come to after the parts `done` of the lots `ls`. -/
structure RestoredFrom (today : Nat) (ls done : List Lot) (r : Restored) : Prop where
  lots : lotSum r.lots = lotSum ls + r.restored
  accounts : r.restored + r.unrestored + r.lapsed = lotSum done
  lapsed : r.lapsed = lotSum (done.filter (Lot.lapsed today))
  length : r.lots.length ≤ max 6 ls.length

/-- An amount given to a lot joins it but for what the lot's limit keeps out (R13). -/
theorem Restored.give_eq (r : Restored) (n a : Nat) : ∃ g, g ≤ a ∧
    r.give n a = { r with lots := addAt g n r.lots, restored := r.restored + g, unrestored := r.unrestored + (a - g) } :=
  ⟨_, min_le_left .., rfl⟩

/-- A part that has not lapsed and goes to a lot of the list. -/
theorem RestoredFrom.give {today n : Nat} {ls done : List Lot} {r : Restored} {p : Lot} (h : RestoredFrom today ls done r)
    (hp : p.lapsed today = false) (hn : n < r.lots.length) : RestoredFrom today ls (done ++ [p]) (r.give n p.amount) := by
  obtain ⟨hlots, haccounts, hlapsed, hlength⟩ := h
  obtain ⟨g, hg, hgive⟩ := r.give_eq n p.amount
  rw [hgive]
  refine ⟨?_, ?_, ?_, ?_⟩
  · rw [addAt_sum g hn]
    dsimp only
    omega
  · rw [lotSum_append, lotSum_cons, lotSum_nil]
    dsimp only
    omega
  · simp [List.filter_append, hp, hlapsed]
  · rw [addAt_length]
    exact hlength

theorem RestoredFrom.restorePart {today : Nat} {ls done : List Lot} {r : Restored} (h : RestoredFrom today ls done r) (p : Lot) :
    RestoredFrom today ls (done ++ [p]) (restorePart today r p) := by
  unfold Machine.restorePart
  split
  · next hp =>
    obtain ⟨hlots, haccounts, hlapsed, hlength⟩ := h
    refine ⟨hlots, ?_, ?_, hlength⟩
    · rw [lotSum_append, lotSum_cons, lotSum_nil]
      dsimp only
      omega
    · simp [List.filter_append, hp, hlapsed]
  · next hp =>
    have hp : p.lapsed today = false := by simpa using hp
    split
    · next n hfound => exact h.give hp (findIdx?_lt hfound)
    · dsimp only
      split
      · next hroom =>
        have hroom : r.lots.length < 6 := hroom
        obtain ⟨hlots, haccounts, hlapsed, hlength⟩ := h
        refine ⟨?_, ?_, ?_, ?_⟩
        · rw [insertLot_sum]
          dsimp only
          omega
        · rw [lotSum_append, lotSum_cons, lotSum_nil]
          dsimp only
          omega
        · simp [List.filter_append, hp, hlapsed]
        · rw [insertLot_length]
          omega
      · next hfull =>
        have hfull : 6 ≤ r.lots.length := not_lt.mp hfull
        exact h.give hp (by omega)

theorem restoreParts_from (today : Nat) (ps ls : List Lot) : RestoredFrom today ls ps (restoreParts today ps ls) := by
  have hfold : ∀ (ps done : List Lot) (r : Restored), RestoredFrom today ls done r →
      RestoredFrom today ls (done ++ ps) (ps.foldl (Machine.restorePart today) r) := by
    intro ps
    induction ps with
    | nil =>
      intro done r h
      rwa [List.append_nil]
    | cons p ps ih =>
      intro done r h
      have := ih _ _ (h.restorePart p)
      rwa [List.append_assoc] at this
  exact hfold ps [] { lots := ls } ⟨rfl, rfl, rfl, le_max_right ..⟩

/-! ### Taking back (R14) -/

/-- A test of lots that looks at the expiry day alone. -/
def ByExpiry (f : Lot → Bool) : Prop := ∀ l a, f { l with amount := a } = f l

/-- What is taken is the lesser of what is asked and what the admitted lots hold. -/
theorem takeFrom_sums (f : Lot → Bool) (x : Nat) (ls : List Lot) :
    (takeFrom f x ls).1 = x - lotSum (ls.filter f) ∧ lotSum (takeFrom f x ls).2 = lotSum ls - min x (lotSum (ls.filter f)) := by
  induction ls generalizing x with
  | nil => simp [takeFrom]
  | cons l ls ih =>
    have hle := lotSum_filter_le f ls
    unfold takeFrom
    split
    · next hzero => simp [hzero]
    · split
      · next hf =>
        rw [List.filter_cons_of_pos hf, lotSum_cons, lotSum_cons]
        split
        · obtain ⟨hleft, hlots⟩ := ih (x - l.amount)
          exact ⟨by omega, by omega⟩
        · rw [lotSum_cons]
          exact ⟨by omega, by dsimp only; omega⟩
      · next hf =>
        obtain ⟨hleft, hlots⟩ := ih x
        rw [List.filter_cons_of_neg hf, lotSum_cons, lotSum_cons]
        exact ⟨hleft, by omega⟩

theorem lotSum_filter_within {f g : Lot → Bool} (hfg : ∀ l, f l = true → g l = true) (ls : List Lot) :
    lotSum (ls.filter f) ≤ lotSum (ls.filter g) := by
  have hsub : ls.filter f = (ls.filter g).filter f := by
    rw [List.filter_filter]
    refine List.filter_congr fun l _ => ?_
    cases hl : f l
    · rfl
    · simp [hfg l hl]
  rw [hsub]
  exact lotSum_filter_le f _

/-- Taking from some of the lots that a wider test admits leaves the others of them. -/
theorem takeFrom_within {f g : Lot → Bool} (hg : ByExpiry g) (hfg : ∀ l, f l = true → g l = true) (x : Nat) (ls : List Lot) :
    lotSum ((takeFrom f x ls).2.filter g) = lotSum (ls.filter g) - min x (lotSum (ls.filter f)) := by
  induction ls generalizing x with
  | nil => simp [takeFrom]
  | cons l ls ih =>
    unfold takeFrom
    split
    · next hzero => simp [hzero]
    · split
      · next hf =>
        rw [List.filter_cons_of_pos hf, List.filter_cons_of_pos (hfg l hf), lotSum_cons, lotSum_cons]
        split
        · rw [ih]
          omega
        · rw [List.filter_cons_of_pos (by rw [hg]; exact hfg l hf), lotSum_cons]
          dsimp only
          omega
      · next hf =>
        have hwithin := lotSum_filter_within hfg ls
        rw [List.filter_cons_of_neg hf]
        cases hgl : g l
        · rw [List.filter_cons_of_neg (by simp [hgl]), List.filter_cons_of_neg (by simp [hgl]), ih]
        · rw [List.filter_cons_of_pos hgl, List.filter_cons_of_pos hgl, lotSum_cons, lotSum_cons, ih]
          omega

/-- Taking from lots that a test refuses leaves all that it admits. -/
theorem takeFrom_apart {f g : Lot → Bool} (hg : ByExpiry g) (hfg : ∀ l, f l = true → g l = false) (x : Nat) (ls : List Lot) :
    (takeFrom f x ls).2.filter g = ls.filter g := by
  induction ls generalizing x with
  | nil => rfl
  | cons l ls ih =>
    unfold takeFrom
    split
    · rfl
    · split
      · next hf =>
        rw [List.filter_cons_of_neg (by simp [hfg l hf])]
        split
        · exact ih _
        · rw [List.filter_cons_of_neg (by rw [hg]; simp [hfg l hf])]
      · rw [List.filter_cons, List.filter_cons, ih]

theorem isBonus_byExpiry : ByExpiry Lot.isBonus := fun _ _ => rfl

theorem paidPass_sums (x : Nat) (ls : List Lot) :
    (paidPass x ls).1 = min x (lotSum ls) ∧ lotSum (paidPass x ls).2 = lotSum ls - min x (lotSum ls) := by
  have hall := lotSum_filter_add Lot.isBonus ls.reverse
  have hpaid := takeFrom_sums (fun l => !l.isBonus) x ls.reverse
  have hapart : ((takeFrom (fun l => !l.isBonus) x ls.reverse).2.filter Lot.isBonus) = ls.reverse.filter Lot.isBonus :=
    takeFrom_apart isBonus_byExpiry (fun l hl => by simpa using hl) x ls.reverse
  have hbonus := takeFrom_sums Lot.isBonus (takeFrom (fun l => !l.isBonus) x ls.reverse).1 (takeFrom (fun l => !l.isBonus) x ls.reverse).2
  rw [hapart] at hbonus
  rw [lotSum_reverse] at hall hpaid
  obtain ⟨hpaidLeft, hpaidLots⟩ := hpaid
  obtain ⟨hleft, hlots⟩ := hbonus
  rw [paidPass, lotSum_reverse]
  exact ⟨by omega, by omega⟩

theorem bonusPass_sums (y e : Nat) (ls : List Lot) :
    (bonusPass y e ls).1 = min y (lotSum (ls.filter Lot.isBonus)) ∧
      lotSum (bonusPass y e ls).2 = lotSum ls - min y (lotSum (ls.filter Lot.isBonus)) := by
  have hdated : ∀ l : Lot, decide (l.expiry = some e) = true → l.isBonus = true := fun l hl => by
    rw [Lot.isBonus, of_decide_eq_true hl]
    rfl
  have hfirst := takeFrom_sums (fun l => decide (l.expiry = some e)) y ls.reverse
  have hwithin := takeFrom_within isBonus_byExpiry hdated y ls.reverse
  have hsecond := takeFrom_sums Lot.isBonus (takeFrom (fun l => decide (l.expiry = some e)) y ls.reverse).1
    (takeFrom (fun l => decide (l.expiry = some e)) y ls.reverse).2
  rw [hwithin] at hsecond
  have hle := lotSum_filter_le Lot.isBonus ls
  have hreverse : lotSum (ls.reverse.filter Lot.isBonus) = lotSum (ls.filter Lot.isBonus) := by rw [List.filter_reverse, lotSum_reverse]
  have hsub := lotSum_filter_within hdated ls.reverse
  rw [hreverse] at hsecond hsub
  rw [lotSum_reverse] at hfirst
  obtain ⟨hfirstLeft, hfirstLots⟩ := hfirst
  obtain ⟨hleft, hlots⟩ := hsecond
  rw [bonusPass, lotSum_reverse]
  exact ⟨by omega, by omega⟩

/-- Settles O58: each operation by its own sums. -/
theorem lotOperationsKeepTheValue : Obligations.LotOperationsKeepTheValue := by
  unfold Obligations.LotOperationsKeepTheValue
  refine fun ls => ⟨fun _ _ h => addPaid_some h, fun _ => addPaid_none_iff, fun _ _ _ h => addBonus_some h, fun _ _ => addBonus_none_iff,
    fun _ h => drawLots_sums h, fun today ps => ?_, fun x => paidPass_sums x ls, fun y e => bonusPass_sums y e ls⟩
  obtain ⟨hlots, haccounts, hlapsed, hlength⟩ := restoreParts_from today ps ls
  exact ⟨hlots, haccounts, hlapsed, hlength⟩

end Sys2Proof.Machine
end

section
/-! PROOFS. The release of a lock (spec/06, R119; O55). -/

namespace Sys2Proof.Machine

section
variable {f : Waiter → Bool} {pre rest : List Waiter} {x : Waiter}

/-- The oldest waiter that a test admits, behind others that it refuses. -/
theorem takeWaiter_first (hpre : ∀ y ∈ pre, f y = false) (hx : f x = true) : takeWaiter f (pre ++ x :: rest) = some (x, pre ++ rest) := by
  induction pre with
  | nil => simp [takeWaiter, hx]
  | cons y pre ih =>
    rw [List.forall_mem_cons] at hpre
    obtain ⟨hy, hpre⟩ := hpre
    simp [takeWaiter, hy, ih hpre]

theorem takeWaiter_none {l : List Waiter} (h : ∀ y ∈ l, f y = false) : takeWaiter f l = none := by
  induction l with
  | nil => rfl
  | cons y l ih =>
    rw [List.forall_mem_cons] at h
    obtain ⟨hy, hl⟩ := h
    simp [takeWaiter, hy, ih hl]

end

section
variable {s : State} {l : LockName} {pre rest : List Waiter} {x : Waiter}

/-- The oldest waiter for the lock itself receives it. -/
theorem releaseLock_same (hsplit : s.units.waiting = pre ++ x :: rest) (hx : x.lock = l) (hpre : ∀ y ∈ pre, y.lock ≠ l) :
    releaseLock l s = handOver x (pre ++ rest) l.row s := by
  have htake : takeWaiter (fun y => decide (y.lock = l)) s.units.waiting = some (x, pre ++ rest) := by
    rw [hsplit]
    exact takeWaiter_first (fun y hy => decide_eq_false (hpre y hy)) (decide_eq_true hx)
  simp only [releaseLock, htake]

/-- With no one waiting for it, the oldest waiter of its kind whose own lock is free receives that in its table entry. -/
theorem releaseLock_passed (hsplit : s.units.waiting = pre ++ x :: rest) (hnone : ∀ y ∈ s.units.waiting, y.lock ≠ l)
    (hkind : x.lock.sameKind l = true) (hfree : s.lockHeld x.lock = false)
    (hpre : ∀ y ∈ pre, y.lock.sameKind l = true → s.lockHeld y.lock = true) :
    releaseLock l s = handOver x (pre ++ rest) l.row s := by
  have hother : takeWaiter (fun y => decide (y.lock = l)) s.units.waiting = none :=
    takeWaiter_none fun y hy => decide_eq_false (hnone y hy)
  have htake : takeWaiter (fun y => y.lock.sameKind l && !s.lockHeld y.lock) s.units.waiting = some (x, pre ++ rest) := by
    rw [hsplit]
    refine takeWaiter_first (fun y hy => ?_) (by simp [hkind, hfree])
    cases hy' : y.lock.sameKind l with
    | false => rfl
    | true => simp [hpre y hy hy']
  simp only [releaseLock, hother, htake]

/-- With no waiter that it can serve the entry is cleared. -/
theorem releaseLock_cleared (hnone : ∀ y ∈ s.units.waiting, y.lock ≠ l)
    (hheld : ∀ y ∈ s.units.waiting, y.lock.sameKind l = true → s.lockHeld y.lock = true) :
    releaseLock l s = s.setBank l ((s.bank l).filter (fun k => !decide (k.row = l.row))) := by
  have hother : takeWaiter (fun y => decide (y.lock = l)) s.units.waiting = none :=
    takeWaiter_none fun y hy => decide_eq_false (hnone y hy)
  have htake : takeWaiter (fun y => y.lock.sameKind l && !s.lockHeld y.lock) s.units.waiting = none := by
    refine takeWaiter_none fun y hy => ?_
    cases hy' : y.lock.sameKind l with
    | false => rfl
    | true => simp [hheld y hy hy']
  simp only [releaseLock, hother, htake]

/-- What a hand-over leaves, for a lock of either kind. -/
theorem handOver_till {j row : Nat} (hx : x.lock = .till j) : handOver x rest row s = { s with
    units := { s.units with waiting := rest, ready := s.units.ready ++ [{ x.work with tillLock := some j, phase := .gotTill }] }
    locks := { s.locks with till := s.locks.till.map (fun l => if l.row = row then { row := j, holder := x.work.place } else l) } } := by
  unfold handOver
  rw [hx]
  rfl

theorem handOver_card {j row : Nat} (hx : x.lock = .card j) : handOver x rest row s = { s with
    units := { s.units with waiting := rest, ready := s.units.ready ++ [{ x.work with cardLock := some j, phase := .gotCard }] }
    locks := { s.locks with card := s.locks.card.map (fun l => if l.row = row then { row := j, holder := x.work.place } else l) } } := by
  unfold handOver
  rw [hx]
  rfl

/-- The locks of one kind. -/
theorem LockName.sameKind_iff {lock : Nat → LockName} (h : lock = .till ∨ lock = .card) {l : LockName} {r : Nat} :
    l.sameKind (lock r) = true ↔ ∃ i, l = lock i := by
  rcases h with rfl | rfl <;> cases l <;> simp [LockName.sameKind]

end

/-- A bank without the entries of a row. -/
theorem filter_not_row (b : List Lock) (r : Nat) : b.filter (fun k => !decide (k.row = r)) = b.filter (fun l => decide (l.row ≠ r)) := by
  refine List.filter_congr fun l _ => ?_
  by_cases h : l.row = r <;> simp [h]

/-- Settles O55: by which waiter the release finds, for till locks and card locks alike. -/
theorem lockReleasesGoToTheOldestWaiter : Obligations.LockReleasesGoToTheOldestWaiter := by
  unfold Obligations.LockReleasesGoToTheOldestWaiter
  intro lock r s hlock
  have hkind := fun (l : LockName) => LockName.sameKind_iff hlock (l := l) (r := r)
  have hheld : ∀ ys : List Waiter, (∀ y ∈ ys, ∀ i, y.lock = lock i → s.lockHeld (lock i) = true) →
      ∀ y ∈ ys, y.lock.sameKind (lock r) = true → s.lockHeld y.lock = true := fun ys hys y hy hy' => by
    obtain ⟨i, hi⟩ := (hkind y.lock).mp hy'
    rw [hi]
    exact hys y hy i hi
  have hpassed : ∀ pre x rest j, s.units.waiting = pre ++ x :: rest → x.lock = lock j → s.lockHeld (lock j) = false →
      (∀ y ∈ s.units.waiting, y.lock ≠ lock r) → (∀ y ∈ pre, ∀ i, y.lock = lock i → s.lockHeld (lock i) = true) →
      releaseLock (lock r) s = handOver x (pre ++ rest) (lock r).row s := fun pre x rest j hsplit hx hfree hnone hpre =>
    releaseLock_passed hsplit hnone ((hkind x.lock).mpr ⟨j, hx⟩) (by rw [hx]; exact hfree) (hheld pre hpre)
  have hcleared : (∀ y ∈ s.units.waiting, y.lock ≠ lock r ∧ ∀ i, y.lock = lock i → s.lockHeld (lock i) = true) →
      releaseLock (lock r) s = s.setBank (lock r) ((s.bank (lock r)).filter (fun l => decide (l.row ≠ (lock r).row))) := fun hall =>
    (releaseLock_cleared (fun y hy => (hall y hy).1) (hheld _ fun y hy => (hall y hy).2)).trans
      (congrArg (State.setBank s (lock r)) (filter_not_row _ _))
  rcases hlock with rfl | rfl
  · exact ⟨fun _ _ _ hsplit hx hpre => (releaseLock_same hsplit hx hpre).trans (handOver_till hx),
      fun pre x rest j hsplit hx hfree hnone hpre => (hpassed pre x rest j hsplit hx hfree hnone hpre).trans (handOver_till hx), hcleared⟩
  · exact ⟨fun _ _ _ hsplit hx hpre => (releaseLock_same hsplit hx hpre).trans (handOver_card hx),
      fun pre x rest j hsplit hx hfree hnone hpre => (hpassed pre x rest j hsplit hx hfree hnone hpre).trans (handOver_card hx), hcleared⟩

end Sys2Proof.Machine
end

section
/-! PROOFS. The chain operations, one by one (spec/04, R77 to R82; spec/07, R136, R137; O56). -/

namespace Sys2Proof.Machine

/-! ### Link words and chains after each write -/

section
variable (s : State) (i j : Nat)

theorem linkWord_writeLink (w : LinkWord) : (writeLink i w s).linkWord j = if j = i then { word := w } else s.linkWord j :=
  linkWord_putLinkStored s i j _

theorem linkWord_joinNext (n : Option Nat) : (joinNext i n s).linkWord j =
    if j = i then { word := { (s.linkWord i).word with next := nextLink i n } } else s.linkWord j := linkWord_writeLink s i j _

theorem linkWord_joinPrev (p : Option Nat) : (joinPrev i p s).linkWord j =
    if j = i then { word := { (s.linkWord i).word with prev := prevLink i p } } else s.linkWord j := linkWord_writeLink s i j _

theorem linkWord_setChain (c : ChainId) (v : Chain) : (s.setChain c v).linkWord j = s.linkWord j := by
  cases c <;> rfl

theorem chain_setChain_same (c : ChainId) (v : Chain) : (s.setChain c v).chain c = v := by
  cases c with
  | free => rfl
  | due => rfl
  | bucket b => exact Sparse.get_set_same ..

theorem chain_setChain_other {c d : ChainId} (v : Chain) (h : d ≠ c) : (s.setChain c v).chain d = s.chain d := by
  cases c <;> cases d <;> first
    | rfl
    | exact absurd rfl h
    | exact Sparse.get_set_other _ _ _ fun e => h (congrArg ChainId.bucket e)

theorem setChain_sweep_hand (c : ChainId) (v : Chain) :
    (s.setChain c v).holds.sweep = s.holds.sweep ∧ (s.setChain c v).holds.hand = s.holds.hand := by
  cases c <;> exact ⟨rfl, rfl⟩

end

/-- A stored link names its row again (R137). -/
theorem nextTarget_of_nextLink {x : Nat} {w : LinkWord} {t : Option Nat} (h : w.next = nextLink x t) : nextTarget x w = t := by
  cases t <;> simp [nextTarget, nextLink, h]

theorem prevTarget_of_prevLink {x : Nat} {w : LinkWord} {t : Option Nat} (h : w.prev = prevLink x t) : prevTarget x w = t := by
  cases t <;> simp [prevTarget, prevLink, h]

theorem ChainsOnly.rest {s t : State} (h : ChainsOnly s t) : { t with holds := s.holds, store := s.store } = s := by
  rw [h]

/-! ### Append (R78) -/

/-- The state in which an appended row is joined with the old tail, its chain's ends not yet moved. -/
def joinTail (c : ChainId) (i : Nat) (s : State) : State :=
  let tail := (s.chain c).tail
  let v := writeLink i { prev := prevLink i tail, next := none } s
  match tail with | none => v | some x => joinNext x (some i) v

/-- A chain's ends and count once a row is appended. -/
def Chain.appended (ch : Chain) (i : Nat) : Chain :=
  { head := match ch.head with | none => some i | some h => some h, tail := some i, count := ch.count + 1 }

theorem appendRow_eq (c : ChainId) (i : Nat) (s : State) : appendRow c i s = (joinTail c i s).setChain c ((s.chain c).appended i) := rfl

theorem joinTail_holds (c : ChainId) (i : Nat) (s : State) : (joinTail c i s).holds = s.holds := by
  unfold joinTail
  dsimp only
  split <;> rfl

theorem joinTail_chain (c d : ChainId) (i : Nat) (s : State) : (joinTail c i s).chain d = s.chain d := by
  cases d <;> simp only [State.chain, joinTail_holds]

/-- What the link words are once a row is appended behind another one. -/
theorem joinTail_linkWord {c : ChainId} {i : Nat} {s : State} (hi : (s.chain c).tail ≠ some i) (j : Nat) : (joinTail c i s).linkWord j =
    if j = i then { word := { prev := prevLink i (s.chain c).tail, next := none } }
    else if (s.chain c).tail = some j then { word := { (s.linkWord j).word with next := nextLink j (some i) } }
    else s.linkWord j := by
  unfold joinTail
  cases htail : (s.chain c).tail with
  | none => simp [linkWord_writeLink]
  | some x =>
    have hx : x ≠ i := fun h => hi (by rw [htail, h])
    simp only [linkWord_joinNext, linkWord_writeLink, if_neg hx]
    by_cases hj : j = x
    · subst hj
      simp [hx]
    · simp [hj, Ne.symm hj]

theorem appendRow_linkWord {c : ChainId} {i : Nat} {s : State} (hi : (s.chain c).tail ≠ some i) (j : Nat) : (appendRow c i s).linkWord j =
    if j = i then { word := { prev := prevLink i (s.chain c).tail, next := none } }
    else if (s.chain c).tail = some j then { word := { (s.linkWord j).word with next := nextLink j (some i) } }
    else s.linkWord j := by
  rw [appendRow_eq, linkWord_setChain, joinTail_linkWord hi]

theorem appendRow_chain_same (c : ChainId) (i : Nat) (s : State) : (appendRow c i s).chain c = (s.chain c).appended i := by
  rw [appendRow_eq, chain_setChain_same]

theorem appendRow_chain_other {c d : ChainId} (i : Nat) (s : State) (h : d ≠ c) : (appendRow c i s).chain d = s.chain d := by
  rw [appendRow_eq, chain_setChain_other _ _ h, joinTail_chain]

theorem appendRow_sweep_hand (c : ChainId) (i : Nat) (s : State) :
    (appendRow c i s).holds.sweep = s.holds.sweep ∧ (appendRow c i s).holds.hand = s.holds.hand := by
  rw [appendRow_eq, (setChain_sweep_hand ..).1, (setChain_sweep_hand ..).2, joinTail_holds]
  exact ⟨rfl, rfl⟩

theorem fileRow_hand (i d : Nat) (s : State) : (fileRow i d s).holds.hand = s.holds.hand := by
  unfold fileRow
  split
  · split
    · exact (appendRow_sweep_hand ..).2
    · exact (appendRow_sweep_hand ..).2
  · exact (appendRow_sweep_hand ..).2

theorem fileRow_sweep {p : Int} {i d : Nat} {s : State} (h : s.holds.sweep = some p) :
    fileRow i d s = if p < (d : Int) then appendRow (.bucket (d % 4096)) i s else appendRow .due i s := by
  unfold fileRow
  rw [h]
  rfl

/-! ### Reading a link word (R137) -/

/-- A word with a good copy is read, and copy one is right afterwards. -/
theorem readLink_read {s : State} {i : Nat} (h : (s.linkWord i).one.outcome ≠ .uncorrectable ∨ (s.linkWord i).two.outcome ≠ .uncorrectable) :
    ∃ u, readLink s i = (u, some (s.linkWord i).word) ∧ u.holds = s.holds ∧ (∀ j, (u.linkWord j).word = (s.linkWord j).word) ∧
      (∀ j, j ≠ i → u.linkWord j = s.linkWord j) ∧ (u.linkWord i).one = .clean ∧ ((s.linkWord i).one = .clean → u.linkWord i = s.linkWord i) := by
  have hput : ∀ v : StoredLink, v.word = (s.linkWord i).word → v.one = .clean → (s.putLinkStored i v).holds = s.holds ∧
      (∀ j, ((s.putLinkStored i v).linkWord j).word = (s.linkWord j).word) ∧ (∀ j, j ≠ i → (s.putLinkStored i v).linkWord j = s.linkWord j) ∧
      ((s.putLinkStored i v).linkWord i).one = .clean := fun v hword hone => by
    have hv := linkWord_putLinkStored s i
    refine ⟨rfl, fun j => ?_, fun j hj => by rw [hv, if_neg hj], by rw [hv, if_pos rfl, hone]⟩
    rw [hv]
    split
    · next h => rw [hword, h]
    · rfl
  have hwrong : (s.linkWord i).one.outcome ≠ .clean → (s.linkWord i).one ≠ .clean := fun hne h => hne (by rw [h]; rfl)
  cases hone : (s.linkWord i).one.outcome with
  | clean =>
    have hclean := BitErrors.eq_clean_of_outcome hone
    exact ⟨s, by simp only [readLink, hone], rfl, fun _ => rfl, fun _ _ => rfl, hclean, fun _ => rfl⟩
  | corrected =>
    obtain ⟨hholds, hword, hother, hcopy⟩ := hput { s.linkWord i with one := .clean } rfl rfl
    exact ⟨_, by simp only [readLink, hone], hholds, hword, hother, hcopy, fun h => absurd h (hwrong (by simp [hone]))⟩
  | uncorrectable =>
    obtain ⟨hholds, hword, hother, hcopy⟩ := hput { word := (s.linkWord i).word } rfl rfl
    have htwo := h.resolve_left (not_not.mpr hone)
    have hread : readLink s i = (s.putLinkStored i { word := (s.linkWord i).word }, some (s.linkWord i).word) := by
      cases hcopy : (s.linkWord i).two.outcome with
      | clean => simp only [readLink, hone, hcopy, writeLink]
      | corrected => simp only [readLink, hone, hcopy, writeLink]
      | uncorrectable => exact absurd hcopy htwo
    exact ⟨_, hread, hholds, hword, hother, hcopy, fun h => absurd h (hwrong (by simp [hone]))⟩

/-! ### Unlink (R78) -/

/-- The neighbours of a row that leaves are joined with each other. -/
def joinNeighbours (p n : Option Nat) (s : State) : State :=
  let s := match p with | none => s | some k => joinNext k n s
  match n with | none => s | some k => joinPrev k p s

theorem leaveChain_eq (c : ChainId) (i : Nat) (p n : Option Nat) (s : State) :
    leaveChain (some c) i p n s = (joinNeighbours p n s).setChain c (((joinNeighbours p n s).chain c).without i p n) := rfl

theorem joinNeighbours_holds (p n : Option Nat) (s : State) : (joinNeighbours p n s).holds = s.holds := by
  cases p <;> cases n <;> rfl

theorem joinNeighbours_chain (p n : Option Nat) (s : State) (c : ChainId) : (joinNeighbours p n s).chain c = s.chain c := by
  cases c <;> simp only [State.chain, joinNeighbours_holds]

/-- What the link words are once two neighbours are joined. -/
theorem joinNeighbours_linkWord {p n : Option Nat} {s : State} (hne : p = none ∨ n = none ∨ p ≠ n) (j : Nat) :
    (joinNeighbours p n s).linkWord j =
      if p = some j then { word := { (s.linkWord j).word with next := nextLink j n } }
      else if n = some j then { word := { (s.linkWord j).word with prev := prevLink j p } }
      else s.linkWord j := by
  unfold joinNeighbours
  cases p with
  | none =>
    cases n with
    | none => simp
    | some y =>
      simp only [linkWord_joinPrev]
      by_cases hj : j = y
      · subst hj; simp
      · simp [hj, Ne.symm hj]
  | some x =>
    cases n with
    | none =>
      simp only [linkWord_joinNext]
      by_cases hj : j = x
      · subst hj; simp
      · simp [hj, Ne.symm hj]
    | some y =>
      have hxy : x ≠ y := fun h => by simp [h] at hne
      simp only [linkWord_joinPrev, linkWord_joinNext, if_neg (Ne.symm hxy)]
      by_cases hx : j = x
      · subst hx
        simp [hxy]
      · by_cases hy : j = y
        · subst hy; simp [Ne.symm hx]
        · simp [hx, hy, Ne.symm hx, Ne.symm hy]

/-- An unlink with its link word read, in its parts. -/
theorem unlinkRow_read {c : ChainId} {i : Nat} {s u : State} {w : LinkWord} (hchain : chainOf s i = some c) (hread : readLink s i = (u, some w)) :
    unlinkRow i s = ((joinNeighbours (prevTarget i w) (nextTarget i w) u).setChain c
      ((u.chain c).without i (prevTarget i w) (nextTarget i w)), true) := by
  rw [unlinkRow_eq, hread, hchain]
  simp only [leaveChain_eq, joinNeighbours_chain]

theorem unlinkRow_only {i : Nat} {s u : State} {b : Bool} (h : unlinkRow i s = (u, b)) : ChainsOnly s u := by
  have hstep : ChainsOnly s (unlinkRow i s).1 := (unlinkRow_chain i).1.1 s
  rw [h] at hstep
  exact hstep

/-- No EXPIRY entry names a row that is dropped from the hand list. -/
theorem dropHand_none (i : Nat) (s : State) : ∀ x ∈ (dropHand .expiry i s).holds.hand, x.kind = .expiry → x.hold ≠ i := by
  intro x hx hkind hrow
  have hkept := (List.mem_filter.mp hx).2
  simp [hkind, hrow] at hkept

/-- Settles O56: append and unlink by their link words and chains; the others by the operations they are made of. -/
theorem chainOperationsJoinAndPart : Obligations.ChainOperationsJoinAndPart := by
  unfold Obligations.ChainOperationsJoinAndPart
  intro s i
  refine ⟨fun c hi => ?_, fun c hread hchain => ?_, fun p d hsweep => fileRow_sweep hsweep, fun u h unlist hu => ?_, fun h unlist => ?_,
    fun u h hu => ?_, fun u h hu => ?_⟩
  · intro t
    have hword := appendRow_linkWord (s := s) hi
    refine ⟨?_, ?_, fun x hx => ?_, ?_, ?_, ?_, fun d hd => appendRow_chain_other i s hd, fun j hj htail => ?_, (appendRow_sweep_hand c i s).1,
      (appendRow_sweep_hand c i s).2, ((appendRow_chainStep c i).1 s).rest⟩
    · rw [hword i, if_pos rfl]
      exact prevTarget_of_prevLink rfl
    · rw [hword i, if_pos rfl]
      rfl
    · have hne : x ≠ i := fun h => hi (h ▸ hx)
      rw [hword x, if_neg hne, if_pos hx]
      exact ⟨nextTarget_of_nextLink rfl, rfl⟩
    · exact congrArg Chain.tail (appendRow_chain_same c i s)
    · exact congrArg Chain.count (appendRow_chain_same c i s)
    · exact congrArg Chain.head (appendRow_chain_same c i s)
    · rw [hword j, if_neg hj, if_neg htail]
  · intro a b hne
    obtain ⟨u, hlink, hholds, hwords, hother, hcopy, hsame⟩ := readLink_read hread
    have hunlink := unlinkRow_read hchain hlink
    have hword : ∀ j, ((joinNeighbours a b u).setChain c ((u.chain c).without i a b)).linkWord j =
        if a = some j then { word := { (u.linkWord j).word with next := nextLink j b } }
        else if b = some j then { word := { (u.linkWord j).word with prev := prevLink j a } }
        else u.linkWord j := fun j => by rw [linkWord_setChain, joinNeighbours_linkWord hne]
    have hchains : ∀ d, u.chain d = s.chain d := fun d => by cases d <;> simp only [State.chain, hholds]
    refine ⟨_, hunlink, fun x hx => ?_, fun y hy => ?_, ?_, fun d hd => ?_, fun j hj ha hb => ?_, fun hclean ha hb => ?_, fun ha hb => ?_,
      (unlinkRow_only hunlink).rest⟩
    · rw [hword x, if_pos hx]
      exact ⟨nextTarget_of_nextLink rfl, (congrArg LinkWord.prev (hwords x) :)⟩
    · have hay : a ≠ some y := fun ha => by
        rcases hne with h | h | h
        · simp [h] at ha
        · simp [h] at hy
        · exact h (ha.trans hy.symm)
      rw [hword y, if_neg hay, if_pos hy]
      exact ⟨prevTarget_of_prevLink rfl, (congrArg LinkWord.next (hwords y) :)⟩
    · rw [chain_setChain_same, hchains]
      rfl
    · rw [chain_setChain_other _ _ hd, joinNeighbours_chain, hchains]
    · rw [hword j, if_neg ha, if_neg hb, hother j hj]
    · rw [hword i, if_neg ha, if_neg hb, hsame hclean]
    · rw [hword i, if_neg ha, if_neg hb]
      exact ⟨hwords i, hcopy⟩
  · have hmove : moveHold (.freeRow i h unlist) s = (appendRow .free i (dropHand .expiry i u), true) := by simp only [moveHold, hu]
    have hfree := appendRow_chain_same .free i (dropHand .expiry i u)
    intro t
    have ht : t = appendRow .free i (dropHand .expiry i u) := congrArg Prod.fst hmove
    rw [ht]
    refine ⟨congrArg Prod.snd hmove, (congrArg Chain.tail hfree :), (congrArg Chain.count hfree :), ?_⟩
    rw [(appendRow_sweep_hand ..).2]
    exact dropHand_none i u
  · intro t
    obtain ⟨m, hleave, -⟩ := quarantineLeave_only .hold i (s.putHold i h)
    have hrows : (s.putHold i h).hold i = { val := h, ecc := .clean } ∧ ∀ j, j ≠ i → (s.putHold i h).hold j = s.hold j :=
      ⟨Sparse.get_set_same .., fun j hj => Sparse.get_set_other _ _ _ hj⟩
    obtain ⟨hrow, hothers⟩ := hrows
    cases unlist with
    | false => exact ⟨hrow, hothers, rfl, rfl, rfl⟩
    | true =>
      have ht : t = quarantineLeave .hold i (s.putHold i h) := rfl
      rw [ht, hleave]
      refine ⟨hrow, hothers, ?_, rfl, rfl⟩
      rw [if_pos rfl]
      exact List.filter_congr fun q _ => by by_cases h1 : q.kind = .hold <;> by_cases h2 : q.index = i <;> simp [h1, h2]
  · have hmove : moveHold (.renewRow i h) s = (dropHand .expiry i (fileRow i h.deadline u), true) := by simp only [moveHold, hu]
    intro t
    have ht : t = dropHand .expiry i (fileRow i h.deadline u) := congrArg Prod.fst hmove
    rw [ht]
    exact ⟨congrArg Prod.snd hmove, dropHand_none i _, rfl, rfl⟩
  · simp only [moveHold, hu]

end Sys2Proof.Machine
end

section
/-! PROOFS. The card image and its read (spec/11, 11.4; spec/01, R21; O49). -/

namespace Sys2Proof.Machine

/-! ### Figures in bytes (11.1) -/

@[simp] theorem leBytes_length (n v : Nat) : (leBytes n v).length = n := by
  induction n generalizing v with
  | zero => rfl
  | succ n ih => rw [leBytes, List.length_cons, ih]

@[simp] theorem zeroBytes_length (n : Nat) : (zeroBytes n).length = n := List.length_replicate

theorem leNat_leBytes {n v : Nat} (h : v < 256 ^ n) : leNat (leBytes n v) = v := by
  induction n generalizing v with
  | zero =>
    have hv : v = 0 := by simpa using h
    rw [hv]
    rfl
  | succ n ih =>
    rw [Nat.pow_succ] at h
    rw [leBytes, leNat, ih (by omega), BitVec.toNat_ofNat]
    omega

@[simp] theorem optBytes_length (n : Nat) (v : Option Nat) : (optBytes n v).length = n := by
  cases v with
  | none => exact List.length_replicate
  | some v => exact leBytes_length n v

@[simp] theorem codeBytes_length (c : Option Nat) : (codeBytes c).length = 2 := by
  cases c <;> rfl

theorem padTo_length {n : Nat} {bs : List Byte} (h : bs.length ≤ n) : (padTo n bs).length = n := by
  rw [padTo, List.length_append, zeroBytes_length]
  omega

/-! ### The parts of a block -/

/-- The bytes of one part of a block that is laid out in parts. -/
theorem flatten_slice {segs : List (List Byte)} {ws : List Nat} {k i : Nat} {x : List Byte} (hws : segs.map List.length = ws)
    (hk : segs[k]? = some x) (hi : (ws.take k).sum = i) : (segs.flatten.drop i).take x.length = x := by
  subst hws hi
  induction segs generalizing k with
  | nil => simp at hk
  | cons y segs ih =>
    cases k with
    | zero =>
      have hy : y = x := by simpa using hk
      simp [hy]
    | succ k =>
      have hk : segs[k]? = some x := by simpa using hk
      have hrest := ih hk
      rw [List.map_cons, List.take_succ_cons, List.sum_cons, List.flatten_cons, ← List.drop_drop, List.drop_left]
      exact hrest

/-- A figure that is one part of a block. -/
theorem fieldAt_flatten {segs : List (List Byte)} {ws : List Nat} {k i n v : Nat} (hws : segs.map List.length = ws)
    (hk : segs[k]? = some (leBytes n v)) (hi : (ws.take k).sum = i) (hv : v < 256 ^ n) : fieldAt segs.flatten i n = v := by
  have hslice := flatten_slice hws hk hi
  rw [leBytes_length] at hslice
  rw [fieldAt, hslice, leNat_leBytes hv]

/-- The place `k` of a table of places of one width. -/
theorem flatMap_slice {α : Type} {f : α → List Byte} {w k : Nat} {l : List α} {x : α} (post : List Byte) (hw : ∀ y, (f y).length = w)
    (hk : l[k]? = some x) : ((l.flatMap f ++ post).drop (w * k)).take w = f x := by
  induction l generalizing k with
  | nil => simp at hk
  | cons y l ih =>
    rw [List.flatMap_cons, List.append_assoc]
    cases k with
    | zero =>
      have hy : y = x := by simpa using hk
      rw [Nat.mul_zero, List.drop_zero, ← hw y, List.take_left, hy]
    | succ k =>
      rw [Nat.mul_succ, Nat.add_comm, ← List.drop_drop, ← hw y, List.drop_left, hw y]
      exact ih (by simpa using hk)

theorem flatMap_length {α : Type} {f : α → List Byte} {w : Nat} (l : List α) (hw : ∀ y, (f y).length = w) : (l.flatMap f).length = w * l.length := by
  induction l with
  | nil => simp
  | cons y l ih => rw [List.flatMap_cons, List.length_append, ih, hw, List.length_cons, Nat.mul_succ, Nat.add_comm]

/-- A slice of a slice. -/
theorem slice_slice (b : List Byte) {i j n m : Nat} (h : j + m ≤ n) : (((b.drop i).take n).drop j).take m = (b.drop (i + j)).take m := by
  rw [List.drop_take, List.take_take, List.drop_drop, Nat.min_eq_left (by omega)]

/-- All places of a table are read when each is. -/
theorem allPlaces_eq {α : Type} {f : Nat → Option α} (l : List α) (h : ∀ k x, l[k]? = some x → f k = some x) : allPlaces f l.length = some l := by
  induction l using List.reverseRecOn with
  | nil => rfl
  | append_singleton l x ih =>
    have hl : allPlaces f l.length = some l := ih fun k y hk =>
      h k y (by rw [List.getElem?_append_left (List.getElem?_eq_some_iff.mp hk).1, hk])
    have hx : f l.length = some x := h l.length x (by simp)
    rw [List.length_append, List.length_singleton]
    simp only [allPlaces, hl, hx]

/-! ### The fields of a card image -/

theorem CardState.ofCode_code (c : CardState) : CardState.ofCode c.code = some c := by
  cases c <;> rfl

theorem CardState.code_lt (c : CardState) : c.code < 256 ^ 1 := by
  cases c <;> decide

/-- A day as an image holds it is read back (R188). -/
theorem imageDay_optBytes {d : Option Nat} (h : ∀ x, d = some x → x ≤ 65535) : imageDay (leNat (optBytes 4 d)) = some d := by
  cases d with
  | none => decide
  | some x =>
    have hx := h x rfl
    have hlast : x ≤ Config.lastDay := hx
    rw [optBytes, leNat_leBytes (by omega), imageDay, if_neg (by omega), if_pos hlast]

theorem nibbles_ofNat {a b : Nat} (ha : a < 10) (hb : b < 10) : nibbles (BitVec.ofNat 8 (16 * a + b)) = [a, b] := by
  rw [nibbles, BitVec.toNat_ofNat, List.cons.injEq, List.cons.injEq]
  exact ⟨by omega, by omega, rfl⟩

/-- A code as an image holds it is read back (R21). -/
theorem imageCode_codeBytes {c : Option Nat} (h : ∀ x, c = some x → x ≤ 9999) : imageCode (codeBytes c) = some c := by
  cases c with
  | none => rfl
  | some x =>
    have hx := h x rfl
    have hdigits : packedDigits (codeBytes (some x)) = [x / 1000, x / 100 % 10, x / 10 % 10, x % 10] := by
      have hmod : ∀ n, n % 10 < 10 := fun n => Nat.mod_lt n (by decide)
      have hthousands : x / 1000 % 10 = x / 1000 := Nat.mod_eq_of_lt (by omega)
      simp only [codeBytes, packedDigits, List.flatMap_cons, List.flatMap_nil, List.append_nil, nibbles_ofNat (hmod _) (hmod _)]
      rw [hthousands]
      rfl
    have hall : allDigits (packedDigits (codeBytes (some x))) = true := by
      rw [hdigits]
      simp only [allDigits, List.all_cons, List.all_nil, Bool.and_true, Bool.and_eq_true, decide_eq_true_eq]
      omega
    have hdecimal : decimal (packedDigits (codeBytes (some x))) = x := by
      rw [hdigits]
      simp only [decimal, List.foldl_cons, List.foldl_nil]
      omega
    have hff : codeBytes (some x) ≠ [0xFF, 0xFF] := fun hff => by
      rw [hff] at hall
      exact absurd hall (by decide)
    rw [imageCode, if_neg hff, if_pos hall, hdecimal]

/-! ### Lots and references -/

/-- The parts of a lot place. -/
def Lot.parts (l : Lot) : List (List Byte) := [leBytes 1 (if l.isBonus then 2 else 1), zeroBytes 1, leBytes 2 (l.expiry.getD 0), leBytes 4 l.amount]

theorem Lot.bytes_eq (l : Lot) : l.bytes = l.parts.flatten := by
  simp only [Lot.bytes, Lot.parts, List.flatten_cons, List.flatten_nil, List.append_nil, List.append_assoc]

theorem Lot.parts_widths (l : Lot) : l.parts.map List.length = [1, 1, 2, 4] := by
  simp only [Lot.parts, List.map_cons, List.map_nil, leBytes_length, zeroBytes_length]

theorem Lot.bytes_length (l : Lot) : l.bytes.length = 8 := by
  rw [Lot.bytes_eq, List.length_flatten, Lot.parts_widths]
  rfl

/-- A lot in range is read back from its place (R188). -/
theorem imageLot_place {b : List Byte} {k : Nat} {l : Lot} (hplace : (b.drop (24 + 8 * k)).take 8 = l.bytes) (h : lotInRange l = true) :
    imageLot b k = some l := by
  simp only [lotInRange, Bool.and_eq_true, decide_eq_true_eq] at h
  obtain ⟨⟨hone, hmax⟩, hday⟩ := h
  have hmax' : l.amount ≤ 99999999 := hmax
  have hwidths := l.parts_widths
  have hkind : fieldAt l.bytes 0 1 = if l.isBonus then 2 else 1 := by
    rw [Lot.bytes_eq]
    exact fieldAt_flatten (k := 0) hwidths rfl rfl (by split <;> decide)
  have hamount : fieldAt l.bytes 4 4 = l.amount := by
    rw [Lot.bytes_eq]
    exact fieldAt_flatten (k := 3) hwidths rfl rfl (by omega)
  obtain ⟨e, a⟩ := l
  have hdayBytes : e.getD 0 < 256 ^ 2 → fieldAt (Lot.mk e a).bytes 2 2 = e.getD 0 := fun hlt => by
    rw [Lot.bytes_eq]
    exact fieldAt_flatten (k := 2) hwidths rfl rfl hlt
  cases e with
  | none =>
    have hday := hdayBytes (by decide)
    simp only [imageLot, hplace, hkind, hamount, hday, if_pos (And.intro hone hmax)]
    rfl
  | some d =>
    have hle : d ≤ 65535 := of_decide_eq_true hday
    have hday := hdayBytes (by simp only [Option.getD_some]; omega)
    simp only [imageLot, hplace, hkind, hamount, hday, if_pos (And.intro hone hmax)]
    rfl

/-- The parts of a reference place. -/
def CardRef.parts (r : CardRef) : List (List Byte) := [leBytes 4 r.index, leBytes 1 r.gen, zeroBytes 3, leBytes 4 r.amount]

theorem CardRef.bytes_eq (r : CardRef) : r.bytes = r.parts.flatten := by
  simp only [CardRef.bytes, CardRef.parts, List.flatten_cons, List.flatten_nil, List.append_nil, List.append_assoc]

theorem CardRef.parts_widths (r : CardRef) : r.parts.map List.length = [4, 1, 3, 4] := by
  simp only [CardRef.parts, List.map_cons, List.map_nil, leBytes_length, zeroBytes_length]

theorem CardRef.bytes_length (r : CardRef) : r.bytes.length = 12 := by
  rw [CardRef.bytes_eq, List.length_flatten, CardRef.parts_widths]
  rfl

/-- A reference in range is read back from its place (R1, R188). -/
theorem imageRef_place {b : List Byte} {k holdRows : Nat} {r : CardRef} (hplace : (b.drop (72 + 12 * k)).take 12 = r.bytes)
    (hrows : holdRows ≤ 2 ^ 32) (h : r.index < holdRows ∧ r.gen < 256 ∧ 1 ≤ r.amount ∧ r.amount ≤ 99999999) : imageRef holdRows b k = some r := by
  obtain ⟨hindex, hgen, hone, hmax⟩ := h
  have hwidths := r.parts_widths
  have hindexBytes : fieldAt r.bytes 0 4 = r.index := by
    rw [CardRef.bytes_eq]
    exact fieldAt_flatten (k := 0) hwidths rfl rfl (by omega)
  have hgenBytes : fieldAt r.bytes 4 1 = r.gen := by
    rw [CardRef.bytes_eq]
    exact fieldAt_flatten (k := 1) hwidths rfl rfl (by omega)
  have hamount : fieldAt r.bytes 8 4 = r.amount := by
    rw [CardRef.bytes_eq]
    exact fieldAt_flatten (k := 3) hwidths rfl rfl (by omega)
  have hmax' : r.amount ≤ Config.maxAmount := hmax
  simp only [imageRef, hplace, hindexBytes, hgenBytes, hamount]
  exact if_pos ⟨hone, hmax', hindex⟩

/-! ### The whole image -/

/-- The parts of a card image (11.4). -/
def CardRow.parts (c : CardRow) : List (List Byte) :=
  [leBytes 1 c.state.code, leBytes 1 c.programme, codeBytes c.code, leBytes 1 c.tries, leBytes 1 c.lots.length, leBytes 1 c.refs.length,
   leBytes 1 c.windowCount, leBytes 4 c.windowIndex, leBytes 6 c.lastMovement, zeroBytes 2, leBytes 4 c.held,
   padTo 48 (c.lots.flatMap Lot.bytes), padTo 48 (c.refs.flatMap CardRef.bytes), optBytes 4 c.activationDay, optBytes 4 c.lastUseDay]

theorem CardRow.image_eq (c : CardRow) : c.image = c.parts.flatten := by
  simp only [CardRow.image, CardRow.parts, List.flatten_cons, List.flatten_nil, List.append_nil, List.append_assoc]

/-- A row's lists fit their places in the image. -/
theorem CardRow.parts_widths {c : CardRow} (hlots : c.lots.length ≤ 6) (hrefs : c.refs.length ≤ 4) :
    c.parts.map List.length = [1, 1, 2, 1, 1, 1, 1, 4, 6, 2, 4, 48, 48, 4, 4] := by
  have hlotBytes : (padTo 48 (c.lots.flatMap Lot.bytes)).length = 48 := padTo_length (by rw [flatMap_length _ Lot.bytes_length]; omega)
  have hrefBytes : (padTo 48 (c.refs.flatMap CardRef.bytes)).length = 48 := padTo_length (by rw [flatMap_length _ CardRef.bytes_length]; omega)
  simp only [CardRow.parts, List.map_cons, List.map_nil, leBytes_length, zeroBytes_length, codeBytes_length, optBytes_length, hlotBytes, hrefBytes]

/-- Settles O49: each field by its place in the image, each lot and reference by its own. -/
theorem cardImageRoundTrip : Obligations.CardImageRoundTrip := by
  unfold Obligations.CardImageRoundTrip
  intro holdRows c hrows hprogramme hcode htries hlots hrefCount hrefs hheld hwindow hcount hmovement hact huse hempty
  simp only [lotsWf, Bool.and_eq_true, decide_eq_true_eq, List.all_eq_true] at hlots
  obtain ⟨⟨hlotCount, hinRange⟩, hordered⟩ := hlots
  have hlotCount' : c.lots.length ≤ 6 := hlotCount
  have hwidths := CardRow.parts_widths hlotCount' hrefCount
  rw [CardRow.image_eq]
  set b := c.parts.flatten with hb
  have hlength : b.length = 128 := by
    rw [hb, List.length_flatten, hwidths]
    rfl
  have hstateField : fieldAt b 0 1 = c.state.code := fieldAt_flatten (k := 0) hwidths rfl rfl c.state.code_lt
  have hprogrammeField : fieldAt b 1 1 = c.programme := fieldAt_flatten (k := 1) hwidths rfl rfl (by omega)
  have hcodeField : (b.drop 2).take 2 = codeBytes c.code := by
    have hslice := flatten_slice (k := 2) (i := 2) hwidths (Eq.refl (some (codeBytes c.code))) rfl
    rwa [codeBytes_length] at hslice
  have htriesField : fieldAt b 4 1 = c.tries := fieldAt_flatten (k := 3) hwidths rfl rfl (by omega)
  have hlotsField : fieldAt b 5 1 = c.lots.length := fieldAt_flatten (k := 4) hwidths rfl rfl (by omega)
  have hrefsField : fieldAt b 6 1 = c.refs.length := fieldAt_flatten (k := 5) hwidths rfl rfl (by omega)
  have hcountField : fieldAt b 7 1 = c.windowCount := fieldAt_flatten (k := 6) hwidths rfl rfl (by omega)
  have hwindowField : fieldAt b 8 4 = c.windowIndex := fieldAt_flatten (k := 7) hwidths rfl rfl (by omega)
  have hmovementField : fieldAt b 12 6 = c.lastMovement := fieldAt_flatten (k := 8) hwidths rfl rfl (by omega)
  have hactField : imageDay (fieldAt b 120 4) = some c.activationDay := by
    have hslice := flatten_slice (k := 13) (i := 120) hwidths (Eq.refl (some (optBytes 4 c.activationDay))) rfl
    rw [optBytes_length] at hslice
    rw [fieldAt, hslice, imageDay_optBytes hact]
  have huseField : imageDay (fieldAt b 124 4) = some c.lastUseDay := by
    have hslice := flatten_slice (k := 14) (i := 124) hwidths (Eq.refl (some (optBytes 4 c.lastUseDay))) rfl
    rw [optBytes_length] at hslice
    rw [fieldAt, hslice, imageDay_optBytes huse]
  have hlotPlaces : allPlaces (imageLot b) c.lots.length = some c.lots := allPlaces_eq c.lots fun k l hk => by
    have hlt : k < c.lots.length := (List.getElem?_eq_some_iff.mp hk).1
    have hslice := flatten_slice (k := 11) (i := 24) hwidths (Eq.refl (some (padTo 48 (c.lots.flatMap Lot.bytes)))) rfl
    rw [padTo_length (by rw [flatMap_length _ Lot.bytes_length]; omega)] at hslice
    refine imageLot_place ?_ (hinRange l (List.mem_of_getElem? hk))
    rw [← slice_slice b (n := 48) (by omega), hslice, padTo]
    exact flatMap_slice _ Lot.bytes_length hk
  have hrefPlaces : allPlaces (imageRef holdRows b) c.refs.length = some c.refs := allPlaces_eq c.refs fun k r hk => by
    have hlt : k < c.refs.length := (List.getElem?_eq_some_iff.mp hk).1
    have hslice := flatten_slice (k := 12) (i := 72) hwidths (Eq.refl (some (padTo 48 (c.refs.flatMap CardRef.bytes)))) rfl
    rw [padTo_length (by rw [flatMap_length _ CardRef.bytes_length]; omega)] at hslice
    refine imageRef_place ?_ hrows (hrefs r (List.mem_of_getElem? hk))
    rw [← slice_slice b (n := 48) (by omega), hslice, padTo]
    exact flatMap_slice _ CardRef.bytes_length hk
  refine ⟨hlength, ?_⟩
  have hranges : c.lots.length ≤ Config.lotCapacity ∧ c.refs.length ≤ Config.refCapacity ∧ True ∧ c.tries ≤ 7 ∧
      c.windowIndex ≤ Config.lastMinuteIndex := ⟨hlotCount, hrefCount, trivial, htries, hwindow⟩
  simp only [rowOfImage, hstateField, CardState.ofCode_code, hcodeField, imageCode_codeBytes hcode, hactField, huseField, hlotsField, hrefsField,
    hprogrammeField, htriesField, hwindowField, if_pos hranges, hlotPlaces, hrefPlaces, hcountField, hmovementField, ← hheld]
  exact if_pos ⟨hordered, hempty⟩

end Sys2Proof.Machine
end

section
/-! PROOFS. STARTING completes (spec/10, R184; spec/08, R148; O16): the engine words in host memory, and the lanes of the directory. -/

namespace Sys2Proof.Machine

/-! ### Several writes of a block's parts -/

/-- Word writes made one after the other, each an address and its bytes. -/
def putAll (ws : List (Nat × List Byte)) (s : State) : State := ws.foldl (fun s w => (linkPut s w.1 w.2).1) s

theorem putAll_append (as bs : List (Nat × List Byte)) (s : State) : putAll (as ++ bs) s = putAll bs (putAll as s) := List.foldl_append

theorem putAll_store (ws : List (Nat × List Byte)) (s : State) : (putAll ws s).store = s.store := by
  induction ws generalizing s with
  | nil => rfl
  | cons w ws ih =>
    obtain ⟨m, hput, -⟩ := linkPut_only s w.1 w.2
    have hrest := ih (linkPut s w.1 w.2).1
    rw [hput] at hrest
    change (putAll ws (linkPut s w.1 w.2).1).store = _
    rw [hput, hrest]
    rfl

/-- One of the writes covers an address. -/
def covers (ws : List (Nat × List Byte)) (x : Nat) : Prop := ∃ w ∈ ws, w.1 ≤ x ∧ x < w.1 + w.2.length

/-- A write is a part of the block `b` that stands at an address. -/
def PartOf (base : Nat) (b : List Byte) (w : Nat × List Byte) : Prop :=
  ∃ o n, w = (base + o, (b.drop o).take n) ∧ o + n ≤ b.length

/-- What writes of a block's parts leave in host memory: the block where a part covers it, and the rest as it was. -/
structure PartsWritten (base : Nat) (b : List Byte) (ws : List (Nat × List Byte)) (old new : List Host.Cell) : Prop where
  covered : ∀ (i : Nat) (h : i < b.length), covers ws (base + i) → Memory.read new (base + i) = b[i]
  others : ∀ x, ¬ covers ws x → Memory.read new x = Memory.read old x

theorem writable_fits {l : Link} {a n : Nat} (h : l.writable a n) : n = 0 ∨ a + n ≤ Config.hostAddresses := by
  cases n with
  | zero => exact .inl rfl
  | succ n =>
    have hlast := h n (Nat.lt_succ_self n)
    simp only [Link.writeFailsAt, Bool.or_eq_false_iff, Bool.not_eq_false', decide_eq_true_eq] at hlast
    exact .inr hlast.1

theorem putAll_parts {base : Nat} {b : List Byte} {ws : List (Nat × List Byte)} {s : State} (hw : s.link.writable base b.length)
    (hparts : ∀ w ∈ ws, PartOf base b w) : ∃ m, putAll ws s = s.setMem m ∧ PartsWritten base b ws s.link.mem m := by
  induction ws generalizing s with
  | nil => exact ⟨s.link.mem, rfl, fun _ _ h => absurd h (by simp [covers]), fun _ _ => rfl⟩
  | cons w ws ih =>
    rw [List.forall_mem_cons] at hparts
    obtain ⟨⟨o, n, rfl, hon⟩, hrest⟩ := hparts
    have hlength : ((b.drop o).take n).length = n := by
      rw [List.length_take, List.length_drop]
      omega
    have hput := linkPut_done (s := s) (a := base + o) (bs := (b.drop o).take n) (fun i hi => by
      rw [Nat.add_assoc]
      exact hw (o + i) (by omega))
    obtain ⟨m, hm, hcovered, hothers⟩ := ih (s := s.setMem (memWrite s.link.mem (base + o) ((b.drop o).take n))) hw hrest
    refine ⟨m, ?_, fun i hi hcover => ?_, fun x hx => ?_⟩
    · change putAll ws (linkPut s (base + o) ((b.drop o).take n)).1 = _
      rw [hput]
      exact hm
    · by_cases hin : covers ws (base + i)
      · exact hcovered i hi hin
      · obtain ⟨w, hw', hle, hlt⟩ := hcover
        rcases List.mem_cons.mp hw' with rfl | hw'
        · dsimp only at hle hlt
          rw [hlength] at hlt
          have hfits : base + o + ((b.drop o).take n).length ≤ Config.hostAddresses := by
            rcases writable_fits hw with h | h
            · omega
            · omega
          have hsame := memWrite_same ((b.drop o).take n) s.link.mem (base + o) (i - o) (by omega) hfits
          have hread : Memory.read m (base + i) = Memory.read (memWrite s.link.mem (base + o) ((b.drop o).take n)) (base + i) := hothers _ hin
          rw [show base + o + (i - o) = base + i by omega] at hsame
          rw [hread, hsame, List.getElem_take, List.getElem_drop]
          congr 1
          omega
        · exact absurd ⟨w, hw', hle, hlt⟩ hin
    · have hread : Memory.read m x = Memory.read (memWrite s.link.mem (base + o) ((b.drop o).take n)) x :=
        hothers x fun ⟨w, hw', hc⟩ => hx ⟨w, List.mem_cons_of_mem _ hw', hc⟩
      rw [hread]
      refine memWrite_other _ _ ?_
      by_contra hcover
      exact hx ⟨_, List.mem_cons_self, by dsimp only; omega⟩

/-! ### The engine words (R184, 11.2) -/

/-- The engine words that are written, over a span of the block whose other bytes read 0: tallies, written count, quarantine count, capability. -/
def engineBlock (s : State) (d : Directory) : List (List Byte) :=
  [zeroBytes 256, leBytes 8 0, leBytes 4 s.store.quarantine.length, zeroBytes 4, capabilityBytes d.partition]

theorem capabilityBytes_length (p : Nat) : (capabilityBytes p).length = 18 := by
  simp only [capabilityBytes, List.length_append, leBytes_length]

theorem engineBlock_widths (s : State) (d : Directory) : (engineBlock s d).map List.length = [256, 8, 4, 4, 18] := by
  simp only [engineBlock, List.map_cons, List.map_nil, zeroBytes_length, leBytes_length, capabilityBytes_length]

theorem engineBlock_length (s : State) (d : Directory) : (engineBlock s d).flatten.length = 290 := by
  rw [List.length_flatten, engineBlock_widths]
  rfl

/-- The places of the capability record's fields (11.2). -/
def capabilityFields : List (Nat × Nat) := [(0, 4), (4, 4), (8, 4), (12, 1), (13, 1), (14, 1), (15, 1), (16, 1), (17, 1)]

/-- The writes of the engine words, in their order. -/
def engineWrites (s : State) (d : Directory) : List (Nat × List Byte) :=
  (List.range 64).map (fun n => (d.engineWords + 4 * n, leBytes 4 0)) ++
    [(d.engineWords + 256, leBytes 8 0), (d.engineWords + 264, leBytes 4 s.store.quarantine.length)] ++
    capabilityFields.map (fun f => (d.engineWords + 272 + f.1, ((capabilityBytes d.partition).drop f.1).take f.2))

theorem writeEngineWords_eq (d : Directory) (s : State) : writeEngineWords d s =
    linkZero (linkZero (putAll (engineWrites s d) s) (d.engineWords + 268) 4) (d.engineWords + 290) 3806 := by
  have htallies : putAll ((List.range 64).map (fun n => (d.engineWords + 4 * n, leBytes 4 0))) s =
      (List.range 64).foldl (fun s n => (linkPut s (d.engineWords + 4 * n) (leBytes 4 0)).1) s := List.foldl_map
  have hcount := putAll_store ((List.range 64).map (fun n => (d.engineWords + 4 * n, leBytes 4 0)) ++ [(d.engineWords + 256, leBytes 8 0)]) s
  have hfields : ∀ u, putAll (capabilityFields.map (fun f => (d.engineWords + 272 + f.1, ((capabilityBytes d.partition).drop f.1).take f.2))) u =
      capabilityFields.foldl (fun s f => (linkPut s (d.engineWords + 272 + f.1) (((capabilityBytes d.partition).drop f.1).take f.2)).1) u :=
    fun u => List.foldl_map
  rw [putAll_append, htallies] at hcount
  rw [engineWrites, putAll_append, putAll_append, htallies, hfields, ← hcount]
  rfl

theorem engineWrites_parts (s : State) (d : Directory) : ∀ w ∈ engineWrites s d, PartOf d.engineWords (engineBlock s d).flatten w := by
  have hwidths := engineBlock_widths s d
  have hlength := engineBlock_length s d
  have hzeros := flatten_slice (k := 0) (i := 0) hwidths (Eq.refl (some (zeroBytes 256))) rfl
  have hcapability := flatten_slice (k := 4) (i := 272) hwidths (Eq.refl (some (capabilityBytes d.partition))) rfl
  rw [zeroBytes_length] at hzeros
  rw [capabilityBytes_length] at hcapability
  intro w hw
  simp only [engineWrites, List.mem_append, List.mem_map, List.mem_range, List.mem_cons, List.not_mem_nil, or_false] at hw
  rcases hw with (⟨n, hn, rfl⟩ | rfl | rfl) | ⟨f, hf, rfl⟩
  · refine ⟨4 * n, 4, ?_, by omega⟩
    have hslice := slice_slice (engineBlock s d).flatten (i := 0) (j := 4 * n) (n := 256) (m := 4) (by omega)
    rw [hzeros, Nat.zero_add] at hslice
    rw [← hslice, zeroBytes, List.drop_replicate, List.take_replicate, Nat.min_eq_left (by omega)]
    rfl
  · refine ⟨256, 8, ?_, by omega⟩
    have hslice := flatten_slice (k := 1) (i := 256) hwidths (Eq.refl (some (leBytes 8 0))) rfl
    rw [leBytes_length] at hslice
    rw [hslice]
  · refine ⟨264, 4, ?_, by omega⟩
    have hslice := flatten_slice (k := 2) (i := 264) hwidths (Eq.refl (some (leBytes 4 s.store.quarantine.length))) rfl
    rw [leBytes_length] at hslice
    rw [hslice]
  · have hfield : f.1 + f.2 ≤ 18 := by
      have hall : ∀ f ∈ capabilityFields, f.1 + f.2 ≤ 18 := by decide
      exact hall f hf
    refine ⟨272 + f.1, f.2, ?_, by omega⟩
    rw [← slice_slice _ (i := 272) hfield, hcapability, Nat.add_assoc]

/-- Every byte of the block's written part but the four behind the count words is covered. -/
theorem engineWrites_cover {s : State} {d : Directory} {i : Nat} (h : i < 268 ∨ (272 ≤ i ∧ i < 290)) :
    covers (engineWrites s d) (d.engineWords + i) := by
  by_cases htally : i < 256
  · refine ⟨(d.engineWords + 4 * (i / 4), leBytes 4 0), ?_, ?_, ?_⟩
    · exact List.mem_append_left _ (List.mem_append_left _ (List.mem_map.mpr ⟨i / 4, List.mem_range.mpr (by omega), rfl⟩))
    · dsimp only
      omega
    · rw [leBytes_length]
      dsimp only
      omega
  · by_cases hwritten : i < 264
    · refine ⟨(d.engineWords + 256, leBytes 8 0), by simp [engineWrites], ?_, ?_⟩
      · dsimp only
        omega
      · rw [leBytes_length]
        dsimp only
        omega
    · by_cases hcount : i < 268
      · refine ⟨(d.engineWords + 264, leBytes 4 s.store.quarantine.length), by simp [engineWrites], ?_, ?_⟩
        · dsimp only
          omega
        · rw [leBytes_length]
          dsimp only
          omega
      · have hall : ∀ j < 18, ∃ f ∈ capabilityFields, f.1 ≤ j ∧ j < f.1 + f.2 ∧ f.1 + f.2 ≤ 18 := by decide
        obtain ⟨f, hf, hle, hlt, hfits⟩ := hall (i - 272) (by omega)
        refine ⟨_, List.mem_append_right _ (List.mem_map.mpr ⟨f, hf, rfl⟩), ?_, ?_⟩
        · dsimp only
          omega
        · rw [List.length_take, List.length_drop, capabilityBytes_length]
          dsimp only
          omega

theorem engineWrites_uncovered {s : State} {d : Directory} {x : Nat} (h : x < d.engineWords ∨ d.engineWords + 290 ≤ x) :
    ¬ covers (engineWrites s d) x := by
  rintro ⟨w, hw, hle, hlt⟩
  obtain ⟨o, n, rfl, hon⟩ := engineWrites_parts s d w hw
  rw [engineBlock_length] at hon
  rw [List.length_take, List.length_drop, engineBlock_length] at hlt
  dsimp only at hle hlt
  omega

/-- Bytes of host memory that read as one part of a block. -/
theorem memBytes_slice {m : List Host.Cell} {base o : Nat} {b x : List Byte} (hslice : (b.drop o).take x.length = x) (hfits : o + x.length ≤ b.length)
    (h : ∀ (i : Nat) (hi : i < b.length), o ≤ i → i < o + x.length → Memory.read m (base + i) = b[i]) : memBytes m (base + o) x.length = x := by
  refine List.ext_getElem (by simp [memBytes]) fun i h1 h2 => ?_
  have hread := h (o + i) (by omega) (by omega) (by omega)
  have hbyte : x[i] = b[o + i] := by
    have hget : x[i]? = b[o + i]? := by
      rw [← hslice, List.getElem?_take_of_lt h2, List.getElem?_drop]
    rw [List.getElem?_eq_getElem h2, List.getElem?_eq_getElem (by omega)] at hget
    exact Option.some.inj hget
  rw [hbyte, ← hread]
  simp [memBytes, Nat.add_assoc]

/-- What the writing of the engine words leaves in host memory. -/
structure EngineWordsWritten (d : Directory) (s : State) (m : List Host.Cell) : Prop where
  words : memBytes m d.engineWords 268 = zeroBytes 264 ++ leBytes 4 s.store.quarantine.length
  capability : memBytes m (d.engineWords + 272) 18 = capabilityBytes d.partition
  zero : ∀ i, (268 ≤ i ∧ i < 272) ∨ (290 ≤ i ∧ i < 4096) → Memory.read m (d.engineWords + i) = 0
  others : ∀ a, a < d.engineWords ∨ d.engineWords + 4096 ≤ a → Memory.read m a = Memory.read s.link.mem a

theorem writeEngineWords_written {d : Directory} {s : State} (hw : s.link.writable d.engineWords 4096) :
    ∃ m, writeEngineWords d s = s.setMem m ∧ EngineWordsWritten d s m := by
  have hlength := engineBlock_length s d
  obtain ⟨m, hput, hcovered, hothers⟩ := putAll_parts (ws := engineWrites s d) (b := (engineBlock s d).flatten) (s := s)
    (fun i hi => hw i (by omega)) (engineWrites_parts s d)
  rw [writeEngineWords_eq, hput]
  refine ⟨(linkZero (linkZero (s.setMem m) (d.engineWords + 268) 4) (d.engineWords + 290) 3806).link.mem, rfl, ?_⟩
  have hread : ∀ x, Memory.read (linkZero (linkZero (s.setMem m) (d.engineWords + 268) 4) (d.engineWords + 290) 3806).link.mem x =
      if d.engineWords + 290 ≤ x ∧ x < d.engineWords + 4096 then 0
      else if d.engineWords + 268 ≤ x ∧ x < d.engineWords + 272 then 0 else Memory.read m x := by
    intro x
    have hfails : ∀ x, d.engineWords ≤ x → x < d.engineWords + 4096 → s.link.writeFailsAt x = false := fun x hle hlt => by
      have := hw (x - d.engineWords) (by omega)
      rwa [show d.engineWords + (x - d.engineWords) = x by omega] at this
    rw [linkZero_read, linkZero_read]
    by_cases hlast : d.engineWords + 290 ≤ x ∧ x < d.engineWords + 4096
    · rw [if_pos hlast, if_pos ⟨hlast.1, by omega, hfails x (by omega) hlast.2⟩]
    · rw [if_neg hlast, if_neg (by omega)]
      by_cases hgap : d.engineWords + 268 ≤ x ∧ x < d.engineWords + 272
      · rw [if_pos hgap, if_pos ⟨hgap.1, by omega, hfails x (by omega) (by omega)⟩]
      · rw [if_neg hgap, if_neg (by omega)]
        rfl
  have hblock : ∀ (i : Nat) (hi : i < (engineBlock s d).flatten.length), i < 268 ∨ 272 ≤ i →
      Memory.read (linkZero (linkZero (s.setMem m) (d.engineWords + 268) 4) (d.engineWords + 290) 3806).link.mem (d.engineWords + i) =
        (engineBlock s d).flatten[i] := fun i hi hplace => by
    rw [hread, if_neg (by omega), if_neg (by omega)]
    exact hcovered i hi (engineWrites_cover (by omega))
  have hwords : ((engineBlock s d).flatten.drop 0).take (zeroBytes 264 ++ leBytes 4 s.store.quarantine.length).length =
      zeroBytes 264 ++ leBytes 4 s.store.quarantine.length := by
    have hsplit : (engineBlock s d).flatten =
        (zeroBytes 264 ++ leBytes 4 s.store.quarantine.length) ++ (zeroBytes 4 ++ capabilityBytes d.partition) := by
      have height : leBytes 8 0 = zeroBytes 8 := rfl
      have hzero : zeroBytes 256 ++ leBytes 8 0 = zeroBytes 264 := by
        rw [height, zeroBytes, zeroBytes, List.replicate_append_replicate]
        rfl
      rw [← hzero]
      simp only [engineBlock, List.flatten_cons, List.flatten_nil, List.append_nil, List.append_assoc]
    rw [hsplit, List.drop_zero, List.take_left]
  have hlengths : (zeroBytes 264 ++ leBytes 4 s.store.quarantine.length).length = 268 := by
    rw [List.length_append, zeroBytes_length, leBytes_length]
  have hcapability := flatten_slice (k := 4) (i := 272) (engineBlock_widths s d) (Eq.refl (some (capabilityBytes d.partition))) rfl
  refine ⟨?_, ?_, fun i hi => ?_, fun a ha => ?_⟩
  · have hmem := memBytes_slice (base := d.engineWords) hwords (by omega) fun i hi _ hlt => hblock i hi (by omega)
    rwa [hlengths] at hmem
  · have hmem := memBytes_slice (base := d.engineWords) hcapability (by rw [capabilityBytes_length]; omega) fun i hi hle _ => hblock i hi (by omega)
    rwa [capabilityBytes_length] at hmem
  · rw [hread]
    by_cases hlast : 290 ≤ i
    · rw [if_pos (by omega)]
    · rw [if_neg (by omega), if_pos (by omega)]
  · rw [hread, if_neg (by omega), if_neg (by omega)]
    exact hothers a (engineWrites_uncovered (by omega))

/-! ### The lanes of a directory (R148) -/

/-- A table filled place by place. -/
theorem get_foldl_set {α : Type} [DecidableEq α] (d : α) (f : Nat → α) (m n : Nat) :
    Sparse.get d ((List.range m).foldl (fun t k => Sparse.set d t k (f k)) []) n = if n < m then f n else d := by
  induction m with
  | zero => rfl
  | succ m ih =>
    rw [List.range_succ, List.foldl_append, List.foldl_cons, List.foldl_nil]
    by_cases hn : n = m
    · rw [hn, Sparse.get_set_same, if_pos (Nat.lt_succ_self m)]
    · rw [Sparse.get_set_other _ _ _ hn, ih]
      by_cases hlt : n < m
      · rw [if_pos hlt, if_pos (by omega)]
      · rw [if_neg hlt, if_neg (by omega)]

theorem startLanes_get (es : List LaneEntry) (n : Nat) :
    Sparse.get {} (startLanes es) n = if n < es.length then (es[n]?.getD {}).startState else {} :=
  get_foldl_set {} (fun n => (es[n]?.getD {}).startState) es.length n

/-- Replacing the enable set changes the notices, and may send an MSI. -/
theorem replaceEnable_only (c : CauseSet) (s : State) : ∃ n, replaceEnable c s =
    (s.setLink { s.link with msiSent := n }).setNotices { s.notices with enable := c } := by
  unfold replaceEnable sendMsi
  dsimp only
  split
  · split
    · exact ⟨_, rfl⟩
    · exact ⟨s.link.msiSent, rfl⟩
  · exact ⟨s.link.msiSent, rfl⟩

/-- The state in which RUNNING is entered, before the looks: journal, lanes, memory, control block and enable set replaced (R184). -/
def State.entered (s : State) (d : Directory) (m : List Host.Cell) (n : List (BitVec 64 × Word32)) : State :=
  { s with
    journal := { next := some s.header.next }
    lanes := { lane := startLanes d.lanes, lastServed := some (d.laneCount - 1) }
    link := { s.link with mem := m, msiSent := n }
    control := { s.control with engine := .running, fault := .none, starting := none, directory := some d }
    notices := { s.notices with enable := CauseSet.ofBits d.enable } }

theorem completeStarting_entered {s : State} {d : Directory} (hengine : s.control.engine = .starting) (hreset : s.control.resetting = false)
    (hqueue : s.journal.queue = []) (hstarting : s.control.starting = some d) (hw : s.link.writable d.engineWords 4096) :
    ∃ m n, completeStarting s = lookAll (s.entered d m n) ∧ EngineWordsWritten d s m := by
  obtain ⟨m, hwords, hwritten⟩ := writeEngineWords_written (d := d)
    (s := (s.setJournal { next := some s.header.next }).setLanes { lane := startLanes d.lanes, lastServed := some (d.laneCount - 1) }) hw
  obtain ⟨n, henable⟩ := replaceEnable_only (CauseSet.ofBits d.enable)
    ((((s.setJournal { next := some s.header.next }).setLanes { lane := startLanes d.lanes, lastServed := some (d.laneCount - 1) }).setMem
      m).setControl { s.control with engine := .running, fault := .none, starting := none, directory := some d })
  refine ⟨m, n, ?_, hwritten.words, hwritten.capability, hwritten.zero, hwritten.others⟩
  rw [completeStarting, if_pos ⟨hengine, hqueue, hreset⟩, hstarting]
  dsimp only
  rw [enterRunning, hwords]
  exact congrArg lookAll henable

theorem entered_laneEntry {s : State} {d : Directory} {m : List Host.Cell} {k : List (BitVec 64 × Word32)} (hcount : d.laneCount = d.lanes.length)
    (n : Nat) : (s.entered d m k).laneEntry n = d.lanes[n]? := by
  have hentry : (s.entered d m k).laneEntry n = if n < d.laneCount then d.lanes[n]? else none := rfl
  rw [hentry]
  split
  · rfl
  · next hn => exact (List.getElem?_eq_none (by omega)).symm

/-- Settles O16: the engine words by their parts, the lanes by the looks at the end. -/
theorem startingCompletesIntoRunning : Obligations.StartingCompletesIntoRunning := by
  unfold Obligations.StartingCompletesIntoRunning
  intro e s₀ s d hs hengine hreset
  have hexec : exec (.startingComplete e) s₀ = .next (completeStarting s) := by
    rw [← hs]
    rfl
  refine ⟨fun hqueue => ?_, fun hqueue hstarting hcount hle hw => ?_⟩
  · rw [hexec, completeStarting, if_neg fun h => hqueue h.2.1]
  · obtain ⟨m, k, hentered, hwords, hcapability, hzero, hothers⟩ := completeStarting_entered hengine hreset hqueue hstarting hw
    have hlooked := lookAll_looked (s.entered d m k)
    have hentry := fun n => entered_laneEntry (s := s) (m := m) (k := k) hcount n
    have hstate : ∀ n, (s.entered d m k).laneState n = if n < d.lanes.length then (d.lanes[n]?.getD {}).startState else {} := startLanes_get d.lanes
    rw [hexec, hentered]
    generalize lookAll (s.entered d m k) = t at hlooked
    have hrest := hlooked.rest
    have hlink : t.link = { s.link with mem := m, msiSent := k } := (congrArg State.link hrest :)
    have hmem : t.link.mem = m := congrArg Link.mem hlink
    refine ⟨t, rfl, (congrArg State.control hrest :), (congrArg State.journal hrest :), fun n l hl => ?_, fun n hn => ?_, hlooked.served,
      by rw [hmem]; exact hwords, by rw [hmem]; exact hcapability, by rw [hmem]; exact hzero, by rw [hmem]; exact hothers,
      (congrArg State.notices hrest :), (congrArg State.clock hrest :), (congrArg State.tables hrest :), (congrArg State.store hrest :),
      (congrArg State.holds hrest :), (congrArg State.units hrest :), (congrArg State.locks hrest :), (congrArg State.pending hrest :)⟩
    · have hlt : n < d.lanes.length := (List.getElem?_eq_some_iff.mp hl).1
      have hstart : (s.entered d m k).laneState n = l.startState := by rw [hstate n, if_pos hlt, hl, Option.getD_some]
      have hslot : slotIsPosted t l l.startPosition = slotIsPosted (s.entered d m k) l l.startPosition := by
        rw [slotIsPosted, slotIsPosted, linkRead, linkRead, hlooked.link]
      by_cases hmode : l.startMode = 1
      · rw [hlooked.looked n l (by change n < d.laneCount; omega) ((hentry n).trans hl) rfl (by rw [hstart]; exact decide_eq_true hmode),
          State.lookedAt, hstart, hslot]
        simp [LaneEntry.startState, hmode]
      · have hclosed : ((s.entered d m k).laneState n).isOpen = false := by
          rw [hstart]
          exact decide_eq_false hmode
        rw [hlooked.others n (.inr (.inr (.inr hclosed))), hstart]
        simp [LaneEntry.startState, hmode]
    · have hge : ¬ n < d.lanes.length := not_lt.mpr (List.getElem?_eq_none_iff.mp hn)
      rw [hlooked.others n (.inr (.inl ((hentry n).trans hn))), hstate n, if_neg hge]

end Sys2Proof.Machine
end

section
/-! PROOFS. The commit sequence (spec/06, R123 to R125; spec/07, R136, R142; O54): the row writes, the rows that leave the quarantine list, the
trail entry, the chain operations, and what follows the store writes. -/

namespace Sys2Proof.Machine

/-! ### Rows that leave the quarantine list (R136) -/

/-- Bytes written are the bytes read. -/
theorem memBytes_memWrite {m : List Host.Cell} {a : Nat} {bs : List Byte} (h : a + bs.length ≤ Config.hostAddresses) :
    memBytes (memWrite m a bs) a bs.length = bs := by
  refine List.ext_getElem (by simp [memBytes]) fun i h1 h2 => ?_
  simp only [memBytes, List.getElem_map, List.getElem_range]
  exact memWrite_same bs m a i h2 h

/-- The rows a test names have left the quarantine list, the count word with them; hold row contents apart, nothing else has changed. -/
structure RowsLeft (f : Listed → Bool) (s t : State) : Prop where
  quarantine : t.store.quarantine = s.store.quarantine.filter (fun q => !f q)
  countWord : (∃ q ∈ s.store.quarantine, f q = true) → ∀ a, s.control.engineWords = some a →
    (∀ i, i < 4 → s.link.writeFailsAt (a + 264 + i) = false) → memBytes t.link.mem (a + 264) 4 = leBytes 4 t.store.quarantine.length
  memory : ∀ y, (∀ a, s.control.engineWords = some a → y < a + 264 ∨ a + 268 ≤ y) → Memory.read t.link.mem y = Memory.read s.link.mem y
  link : (∀ q ∈ s.store.quarantine, f q = false) → t.link = s.link
  store : { t.store with holds := s.store.holds, quarantine := s.store.quarantine } = s.store
  rest : { t with store := s.store, link := { t.link with mem := s.link.mem } } = s

section
variable {f g : Listed → Bool} {s t u : State}

theorem RowsLeft.control (h : RowsLeft f s t) : t.control = s.control := (congrArg State.control h.rest :)

theorem RowsLeft.writeFailsAt (h : RowsLeft f s t) : t.link.writeFailsAt = s.link.writeFailsAt :=
  (congrArg (fun v : State => v.link.writeFailsAt) h.rest :)

theorem RowsLeft.congr (h : RowsLeft f s t) (hfg : ∀ q, f q = g q) : RowsLeft g s t := by
  have hfun : f = g := funext hfg
  rwa [← hfun]

/-- A state with other hold row contents alone. -/
theorem RowsLeft.none (hstore : { t.store with holds := s.store.holds } = s.store) (hrest : { t with store := s.store } = s) :
    RowsLeft (fun _ => false) s t := by
  have hquarantine : t.store.quarantine = s.store.quarantine := (congrArg Store.quarantine hstore :)
  have hlink : t.link = s.link := (congrArg State.link hrest :)
  refine ⟨by simp [hquarantine], fun ⟨q, _, hq⟩ => absurd hq (by simp), fun y _ => by rw [hlink], fun _ => hlink, ?_, ?_⟩
  · rw [← hquarantine]
    exact hstore
  · have hmem : { t.link with mem := s.link.mem } = t.link := by rw [hlink]
    rw [hmem]
    exact hrest

/-- What has left one after the other. -/
theorem RowsLeft.trans (h : RowsLeft f s t) (h' : RowsLeft g t u) : RowsLeft (fun q => f q || g q) s u := by
  refine ⟨?_, fun ⟨q, hq, hleft⟩ a ha hw => ?_, fun y hy => ?_, fun hnone => ?_, ?_, ?_⟩
  · rw [h'.quarantine, h.quarantine, List.filter_filter]
    refine List.filter_congr fun q _ => ?_
    cases f q <;> cases g q <;> rfl
  · have ha' : t.control.engineWords = some a := by rw [h.control, ha]
    have hw' : ∀ i, i < 4 → t.link.writeFailsAt (a + 264 + i) = false := fun i hi => by rw [h.writeFailsAt]; exact hw i hi
    by_cases hg : ∃ q ∈ t.store.quarantine, g q = true
    · exact h'.countWord hg a ha' hw'
    · have hg : ∀ q ∈ t.store.quarantine, g q = false := by simpa using hg
      have hkept : u.store.quarantine = t.store.quarantine := by
        rw [h'.quarantine, List.filter_eq_self]
        exact fun q hq => by simp [hg q hq]
      have hf : f q = true := by
        by_contra hf
        have hin : q ∈ t.store.quarantine := by
          rw [h.quarantine]
          exact List.mem_filter.mpr ⟨hq, by simpa using hf⟩
        have hgq := hg q hin
        simp only [Bool.or_eq_true] at hleft
        rcases hleft with hleft | hleft
        · exact hf hleft
        · simp [hgq] at hleft
      rw [h'.link hg, hkept]
      exact h.countWord ⟨q, hq, hf⟩ a ha hw
  · rw [h'.memory y (by rw [h.control]; exact hy), h.memory y hy]
  · have hf : ∀ q ∈ s.store.quarantine, f q = false := fun q hq => (Bool.or_eq_false_iff.mp (hnone q hq)).1
    have hg : ∀ q ∈ t.store.quarantine, g q = false := fun q hq => by
      rw [h.quarantine] at hq
      exact (Bool.or_eq_false_iff.mp (hnone q (List.mem_filter.mp hq).1)).2
    rw [h'.link hg, h.link hf]
  · have hstore := h'.store
    calc { u.store with holds := s.store.holds, quarantine := s.store.quarantine }
        = { ({ u.store with holds := t.store.holds, quarantine := t.store.quarantine } : Store) with
            holds := s.store.holds, quarantine := s.store.quarantine } := rfl
      _ = { t.store with holds := s.store.holds, quarantine := s.store.quarantine } := by rw [hstore]
      _ = s.store := h.store
  · have hlink : { u.link with mem := t.link.mem } = t.link := (congrArg State.link h'.rest :)
    calc { u with store := s.store, link := { u.link with mem := s.link.mem } }
        = { ({ u with store := t.store, link := { u.link with mem := t.link.mem } } : State) with
            store := s.store, link := { ({ u.link with mem := t.link.mem } : Link) with mem := s.link.mem } } := rfl
      _ = { t with store := s.store, link := { t.link with mem := s.link.mem } } := by rw [h'.rest, hlink]
      _ = s := h.rest

end

/-- One row leaves. -/
theorem quarantineLeave_left (k : RowKind) (i : Nat) (s : State) :
    RowsLeft (fun q => decide (q.kind = k) && decide (q.index = i)) s (quarantineLeave k i s) := by
  obtain ⟨m, hleave, -, hmem⟩ := quarantineLeave_only k i s
  refine ⟨by rw [hleave]; rfl, fun ⟨q, hq, hleft⟩ a ha hw => ?_, by rw [hleave]; exact hmem, fun hnone => ?_, by rw [hleave]; rfl,
    by rw [hleave]; rfl⟩
  · have hlisted : s.isListed k i = true := List.any_eq_true.mpr ⟨q, hq, hleft⟩
    have hfits : a + 264 + 4 ≤ Config.hostAddresses := (writable_fits (l := s.link) (a := a + 264) (n := 4) hw).resolve_left (by decide)
    have hput := linkPut_done (s := s.setStore { s.store with
      quarantine := s.store.quarantine.filter (fun q => !(decide (q.kind = k) && decide (q.index = i))) })
      (bs := leBytes 4 (s.store.quarantine.filter (fun q => !(decide (q.kind = k) && decide (q.index = i)))).length) (a := a + 264)
      (fun j hj => hw j (by rwa [leBytes_length] at hj))
    have hcount : quarantineLeave k i s = _ := (if_pos hlisted).trans ((by simp only [writeQuarantineCount, State.setStore_control, ha]; rfl :
      writeQuarantineCount _ = _).trans (congrArg Prod.fst hput))
    rw [hcount]
    have hbytes := memBytes_memWrite (m := s.link.mem) (a := a + 264)
      (bs := leBytes 4 (s.store.quarantine.filter (fun q => !(decide (q.kind = k) && decide (q.index = i)))).length) (by rwa [leBytes_length])
    rw [leBytes_length] at hbytes
    exact hbytes
  · have hlisted : s.isListed k i = false := by
      rw [State.isListed, List.any_eq_false]
      exact fun q hq => by simp [hnone q hq]
    rw [quarantineLeave, if_neg (by simp [hlisted])]

/-- The rows a commit's plan names leave one by one. -/
theorem leaves_left (ls : List (RowKind × Nat)) (s : State) :
    RowsLeft (fun q => ls.contains (q.kind, q.index)) s (ls.foldl (fun s q => quarantineLeave q.1 q.2 s) s) := by
  induction ls generalizing s with
  | nil => exact RowsLeft.none rfl rfl
  | cons l ls ih =>
    refine ((quarantineLeave_left l.1 l.2 s).trans (ih _)).congr fun q => ?_
    rw [List.contains_cons]
    congr 1

theorem leaves_hold (ls : List (RowKind × Nat)) (s : State) (i : Nat) :
    (ls.foldl (fun s q => quarantineLeave q.1 q.2 s) s).hold i = s.hold i := by
  induction ls generalizing s with
  | nil => rfl
  | cons l ls ih =>
    obtain ⟨m, hleave, -⟩ := quarantineLeave_only l.1 l.2 s
    rw [List.foldl_cons, ih, hleave]
    rfl

/-! ### Hold row contents (R80 to R82) -/

/-- A hold operation's content write, in one row. -/
theorem writeHoldContent_hold (o : HoldOp) (s : State) (i : Nat) :
    (writeHoldContent o s).hold i = ((o.contentOf i).map fun h => { val := h, ecc := .clean }).getD (s.hold i) := by
  have hput : ∀ (j : Nat) (h : HoldRow),
      (s.putHold j h).hold i = ((if j = i then some h else none).map fun h => { val := h, ecc := .clean }).getD (s.hold i) := fun j h => by
    by_cases hj : j = i
    · subst hj
      rw [if_pos rfl]
      exact Sparse.get_set_same ..
    · rw [if_neg hj]
      exact Sparse.get_set_other _ _ _ (Ne.symm hj)
  cases o with
  | openRow j h => exact hput j h
  | renewRow j h => exact hput j h
  | freeRow j h unlist =>
    cases unlist with
    | false => exact hput j h
    | true =>
      obtain ⟨m, hleave, -⟩ := quarantineLeave_only .hold j (s.putHold j h)
      have hrow : (quarantineLeave .hold j (s.putHold j h)).hold i = (s.putHold j h).hold i := by
        rw [hleave]
        rfl
      exact hrow.trans (hput j h)
  | refile j => rfl
  | requeue j => rfl

theorem HoldOp.contentOf_row {o : HoldOp} {i : Nat} {h : HoldRow} (hc : o.contentOf i = some h) : o.row = i := by
  cases o with
  | openRow j r =>
    by_contra hne
    simp only [HoldOp.contentOf, if_neg (show ¬ j = i from hne), reduceCtorEq] at hc
  | renewRow j r =>
    by_contra hne
    simp only [HoldOp.contentOf, if_neg (show ¬ j = i from hne), reduceCtorEq] at hc
  | freeRow j r u =>
    by_contra hne
    simp only [HoldOp.contentOf, if_neg (show ¬ j = i from hne), reduceCtorEq] at hc
  | refile j => cases hc
  | requeue j => cases hc

/-- The contents after all of a commit's operations, no two of which are of one row. -/
theorem foldl_writeHoldContent_hold {os : List HoldOp} (hrows : (os.map HoldOp.row).Nodup) (s : State) (i : Nat) :
    (os.foldl (fun s o => writeHoldContent o s) s).hold i =
      ((os.findSome? (HoldOp.contentOf i)).map fun h => { val := h, ecc := .clean }).getD (s.hold i) := by
  induction os generalizing s with
  | nil => rfl
  | cons o os ih =>
    rw [List.map_cons, List.nodup_cons] at hrows
    rw [List.foldl_cons, ih hrows.2, List.findSome?_cons, writeHoldContent_hold]
    cases hc : o.contentOf i with
    | none => rfl
    | some h =>
      have hnone : os.findSome? (HoldOp.contentOf i) = none := by
        rw [List.findSome?_eq_none_iff]
        intro q hq
        by_contra hne
        obtain ⟨h', hq'⟩ := Option.ne_none_iff_exists'.mp hne
        exact hrows.1 (List.mem_map.mpr ⟨q, hq, (HoldOp.contentOf_row hq').trans (HoldOp.contentOf_row hc).symm⟩)
      rw [hnone]
      rfl

theorem writeHoldContent_left (o : HoldOp) (s : State) :
    RowsLeft (fun q => decide (q.kind = .hold) && o.unlists q.index) s (writeHoldContent o s) := by
  have hput : ∀ j h, RowsLeft (fun _ => false) s (s.putHold j h) := fun j h => RowsLeft.none rfl rfl
  cases o with
  | openRow j h => exact (hput j h).congr fun q => (Bool.and_false _).symm
  | renewRow j h => exact (hput j h).congr fun q => (Bool.and_false _).symm
  | freeRow j h unlist =>
    cases unlist with
    | false => exact (hput j h).congr fun q => (Bool.and_false _).symm
    | true =>
      refine ((hput j h).trans (quarantineLeave_left .hold j (s.putHold j h))).congr fun q => ?_
      simp only [HoldOp.unlists, Bool.false_or, Bool.true_and]
      by_cases hq : q.index = j
      · simp [hq]
      · simp [hq, Ne.symm hq]
  | refile j => exact (RowsLeft.none rfl rfl).congr fun q => (Bool.and_false _).symm
  | requeue j => exact (RowsLeft.none rfl rfl).congr fun q => (Bool.and_false _).symm

theorem foldl_writeHoldContent_left (os : List HoldOp) (s : State) :
    RowsLeft (fun q => decide (q.kind = .hold) && os.any (HoldOp.unlists q.index)) s (os.foldl (fun s o => writeHoldContent o s) s) := by
  induction os generalizing s with
  | nil => exact (RowsLeft.none rfl rfl).congr fun q => (Bool.and_false _).symm
  | cons o os ih =>
    refine ((writeHoldContent_left o s).trans (ih _)).congr fun q => ?_
    rw [List.any_cons, Bool.and_or_distrib_left]

/-! ### The row writes (R124) -/

/-- The till row that a commit writes. -/
def writeTillRow (x : Sealed) (k : Work) (s : State) : State :=
  match x.till, k.tillLock with | some t, some i => s.putTill i t | _, _ => s

/-- The card row that a commit writes. -/
def writeCardRow (x : Sealed) (k : Work) (s : State) : State :=
  match x.card, k.cardLock with | some c, some i => if x.writesCard then s.putCard i c else s | _, _ => s

/-- The header that a commit writes. -/
def writeHeader (x : Sealed) (s : State) : State :=
  match x.entries.getLast? with | none => s | some e => raiseHeader (nextMovement e.number) s

theorem writeRows_eq (x : Sealed) (k : Work) (s : State) : writeRows x k s =
    x.plan.leaves.foldl (fun s q => quarantineLeave q.1 q.2 s)
      (x.plan.holdOps.foldl (fun s o => writeHoldContent o s) (writeHeader x (writeCardRow x k (writeTillRow x k s)))) := rfl

section
variable (x : Sealed) (k : Work) (s : State)

theorem writeTillRow_only :
    { (writeTillRow x k s).store with tills := s.store.tills } = s.store ∧ { writeTillRow x k s with store := s.store } = s := by
  unfold writeTillRow
  split <;> exact ⟨rfl, rfl⟩

theorem writeCardRow_only :
    { (writeCardRow x k s).store with cards := s.store.cards } = s.store ∧ { writeCardRow x k s with store := s.store } = s := by
  unfold writeCardRow
  split
  · split <;> exact ⟨rfl, rfl⟩
  · exact ⟨rfl, rfl⟩

theorem putHeader_only (h : Header) :
    { (s.putHeader h).store with header := s.store.header } = s.store ∧ { s.putHeader h with store := s.store } = s := ⟨rfl, rfl⟩

theorem writeHeader_only :
    { (writeHeader x s).store with header := s.store.header } = s.store ∧ { writeHeader x s with store := s.store } = s := by
  unfold writeHeader raiseHeader
  split
  · exact ⟨rfl, rfl⟩
  · exact putHeader_only ..

variable {x k s}

theorem writeTillRow_same {i : Nat} {r : TillRow} (hi : k.tillLock = some i) (hr : x.till = some r) :
    (writeTillRow x k s).tillRow i = { val := r, ecc := .clean } := by
  simp only [writeTillRow, hi, hr]
  exact Sparse.get_set_same ..

theorem writeTillRow_other {j : Nat} (h : k.tillLock ≠ some j ∨ x.till = none) : (writeTillRow x k s).tillRow j = s.tillRow j := by
  unfold writeTillRow
  split
  · next t i ht hi =>
    have hne : j ≠ i := fun e => by
      rcases h with h | h
      · exact h (by rw [hi, e])
      · simp [ht] at h
    exact Sparse.get_set_other _ _ _ hne
  · rfl

theorem writeCardRow_same {i : Nat} (hi : k.cardLock = some i) (hw : x.writesCard = true) :
    (writeCardRow x k s).card i = { val := x.card.getD {}, ecc := .clean } := by
  cases hc : x.card with
  | none => simp [Sealed.writesCard, hc] at hw
  | some c =>
    simp only [writeCardRow, hi, hc, hw, if_true, Option.getD_some]
    exact Sparse.get_set_same ..

theorem writeCardRow_other {j : Nat} (h : k.cardLock ≠ some j ∨ x.writesCard = false) : (writeCardRow x k s).card j = s.card j := by
  unfold writeCardRow
  split
  · next c i _ hi =>
    split
    · next hw =>
      have hne : j ≠ i := fun e => by
        rcases h with h | h
        · exact h (by rw [hi, e])
        · simp [hw] at h
      exact Sparse.get_set_other _ _ _ hne
    · rfl
  · rfl

theorem writeHeader_some {y : JournalEntry} (h : x.entries.getLast? = some y) :
    (writeHeader x s).store.header = { header := { s.header with
      next := if movementLater (nextMovement y.number) s.header.next then s.header.next else nextMovement y.number } } := by
  simp only [writeHeader, h]
  rfl

theorem putHeader_header (s : State) (h : Header) : (s.putHeader h).header = h := rfl

theorem writeHeader_partition : (writeHeader x s).header.partition = s.header.partition := by
  unfold writeHeader raiseHeader
  split
  · rfl
  · rw [putHeader_header]

theorem writeHeader_none (h : x.entries = []) : writeHeader x s = s := by
  simp only [writeHeader, h, List.getLast?_nil]

end

/-- What the row writes of a commit leave of the state in which they begin (R124, R136). -/
structure RowsWritten (x : Sealed) (k : Work) (s t : State) : Prop where
  card : ∀ i, k.cardLock = some i → x.writesCard = true → t.card i = { val := x.card.getD {}, ecc := .clean }
  otherCards : ∀ j, (k.cardLock ≠ some j ∨ x.writesCard = false) → t.card j = s.card j
  till : ∀ i r, k.tillLock = some i → x.till = some r → t.tillRow i = { val := r, ecc := .clean }
  otherTills : ∀ j, (k.tillLock ≠ some j ∨ x.till = none) → t.tillRow j = s.tillRow j
  holdRows : (x.plan.holdOps.map HoldOp.row).Nodup → ∀ i,
    t.hold i = ((x.plan.holdOps.findSome? (HoldOp.contentOf i)).map fun h => { val := h, ecc := .clean }).getD (s.hold i)
  header : ∀ y, x.entries.getLast? = some y → t.store.header = { header := { s.header with
    next := if movementLater (nextMovement y.number) s.header.next then s.header.next else nextMovement y.number } }
  headerKept : x.entries = [] → t.store.header = s.store.header
  partition : t.header.partition = s.header.partition
  quarantine : t.store.quarantine = s.store.quarantine.filter (fun q => !x.plan.unlists q)
  countWord : (∃ q ∈ s.store.quarantine, x.plan.unlists q = true) → ∀ a, s.control.engineWords = some a →
    (∀ i, i < 4 → s.link.writeFailsAt (a + 264 + i) = false) → memBytes t.link.mem (a + 264) 4 = leBytes 4 t.store.quarantine.length
  memory : ∀ y, (∀ a, s.control.engineWords = some a → y < a + 264 ∨ a + 268 ≤ y) → Memory.read t.link.mem y = Memory.read s.link.mem y
  link : (∀ q ∈ s.store.quarantine, x.plan.unlists q = false) → t.link = s.link
  store : { t.store with
    cards := s.store.cards, tills := s.store.tills, holds := s.store.holds, header := s.store.header, quarantine := s.store.quarantine } = s.store
  rest : { t with store := s.store, link := { t.link with mem := s.link.mem } } = s

theorem writeRows_written (x : Sealed) (k : Work) (s : State) : RowsWritten x k s (writeRows x k s) := by
  obtain ⟨htillStore, htillRest⟩ := writeTillRow_only x k s
  have htill := fun {i r} => writeTillRow_same (x := x) (k := k) (s := s) (i := i) (r := r)
  have htillOther := fun {j} => writeTillRow_other (x := x) (k := k) (s := s) (j := j)
  rw [writeRows_eq]
  generalize writeTillRow x k s = a at htillStore htillRest htill htillOther
  obtain ⟨hcardStore, hcardRest⟩ := writeCardRow_only x k a
  have hcard := fun {i} => writeCardRow_same (x := x) (k := k) (s := a) (i := i)
  have hcardOther := fun {j} => writeCardRow_other (x := x) (k := k) (s := a) (j := j)
  generalize writeCardRow x k a = b at hcardStore hcardRest hcard hcardOther
  obtain ⟨hheaderStore, hheaderRest⟩ := writeHeader_only x b
  have hheader := fun {y} => writeHeader_some (x := x) (s := b) (y := y)
  have hheaderNone := writeHeader_none (x := x) (s := b)
  have hpartition := writeHeader_partition (x := x) (s := b)
  generalize writeHeader x b = c at hheaderStore hheaderRest hheader hheaderNone hpartition
  have hhold := fun hrows => foldl_writeHoldContent_hold (os := x.plan.holdOps) hrows c
  have hops := foldl_writeHoldContent_left x.plan.holdOps c
  generalize x.plan.holdOps.foldl (fun s o => writeHoldContent o s) c = d at hhold hops
  have hleave := leaves_left x.plan.leaves d
  have hleaveHold := fun i => leaves_hold x.plan.leaves d i
  generalize x.plan.leaves.foldl (fun s q => quarantineLeave q.1 q.2 s) d = t at hleave hleaveHold
  have hstore : { c.store with cards := s.store.cards, tills := s.store.tills, header := s.store.header } = s.store :=
    calc { c.store with cards := s.store.cards, tills := s.store.tills, header := s.store.header }
        = { b.store with cards := s.store.cards, tills := s.store.tills, header := s.store.header } :=
          congrArg (fun v : Store => { v with cards := s.store.cards, tills := s.store.tills, header := s.store.header }) hheaderStore
      _ = { a.store with cards := s.store.cards, tills := s.store.tills, header := s.store.header } :=
          congrArg (fun v : Store => { v with cards := s.store.cards, tills := s.store.tills, header := s.store.header }) hcardStore
      _ = s.store :=
          congrArg (fun v : Store => { v with cards := s.store.cards, tills := s.store.tills, header := s.store.header }) htillStore
  have hrest : { c with store := s.store } = s :=
    calc { c with store := s.store }
        = { b with store := s.store } := congrArg (fun v : State => { v with store := s.store }) hheaderRest
      _ = { a with store := s.store } := congrArg (fun v : State => { v with store := s.store }) hcardRest
      _ = s := congrArg (fun v : State => { v with store := s.store }) htillRest
  have hleft : RowsLeft x.plan.unlists c t := (hops.trans hleave).congr fun q => Bool.or_comm _ _
  have hquarantine : c.store.quarantine = s.store.quarantine := (congrArg Store.quarantine hstore :)
  have hcontrol : c.control = s.control := (congrArg State.control hrest :)
  have hlink : c.link = s.link := (congrArg State.link hrest :)
  have hheaderKept : t.store.header = c.store.header := (congrArg Store.header hleft.store :)
  have hcards : ∀ j, t.card j = b.card j := fun j => by
    have h1 : t.store.cards = c.store.cards := (congrArg Store.cards hleft.store :)
    have h2 : c.store.cards = b.store.cards := (congrArg Store.cards hheaderStore :)
    rw [State.card, State.card, h1, h2]
  have htills : ∀ j, t.tillRow j = a.tillRow j := fun j => by
    have h1 : t.store.tills = c.store.tills := (congrArg Store.tills hleft.store :)
    have h2 : c.store.tills = b.store.tills := (congrArg Store.tills hheaderStore :)
    have h3 : b.store.tills = a.store.tills := (congrArg Store.tills hcardStore :)
    rw [State.tillRow, State.tillRow, h1, h2, h3]
  have hbHeader : b.store.header = s.store.header :=
    (congrArg Store.header hcardStore :).trans (congrArg Store.header htillStore :)
  refine ⟨fun i hi hw => ?_, fun j hj => ?_, fun i r hi hr => ?_, fun j hj => ?_, fun hrows i => ?_, fun y hy => ?_, fun hnone => ?_, ?_, ?_,
    fun hex e he hw => ?_, fun y hy => ?_, fun hnone => ?_, ?_, ?_⟩
  · rw [hcards, hcard hi hw]
  · have h1 : a.store.cards = s.store.cards := (congrArg Store.cards htillStore :)
    rw [hcards, hcardOther hj, State.card, State.card, h1]
  · rw [htills, htill hi hr]
  · rw [htills, htillOther hj]
  · have h1 : c.hold i = s.hold i := (congrArg (fun v : Store => Sparse.get scrubbedHold v.holds i) hstore :)
    rw [hleaveHold, hhold hrows, h1]
  · have h1 : b.header = s.header := congrArg StoredHeader.header hbHeader
    rw [hheaderKept, hheader hy, h1]
  · rw [hheaderKept, hheaderNone hnone, hbHeader]
  · have h1 : t.header = c.header := congrArg StoredHeader.header hheaderKept
    have h2 : b.header = s.header := congrArg StoredHeader.header hbHeader
    rw [h1, hpartition, h2]
  · rw [hleft.quarantine, hquarantine]
  · rw [← hquarantine] at hex
    rw [← hcontrol] at he
    rw [← hlink] at hw
    exact hleft.countWord hex e he hw
  · rw [← hlink]
    exact hleft.memory y (by rw [hcontrol]; exact hy)
  · rw [← hlink]
    exact hleft.link (by rw [hquarantine]; exact hnone)
  · refine Eq.trans (congrArg (fun v : Store => { v with
      cards := s.store.cards, tills := s.store.tills, header := s.store.header, holds := s.store.holds, quarantine := s.store.quarantine })
      hleft.store :) ?_
    exact congrArg (fun v : Store => { v with holds := s.store.holds, quarantine := s.store.quarantine }) hstore
  · have hlinks : { t.link with mem := s.link.mem } = s.link := by
      have h1 : { t.link with mem := c.link.mem } = c.link := (congrArg State.link hleft.rest :)
      rwa [hlink] at h1
    have h1 : { t with store := s.store, link := s.link } = { c with store := s.store, link := s.link } :=
      (congrArg (fun v : State => { v with store := s.store, link := s.link }) hleft.rest :)
    rw [hlinks, h1]
    exact congrArg (fun v : State => { v with link := s.link }) hrest

end Sys2Proof.Machine
end

section
/-! PROOFS. The commit of a request and of an expiry job (spec/06, R123 to R125; spec/04, R88; O54). -/

namespace Sys2Proof.Machine

/-! ### The release of a card lock goes by units and locks alone (R119) -/

section
variable {s t : State}

/-- States with the same units and locks release a lock alike, and nothing else moves. -/
theorem releaseLock_of_same (hunits : t.units = s.units) (hlocks : t.locks = s.locks) (l : LockName) :
    releaseLock l t = { t with units := (releaseLock l s).units, locks := (releaseLock l s).locks } := by
  have hbank : ∀ l, t.bank l = s.bank l := fun l => by cases l <;> simp only [State.bank, hlocks]
  have hheld : ∀ l, t.lockHeld l = s.lockHeld l := fun l => by rw [State.lockHeld, State.lockHeld, hbank]
  have hset : ∀ l b, t.setBank l b = { t with units := (s.setBank l b).units, locks := (s.setBank l b).locks } := fun l b => by
    cases l <;> simp only [State.setBank, State.setLocks, hunits, hlocks]
  have hhand : ∀ x rest row, handOver x rest row t = { t with units := (handOver x rest row s).units, locks := (handOver x rest row s).locks } :=
    fun x rest row => by
      simp only [handOver, hbank, hset, State.setUnits]
  unfold releaseLock
  rw [hunits]
  simp only [hheld, hbank]
  split
  · exact hhand _ _ _
  · split
    · exact hhand _ _ _
    · exact hset _ _

theorem releaseCard_of_same (hunits : t.units = s.units) (hlocks : t.locks = s.locks) (c : Option Nat) :
    releaseCard c t = { t with units := (releaseCard c s).units, locks := (releaseCard c s).locks } := by
  cases c with
  | none =>
    change t = { t with units := s.units, locks := s.locks }
    rw [← hunits, ← hlocks]
  | some i => exact releaseLock_of_same hunits hlocks (.card i)

/-- What the release of a card lock leaves of the units and of the till locks. -/
structure CardReleased (s t : State) : Prop where
  units : { t.units with waiting := s.units.waiting, ready := s.units.ready } = s.units
  till : t.locks.till = s.locks.till

theorem handOver_card_released {x : Waiter} {rest : List Waiter} {j row : Nat} (hx : x.lock = .card j) :
    CardReleased s (handOver x rest row s) := by
  rw [handOver_card hx]
  exact ⟨rfl, rfl⟩

theorem releaseCard_released (c : Option Nat) (s : State) : CardReleased s (releaseCard c s) := by
  cases c with
  | none => exact ⟨rfl, rfl⟩
  | some i =>
    change CardReleased s (releaseLock (.card i) s)
    unfold releaseLock
    split
    · next htake => exact handOver_card_released (of_decide_eq_true (takeWaiter_admits htake))
    · split
      · next htake =>
        have hkind := (Bool.and_eq_true_iff.mp (takeWaiter_admits htake)).1
        obtain ⟨j, hj⟩ := (LockName.sameKind_iff (lock := LockName.card) (.inr rfl)).mp hkind
        exact handOver_card_released hj
      · exact ⟨rfl, rfl⟩

end

/-! ### The commit point's action and the trail entry -/

/-- The action of the commit point leaves locks, units and notices (R124). -/
theorem look_units (n : Nat) (s : State) : (look n s).units = s.units := by
  unfold look
  split
  · rfl
  · dsimp only
    split <;> rfl

theorem commitAction_units (p : Plan) (s : State) : (commitAction p s).1.units = s.units := by
  unfold commitAction
  split
  · rfl
  · split <;> rfl
  · split <;> rfl
  · split
    · unfold setLaneMode
      split
      · exact look_units ..
      · rfl
    · rfl
  · dsimp only
    split
    · exact (congrArg State.units (followStep_followed _ _).only :)
    · rfl

/-! ### The stores of a commit -/

/-- A commit up to its chain operations: the numbers taken, the trail entry and the rows written. -/
def beforeChains (k : Work) (x : Sealed) (s : State) : State :=
  writeRows x k (writeTrail x k (s.setJournal { s.journal with next := s.journal.next.map (fun n => movementAfter n x.entries.length) }))

theorem commitNow_eq (w : Nat) (k : Work) (p : Plan) (s : State) {a : State} {q : Plan} (h : commitAction p s = (a, q)) :
    commitNow w k p s =
      (let x := sealPlan k q s.clock.reading (a.journal.next.getD 1)
      if (moveHolds q.holdOps (beforeChains k x a)).2 = true then
        afterStoreWrites w a.store.trailPlace k x (dropHandsOf k.place (moveHolds q.holdOps (beforeChains k x a)).1)
      else linkLost (moveHolds q.holdOps (beforeChains k x a)).1) := by
  unfold commitNow
  rw [h]
  rfl

/-- What a commit's stores leave, before its chain operations, of the state `s` after the commit point's action (R123, R124). -/
structure BeforeChains (k : Work) (x : Sealed) (s b : State) : Prop where
  rows : ∃ v, RowsWritten x k v b ∧ v.store.cards = s.store.cards ∧ v.store.tills = s.store.tills ∧ v.store.holds = s.store.holds ∧
    v.store.header = s.store.header ∧ v.store.quarantine = s.store.quarantine ∧ v.link = s.link ∧ v.control = s.control
  trail : b.trailCell s.store.trailPlace = { entry := x.trailEntry k s.store.trailSerial, ecc := .clean }
  otherTrail : ∀ n, n ≠ s.store.trailPlace → b.trailCell n = s.trailCell n ∧ b.trailStatusAt n = s.trailStatusAt n
  onChip : b.trailStatusAt s.store.trailPlace =
    { journal := if x.entries.isEmpty then .none else .pending, answer := if k.isRequest then .pending else .none }
  trailNext : b.store.trailSerial = s.store.trailSerial + 1 ∧ b.store.trailPlace = (s.store.trailPlace + 1) % 32
  journal : b.journal = { s.journal with next := s.journal.next.map (fun n => movementAfter n x.entries.length) }
  holds : b.holds = s.holds
  links : b.store.links = s.store.links
  store : { b.store with
    cards := s.store.cards, tills := s.store.tills, holds := s.store.holds, header := s.store.header
    trail := s.store.trail, trailStatus := s.store.trailStatus, trailSerial := s.store.trailSerial, trailPlace := s.store.trailPlace
    quarantine := s.store.quarantine } = s.store
  rest : { b with store := s.store, journal := s.journal, link := { b.link with mem := s.link.mem } } = s

theorem beforeChains_made (k : Work) (x : Sealed) (s : State) : BeforeChains k x s (beforeChains k x s) := by
  have hrows := writeRows_written x k
    (writeTrail x k (s.setJournal { s.journal with next := s.journal.next.map (fun n => movementAfter n x.entries.length) }))
  unfold beforeChains
  generalize hv : writeTrail x k (s.setJournal { s.journal with next := s.journal.next.map (fun n => movementAfter n x.entries.length) }) = v at hrows
  have htrail : v.store = { s.store with
      trail := Sparse.set {} s.store.trail s.store.trailPlace { entry := x.trailEntry k s.store.trailSerial }
      trailStatus := Sparse.set {} s.store.trailStatus s.store.trailPlace
        { journal := if x.entries.isEmpty then .none else .pending, answer := if k.isRequest then .pending else .none }
      trailSerial := s.store.trailSerial + 1
      trailPlace := (s.store.trailPlace + 1) % 32 } := by
    rw [← hv]
    rfl
  have hjournal : v.journal = { s.journal with next := s.journal.next.map (fun n => movementAfter n x.entries.length) } := by
    rw [← hv]
    rfl
  have hrest : { v with store := s.store, journal := s.journal } = s := by
    rw [← hv]
    rfl
  clear hv
  generalize writeRows x k v = b at hrows ⊢
  have hstore : { b.store with
      cards := v.store.cards, tills := v.store.tills, holds := v.store.holds, header := v.store.header, quarantine := v.store.quarantine } =
      v.store := hrows.store
  have htrailSame : b.store.trail = v.store.trail := (congrArg Store.trail hstore :)
  have hstatusSame : b.store.trailStatus = v.store.trailStatus := (congrArg Store.trailStatus hstore :)
  have hserial : b.store.trailSerial = v.store.trailSerial := (congrArg Store.trailSerial hstore :)
  have hplace : b.store.trailPlace = v.store.trailPlace := (congrArg Store.trailPlace hstore :)
  have hlinks : b.store.links = v.store.links := (congrArg Store.links hstore :)
  have hlink : v.link = s.link := (congrArg State.link hrest :)
  have hcontrol : v.control = s.control := (congrArg State.control hrest :)
  have hholds : b.holds = v.holds := (congrArg State.holds hrows.rest :)
  refine ⟨⟨v, hrows, ?_, ?_, ?_, ?_, ?_, hlink, hcontrol⟩, ?_, fun n hn => ⟨?_, ?_⟩, ?_, ⟨?_, ?_⟩, ?_, ?_, ?_, ?_, ?_⟩
  · rw [htrail]
  · rw [htrail]
  · rw [htrail]
  · rw [htrail]
  · rw [htrail]
  · rw [State.trailCell, htrailSame, htrail]
    exact Sparse.get_set_same ..
  · rw [State.trailCell, htrailSame, htrail]
    exact Sparse.get_set_other _ _ _ hn
  · rw [State.trailStatusAt, hstatusSame, htrail]
    exact Sparse.get_set_other _ _ _ hn
  · rw [State.trailStatusAt, hstatusSame, htrail]
    exact Sparse.get_set_same ..
  · rw [hserial, htrail]
  · rw [hplace, htrail]
  · have h1 : b.journal = v.journal := (congrArg State.journal hrows.rest :)
    rw [h1, hjournal]
  · rw [hholds]
    exact (congrArg State.holds hrest :)
  · rw [hlinks, htrail]
  · have h1 := congrArg (fun st : Store => { st with
      cards := s.store.cards, tills := s.store.tills, holds := s.store.holds, header := s.store.header
      trail := s.store.trail, trailStatus := s.store.trailStatus, trailSerial := s.store.trailSerial, trailPlace := s.store.trailPlace
      quarantine := s.store.quarantine }) hstore
    refine Eq.trans h1 ?_
    rw [htrail]
  · have h1 : { b with store := s.store, journal := s.journal, link := { b.link with mem := v.link.mem } } = { v with store := s.store, journal := s.journal } :=
      (congrArg (fun u : State => { u with store := s.store, journal := s.journal }) hrows.rest :)
    rw [← hlink]
    exact h1.trans hrest

/-- The state of a commit once its chain operations are made and its work's entries are out of the hand list. -/
structure StoresMade (k : Work) (x : Sealed) (m s u : State) : Prop where
  before : ∃ b, BeforeChains k x s b ∧ ChainsOnly b u
  holds : u.holds = { m.holds with hand := m.holds.hand.filter (fun h => decide (h.place ≠ k.place)) }
  links : u.store.links = m.store.links

theorem dropHandsOf_holds (place : Nat) (s : State) :
    (dropHandsOf place s).holds = { s.holds with hand := s.holds.hand.filter (fun h => decide (h.place ≠ place)) } := by
  have hfilter : s.holds.hand.filter (fun h => !decide (h.place = place)) = s.holds.hand.filter (fun h => decide (h.place ≠ place)) :=
    List.filter_congr fun h _ => (decide_not (p := h.place = place)).symm
  rw [← hfilter]
  rfl

theorem dropHands_only (place : Nat) (s : State) : ChainsOnly s (dropHandsOf place s) := rfl

/-- The chain operations come to what they come to of the state after the commit point's action alone. -/
theorem moveHolds_made {k : Work} {x : Sealed} {m s : State} (hrows : (x.plan.holdOps.map HoldOp.row).Nodup)
    (hmoves : moveHolds x.plan.holdOps s = (m, true)) :
    (moveHolds x.plan.holdOps (beforeChains k x s)).2 = true ∧
      StoresMade k x m s (dropHandsOf k.place (moveHolds x.plan.holdOps (beforeChains k x s)).1) := by
  have hmade := beforeChains_made k x s
  generalize beforeChains k x s = b at hmade
  obtain ⟨v, hwritten, hcards, htills, hholds, hheader, hquarantine, hlink, hcontrol⟩ := hmade.rows
  have hpartition : b.header.partition = s.header.partition := hwritten.partition.trans (by rw [State.header, hheader]; rfl)
  have hsame : SameChains b s := ⟨hmade.holds, hmade.links, by rw [State.holdRows, State.holdRows, hpartition]⟩
  have hcontent : ∀ o ∈ x.plan.holdOps, o.sameContent b s := fun o ho => by
    cases o with
    | refile i =>
      have hnone : x.plan.holdOps.findSome? (HoldOp.contentOf i) = none := by
        rw [List.findSome?_eq_none_iff]
        intro q hq
        by_contra hne
        obtain ⟨h, hc⟩ := Option.ne_none_iff_exists'.mp hne
        have hrow : q.row = (HoldOp.refile i).row := HoldOp.contentOf_row hc
        rw [List.inj_on_of_nodup_map hrows hq ho hrow] at hc
        cases hc
      have hhold := hwritten.holdRows hrows i
      rw [hnone] at hhold
      exact hhold.trans (by rw [Option.map_none, Option.getD_none, State.hold, State.hold, hholds])
    | openRow j h => trivial
    | renewRow j h => trivial
    | freeRow j h u => trivial
    | requeue j => trivial
  obtain ⟨honly, htrue, halike⟩ := moveHolds_chain x.plan.holdOps b s hsame hcontent
  rw [hmoves] at htrue halike
  refine ⟨htrue, ⟨b, hmade, honly.trans ((dropHands_only k.place _))⟩, ?_, ?_⟩
  · have h1 := halike.holds
    rw [dropHandsOf_holds, h1]
  · exact halike.links

end Sys2Proof.Machine
end

section
/-! PROOFS. What follows a commit's store writes (spec/06, R123 steps 3 to 7; O54). -/

namespace Sys2Proof.Machine

/-- A state that differs from `u` in journal, locks, units and notices alone, the entries queued, keeps what the stores of a commit left. -/
theorem StoresMade.committed {k : Work} {x : Sealed} {m s u t : State} (h : StoresMade k x m s u)
    (hrows : (x.plan.holdOps.map HoldOp.row).Nodup)
    (hrest : { t with journal := u.journal, locks := u.locks, units := u.units, notices := u.notices } = u)
    (hnext : t.journal.next = u.journal.next) (hqueue : t.journal.queue = u.journal.queue ++ queued s.store.trailPlace x.entries) :
    StoresCommitted k x m s t := by
  obtain ⟨b, hb, honly⟩ := h.before
  obtain ⟨v, hwritten, hcards, htills, hholds, hheader, hquarantine, hlink, hcontrol⟩ := hb.rows
  have hstore : t.store = u.store := (congrArg State.store hrest :)
  have hustore : u.store = { b.store with links := u.store.links } := (congrArg State.store honly :)
  have htstore : t.store = { b.store with links := t.store.links } := by rw [hstore]; exact hustore
  have htlink : t.link = b.link := (congrArg State.link hrest :).trans (congrArg State.link honly :)
  have hujournal : u.journal = b.journal := (congrArg State.journal honly :)
  have hcard : ∀ j, t.card j = b.card j := fun j => (congrArg (fun st : Store => Sparse.get scrubbedCard st.cards j) htstore :)
  have htill : ∀ j, t.tillRow j = b.tillRow j := fun j => (congrArg (fun st : Store => Sparse.get scrubbedTill st.tills j) htstore :)
  have hhold : ∀ j, t.hold j = b.hold j := fun j => (congrArg (fun st : Store => Sparse.get scrubbedHold st.holds j) htstore :)
  have hcell : ∀ j, t.trailCell j = b.trailCell j := fun j => by
    have h1 : t.store.trail = b.store.trail := (congrArg Store.trail htstore :)
    rw [State.trailCell, State.trailCell, h1]
  have hstatus : ∀ j, t.trailStatusAt j = b.trailStatusAt j := fun j => by
    have h1 : t.store.trailStatus = b.store.trailStatus := (congrArg Store.trailStatus htstore :)
    rw [State.trailStatusAt, State.trailStatusAt, h1]
  have htheader : t.store.header = b.store.header := (congrArg Store.header htstore :)
  have htquarantine : t.store.quarantine = b.store.quarantine := (congrArg Store.quarantine htstore :)
  have hvheader : v.header = s.header := congrArg StoredHeader.header hheader
  refine ⟨fun i hi hw => ?_, fun j hj => ?_, fun i r hi hr => ?_, fun j hj => ?_, fun i => ?_, ?_, ?_, ?_, fun hex a ha hw => ?_, fun y hy => ?_,
    fun hnone => ?_, fun y hy => ?_, fun hnone => ?_, ?_, fun n hn => ?_, ?_, ⟨?_, ?_⟩, ?_, ?_, ?_, ?_⟩
  · rw [hcard, hwritten.card i hi hw]
  · rw [hcard, hwritten.otherCards j hj, State.card, State.card, hcards]
  · rw [htill, hwritten.till i r hi hr]
  · rw [htill, hwritten.otherTills j hj, State.tillRow, State.tillRow, htills]
  · have hv : v.hold i = s.hold i := by rw [State.hold, State.hold, hholds]
    rw [hhold, hwritten.holdRows hrows i, hv]
    cases x.plan.holdOps.findSome? (HoldOp.contentOf i) <;> rfl
  · rw [hstore, h.links]
  · exact (congrArg State.holds hrest :).trans h.holds
  · rw [htquarantine, hwritten.quarantine, hquarantine]
  · rw [← hquarantine] at hex
    rw [← hcontrol] at ha
    rw [← hlink] at hw
    rw [htlink, htquarantine]
    exact hwritten.countWord hex a ha hw
  · rw [htlink, ← hlink]
    exact hwritten.memory y (by rw [hcontrol]; exact hy)
  · rw [htlink, ← hlink]
    exact hwritten.link (by rw [hquarantine]; exact hnone)
  · rw [htheader, hwritten.header y hy, hvheader]
  · rw [htheader, hwritten.headerKept hnone, hheader]
  · rw [hcell, hb.trail]
  · rw [hcell, hstatus]
    exact hb.otherTrail n hn
  · rw [hstatus, hb.onChip]
    simp only [List.isEmpty_iff]
  · exact (congrArg Store.trailSerial htstore :).trans hb.trailNext.1
  · exact (congrArg Store.trailPlace htstore :).trans hb.trailNext.2
  · refine Eq.trans (congrArg (fun st : Store => { st with
      cards := s.store.cards, tills := s.store.tills, holds := s.store.holds, links := s.store.links, header := s.store.header
      trail := s.store.trail, trailStatus := s.store.trailStatus, trailSerial := s.store.trailSerial, trailPlace := s.store.trailPlace
      quarantine := s.store.quarantine }) htstore) ?_
    exact congrArg (fun st : Store => { st with links := s.store.links }) hb.store
  · rw [hnext, hujournal, hb.journal]
  · rw [hqueue, hujournal, hb.journal]
  · have h1 : { t with store := s.store, holds := s.holds, journal := s.journal, locks := s.locks, units := s.units, notices := s.notices } =
        { u with store := s.store, holds := s.holds, journal := s.journal, locks := s.locks, units := s.units, notices := s.notices } :=
      (congrArg (fun w : State => { w with
        store := s.store, holds := s.holds, journal := s.journal, locks := s.locks, units := s.units, notices := s.notices }) hrest :)
    have h2 : { u with store := s.store, holds := s.holds, journal := s.journal, locks := s.locks, units := s.units, notices := s.notices } =
        { b with store := s.store, holds := s.holds, journal := s.journal, locks := s.locks, units := s.units, notices := s.notices } :=
      (congrArg (fun w : State => { w with
        store := s.store, holds := s.holds, journal := s.journal, locks := s.locks, units := s.units, notices := s.notices }) honly :)
    rw [htlink]
    exact (congrArg (fun w : State => { w with link := { b.link with mem := s.link.mem } }) (h1.trans h2)).trans
      (congrArg (fun w : State => { w with holds := s.holds, locks := s.locks, units := s.units, notices := s.notices }) hb.rest)

/-- What a commit leaves of the state before its chain operations besides store and chains. -/
theorem StoresMade.rest {k : Work} {x : Sealed} {m s u : State} (h : StoresMade k x m s u) :
    u.units = s.units ∧ u.locks = s.locks ∧ u.notices = s.notices ∧
      u.journal = { s.journal with next := s.journal.next.map (fun n => movementAfter n x.entries.length) } := by
  obtain ⟨b, hb, honly⟩ := h.before
  exact ⟨(congrArg State.units honly :).trans (congrArg State.units hb.rest :), (congrArg State.locks honly :).trans (congrArg State.locks hb.rest :),
    (congrArg State.notices honly :).trans (congrArg State.notices hb.rest :), (congrArg State.journal honly :).trans hb.journal⟩

/-- The journal entries handed over and the card lock released, of a state that has the units and locks of another (R123 steps 3 and 4). -/
theorem handJournal_released {place : Nat} {es : List JournalEntry} {c : Option Nat} {s u : State} (hunits : u.units = s.units)
    (hlocks : u.locks = s.locks) :
    releaseCard c (handJournal place es u) = { u with
      journal := { u.journal with queue := u.journal.queue ++ queued place es }
      units := (releaseCard c s).units, locks := (releaseCard c s).locks } :=
  releaseCard_of_same (t := handJournal place es u) hunits hlocks c

/-- Room given back while no BALANCE waits for it. -/
theorem returnRoom_unwaited {n : Nat} {s : State} (h : s.units.roomWaiters = []) :
    returnRoom n s = s.setJournal { s.journal with reserved := s.journal.reserved - n } :=
  grantBalances_none (s := s.setJournal { s.journal with reserved := s.journal.reserved - n }) (.inl h)

/-- The TILL cause of a commit (R102). -/
theorem tillCause_iff (r q : TillRow) :
    tillCause r q = true ↔ (r.standing = .good ∧ q.standing = .watched) ∨ (r.barred = false ∧ q.barred = true) := by
  simp [tillCause]

theorem handAnswer_request {w place : Nat} {k : Work} {x : Sealed} {lane slot : Nat} {e : LaneEntry} {h : List Byte}
    (htask : k.task = .request lane slot e h) (s : State) :
    ∃ a : HandedAnswer, handAnswer w place k x s = s.setNotices { s.notices with answers := s.notices.answers ++ [a] } ∧ a.half = x.half ∧
      (∃ h, k.task = .request a.lane a.slot a.entry h) ∧ a.worker = some w ∧ a.trail = some place ∧
      (a.tillCause = true ↔ k.till ≠ none ∧ ∃ r q, k.tillRead = some r ∧ x.till = some q ∧
        ((r.standing = .good ∧ q.standing = .watched) ∨ (r.barred = false ∧ q.barred = true))) := by
  unfold handAnswer
  rw [htask]
  refine ⟨_, rfl, rfl, ⟨h, rfl⟩, rfl, rfl, ?_⟩
  cases hr : k.tillRead with
  | none => simp
  | some r =>
    cases hq : x.till with
    | none => simp
    | some q =>
      simp only [Bool.and_eq_true, tillCause_iff, Option.isSome_iff_ne_none]
      exact and_congr_right fun _ =>
        ⟨fun hcause => ⟨r, q, rfl, rfl, hcause⟩, fun ⟨_, _, hr', hq', hcause⟩ => by cases hr'; cases hq'; exact hcause⟩

section
variable {w : Nat} {k : Work} {x : Sealed} {m s u : State}

theorem afterStoreWrites_request (h : StoresMade k x m s u) (hrows : (x.plan.holdOps.map HoldOp.row).Nodup) (hreq : k.isRequest = true) :
    Committed w k x m s (afterStoreWrites w s.store.trailPlace k x u) := by
  obtain ⟨hunits, hlocks, hnotices, hjournal⟩ := h.rest
  have hreleased := releaseCard_released k.cardLock s
  cases htask : k.task with
  | expiry a b c => simp [Work.isRequest, htask] at hreq
  | request lane slot e hs =>
    unfold afterStoreWrites
    rw [handJournal_released hunits hlocks]
    simp only [hreq, if_true]
    generalize hc : ({ u with
      journal := { u.journal with queue := u.journal.queue ++ queued s.store.trailPlace x.entries }
      units := (releaseCard k.cardLock s).units, locks := (releaseCard k.cardLock s).locks } : State) = c
    generalize hk : ({ k with room := k.room - x.entries.length, cardLock := none, phase := .answering } : Work) = k'
    obtain ⟨a, hhand, hhalf, hfrom, hworker, htrail, hcause⟩ := handAnswer_request (w := w) (place := s.store.trailPlace) (x := x) htask
      (c.setWorker w (some k'))
    rw [hhand]
    have hcunits : c.units = (releaseCard k.cardLock s).units := by rw [← hc]
    have hplaces : c.units.places = s.units.places := by
      rw [hcunits]
      exact (congrArg Units.places hreleased.units :)
    have hroom : c.units.roomWaiters = s.units.roomWaiters := by
      rw [hcunits]
      exact (congrArg Units.roomWaiters hreleased.units :)
    have hworkers : c.units.workers = s.units.workers := by
      rw [hcunits]
      exact (congrArg Units.workers hreleased.units :)
    have hcnotices : c.notices = s.notices := by
      rw [← hc]
      exact hnotices
    have hcjournal : c.journal = { u.journal with queue := u.journal.queue ++ queued s.store.trailPlace x.entries } := by rw [← hc]
    refine ⟨h.committed hrows ?_ ?_ ?_, ?_, ⟨?_, ?_, ?_, ?_⟩, ⟨a, ?_, hhalf, hfrom, hworker, htrail, hcause⟩, ?_, fun v hv => ?_, hplaces, hroom⟩
    · rw [← hc]
      rfl
    · change c.journal.next = _
      rw [hcjournal]
    · change c.journal.queue = _
      rw [hcjournal]
    · change { c.journal with next := s.journal.next, queue := s.journal.queue } = s.journal
      rw [hcjournal, hjournal]
    · change c.locks = _
      rw [← hc]
    · change c.units.waiting = _
      rw [hcunits]
    · change c.units.ready = _
      rw [hcunits]
    · change c.locks.till = _
      rw [← hc]
      exact hreleased.till
    · change { c.notices with answers := c.notices.answers ++ [a] } = _
      rw [hcnotices]
    · rw [hk]
      exact State.worker_setWorker_same c w (some k')
    · refine (State.worker_setWorker_other c (some k') hv).trans ?_
      rw [State.worker, State.worker, hworkers]

theorem afterStoreWrites_job (h : StoresMade k x m s u) (hrows : (x.plan.holdOps.map HoldOp.row).Nodup) (hreq : k.isRequest = false)
    (htill : k.tillLock = none) (hwaiters : s.units.roomWaiters = []) :
    JobCommitted w k x m s (afterStoreWrites w s.store.trailPlace k x u) := by
  obtain ⟨hunits, hlocks, hnotices, hjournal⟩ := h.rest
  have hreleased := releaseCard_released k.cardLock s
  unfold afterStoreWrites
  rw [handJournal_released hunits hlocks]
  simp only [hreq, Bool.false_eq_true, if_false, finishWork, htill, releaseTill]
  generalize hc : ({ u with
    journal := { u.journal with queue := u.journal.queue ++ queued s.store.trailPlace x.entries }
    units := (releaseCard k.cardLock s).units, locks := (releaseCard k.cardLock s).locks } : State) = c
  have hcunits : c.units = (releaseCard k.cardLock s).units := by rw [← hc]
  have hplaces : c.units.places = s.units.places := by
    rw [hcunits]
    exact (congrArg Units.places hreleased.units :)
  have hroom : c.units.roomWaiters = [] := by
    rw [hcunits]
    exact (congrArg Units.roomWaiters hreleased.units :).trans hwaiters
  have hworkers : c.units.workers = s.units.workers := by
    rw [hcunits]
    exact (congrArg Units.workers hreleased.units :)
  have hcjournal : c.journal = { u.journal with queue := u.journal.queue ++ queued s.store.trailPlace x.entries } := by rw [← hc]
  rw [returnRoom_unwaited (s := returnPlace k.place (c.setWorker w none)) hroom]
  refine ⟨h.committed hrows ?_ ?_ ?_, ?_, ⟨?_, ?_, ?_, ?_⟩, ?_, ?_, fun v hv => ?_, ?_, hroom⟩
  · rw [← hc]
    rfl
  · change c.journal.next = _
    rw [hcjournal]
  · change c.journal.queue = _
    rw [hcjournal]
  · change { c.journal with next := s.journal.next, queue := s.journal.queue, reserved := c.journal.reserved - (k.room - x.entries.length) } = _
    rw [hcjournal, hjournal]
  · change c.locks = _
    rw [← hc]
  · change c.units.waiting = _
    rw [hcunits]
  · change c.units.ready = _
    rw [hcunits]
  · change c.locks.till = _
    rw [← hc]
    exact hreleased.till
  · change c.notices = _
    rw [← hc]
    exact hnotices
  · exact State.worker_setWorker_same c w none
  · refine (State.worker_setWorker_other c none hv).trans ?_
    rw [State.worker, State.worker, hworkers]
  · change c.units.places.filter (fun q => !decide (q = k.place)) = _
    rw [hplaces]
    exact List.filter_congr fun q _ => (decide_not (p := q = k.place)).symm

end

/-- Settles O54: the stores up to the chain operations are those of `RowsWritten` and the trail entry, the chain operations come to what they come to
alone, and the release, handover and end of the work follow. -/
theorem commitWritesItsRows : Obligations.CommitWritesItsRows := by
  unfold Obligations.CommitWritesItsRows
  intro w k p s m
  have hunits := commitAction_units p s
  have hcommit := commitNow_eq w k p s (a := (commitAction p s).1) (q := (commitAction p s).2) rfl
  generalize commitAction p s = a at hunits hcommit
  obtain ⟨a, q⟩ := a
  dsimp only at hunits hcommit ⊢
  generalize hx : sealPlan k q s.clock.reading (a.journal.next.getD 1) = x at hcommit ⊢
  have hplan : x.plan = q := by
    rw [← hx]
    rfl
  intro hrows hmoves
  rw [← hplan] at hrows hmoves hcommit
  obtain ⟨htrue, hmade⟩ := moveHolds_made hrows (k := k) hmoves
  rw [if_pos htrue] at hcommit
  rw [hcommit]
  exact ⟨afterStoreWrites_request hmade hrows, fun hreq htill hwaiters => afterStoreWrites_job hmade hrows hreq htill (by rw [hunits]; exact hwaiters)⟩

end Sys2Proof.Machine
end

section
/-! PROOFS. Journal appends (spec/09, R164, R169, R172; O60). -/

namespace Sys2Proof.Machine

/-! ### What an entry and a link write come to in memory -/

theorem Reading.bytes_length (r : Reading) : r.bytes.length = 5 := by
  simp [Reading.bytes]

/-- An entry has the 64 bytes of its place (11.5). -/
theorem JournalEntry.bytes_length (e : JournalEntry) : e.bytes.length = 64 := by
  have hwords : ∀ ws : List Nat, (ws.flatMap (leBytes 4)).length = 4 * ws.length := fun ws => by
    induction ws with
    | nil => rfl
    | cons v ws ih =>
      rw [List.flatMap_cons, List.length_append, leBytes_length, ih, List.length_cons]
      omega
  have hpad : (padTo 24 ((e.words.take 6).flatMap (leBytes 4))).length = 24 :=
    padTo_length (by
      rw [hwords, List.length_take]
      omega)
  simp only [JournalEntry.bytes, List.length_append, leBytes_length, optBytes_length, zeroBytes_length, Reading.bytes_length, hpad]

/-- Bytes read where memory has not changed. -/
theorem memBytes_congr {m m' : List Host.Cell} {a n : Nat} (h : ∀ x, a ≤ x → x < a + n → Memory.read m' x = Memory.read m x) :
    memBytes m' a n = memBytes m a n :=
  List.map_congr_left fun i hi => h (a + i) (by omega) (by have := List.mem_range.mp hi; omega)

/-- A block whose every byte can be written is written whole. -/
theorem linkBlock_whole {s : State} {a : Nat} {bs : List Byte} (h : s.link.writable a bs.length) :
    linkBlock s a bs = (s.setMem (memWrite s.link.mem a bs), true) := by
  rw [linkBlock_writable h, writablePrefix_whole h]

/-- A block write that fails changes memory in the block's own range alone. -/
theorem linkBlock_failed {s : State} {a : Nat} {bs : List Byte} (h : ¬ s.link.writable a bs.length) :
    ∃ m, linkBlock s a bs = (s.setMem m, false) ∧
      ∀ x, (x < a ∨ a + bs.length ≤ x) → Memory.read m x = Memory.read s.link.mem x := by
  have hlt := writablePrefix_length_lt h
  exact ⟨_, linkBlock_short h, fun x hx => memWrite_other _ _ (by omega)⟩

theorem State.setMem_writable (s : State) (m : List Host.Cell) (a n : Nat) : (s.setMem m).link.writable a n ↔ s.link.writable a n := Iff.rfl

theorem State.setMem_dir (s : State) (m : List Host.Cell) : (s.setMem m).dir = s.dir := rfl

/-! ### The trail status of an append -/

section
variable {s : State}

theorem setJournalStatus_at (j : Nat) (v : TrailStatus) (s : State) :
    ((setJournalStatus j v s).trailStatusAt j).journal = v ∧ ((setJournalStatus j v s).trailCell j).entry.journalStatus = v := by
  rw [trailStatusAt_setJournalStatus, trailCell_setJournalStatus, if_pos rfl, if_pos rfl]
  exact ⟨rfl, rfl⟩

/-- What the counting of an append leaves, once its entry stands in the ring (R169, R172, R142). -/
structure AppendCounted (q : Queued) (rest : List Queued) (s t : State) : Prop where
  journal : t.journal = { s.journal with
    written := s.journal.written + 1, reserved := s.journal.reserved - 1, queue := rest, retry := false
    fillTested := s.journal.written + 1 - s.journal.cached }
  mem : t.link.mem = memWrite s.link.mem (s.dir.engineWords + 256) (leBytes 8 (s.journal.written + 1))
  notices : t.notices = { s.notices with raised :=
    if s.journal.fillTested < s.dir.mark ∧ s.dir.mark ≤ s.journal.written + 1 - s.journal.cached then s.notices.raised.add .journal
    else s.notices.raised }
  settled : ∀ j, q.last = some j → (t.trailStatusAt j).journal = .done ∧ (t.trailCell j).entry.journalStatus = .done
  unsettled : q.last = none → t.store = s.store
  store : { t.store with trail := s.store.trail, trailStatus := s.store.trailStatus } = s.store
  rest : { t with journal := s.journal, link := s.link, notices := s.notices, store := s.store } = s

/-- The counts of an append and its count word, before the mark's test. -/
def State.counted (s : State) (rest : List Queued) : State :=
  (s.setJournal { s.journal with
    written := s.journal.written + 1, reserved := s.journal.reserved - 1, queue := rest, retry := false }).setMem
      (memWrite s.link.mem (s.dir.engineWords + 256) (leBytes 8 (s.journal.written + 1)))

/-- The trail status of the commit whose last entry is appended (R142). -/
def settleAppend (q : Queued) (s : State) : State := match q.last with | none => s | some j => setJournalStatus j .done s

theorem countAppend_eq {q : Queued} {rest : List Queued} (h : s.link.writable (s.dir.engineWords + 256) 8) :
    countAppend q rest s = settleAppend q (testMark (s.counted rest)) := by
  have hput : linkPut (s.setJournal { s.journal with
      written := s.journal.written + 1, reserved := s.journal.reserved - 1, queue := rest, retry := false })
      (s.dir.engineWords + 256) (leBytes 8 (s.journal.written + 1)) = (s.counted rest, true) :=
    linkPut_done (fun i hi => h i (by rwa [leBytes_length] at hi))
  change settleAppend q (testMark (linkPut _ (s.dir.engineWords + 256) (leBytes 8 (s.journal.written + 1))).1) = _
  rw [hput]

theorem countAppend_counted {q : Queued} {rest : List Queued} (h : s.link.writable (s.dir.engineWords + 256) 8) :
    AppendCounted q rest s (countAppend q rest s) := by
  rw [countAppend_eq h]
  have htested := testMark_tested (s.counted rest)
  generalize testMark (s.counted rest) = v at htested ⊢
  have hmem : v.link.mem = memWrite s.link.mem (s.dir.engineWords + 256) (leBytes 8 (s.journal.written + 1)) := (congrArg Link.mem htested.link :)
  have hstore : v.store = s.store := (congrArg State.store htested.rest :)
  have hrest : { v with journal := s.journal, link := s.link, notices := s.notices } = s :=
    (congrArg (fun w : State => { w with journal := s.journal, link := s.link, notices := s.notices }) htested.rest :)
  unfold settleAppend
  split
  · next hlast =>
    refine ⟨htested.journal, hmem, htested.notices, fun j hj => (by simp [hlast] at hj), fun _ => hstore, by rw [hstore], ?_⟩
    exact (congrArg (fun w : State => { w with store := s.store }) hrest :)
  · next j hlast =>
    refine ⟨htested.journal, hmem, htested.notices, fun i hi => ?_, fun hnone => (by simp [hlast] at hnone), ?_, ?_⟩
    · obtain rfl : j = i := Option.some.inj (hlast.symm.trans hi)
      exact setJournalStatus_at ..
    · exact (congrArg (fun st : Store => { st with trail := s.store.trail, trailStatus := s.store.trailStatus }) hstore :)
    · exact (congrArg (fun w : State => { w with store := s.store }) hrest :)

end

/-! ### The append -/

theorem appendHead_written {q : Queued} {rest : List Queued} {s u : State} (hqueue : s.journal.queue = q :: rest)
    (h : linkBlock s (s.dir.journalPlace s.journal.written) q.entry.bytes = (u, true)) : appendHead s = countAppend q rest u := by
  simp only [appendHead, hqueue, h]

theorem appendHead_failed {q : Queued} {rest : List Queued} {s u : State} (hqueue : s.journal.queue = q :: rest)
    (h : linkBlock s (s.dir.journalPlace s.journal.written) q.entry.bytes = (u, false)) :
    appendHead s = u.setJournal { u.journal with retry := true } := by
  simp only [appendHead, hqueue, h]

/-- An append or a retry runs the head of the queue where the part has passed STARTING and the retry mark is its own, and else does nothing. -/
theorem exec_append {mk : Outside → Instr} {again : Bool} {e : Outside} {s₀ s : State}
    (hmk : (mk, again) ∈ [(Instr.journalAppend, false), (Instr.journalWriteRetry, true)]) (hs : s₀.outside e = s) :
    exec (mk e) s₀ = .next (if s.control.directory.isSome ∧ s.journal.retry = again then appendHead s else s) := by
  subst hs
  simp only [List.mem_cons, Prod.mk.injEq, List.not_mem_nil, or_false] at hmk
  rcases hmk with ⟨rfl, rfl⟩ | ⟨rfl, rfl⟩ <;> rfl

/-- Settles O60: the block, the count word and the mark in turn, each from its own lemma. -/
theorem journalAppendsInOrder : Obligations.JournalAppendsInOrder := by
  unfold Obligations.JournalAppendsInOrder
  intro mk again e s₀ s hmk hs
  rw [exec_append hmk hs]
  refine ⟨fun hidle => ?_, fun d q rest hd hretry hqueue => ?_⟩
  · split
    · next h =>
      obtain ⟨hdirectory, hretry⟩ := h
      rcases hidle with hnone | hne | hempty
      · simp [hnone] at hdirectory
      · exact absurd hretry hne
      · simp only [appendHead, hempty]
    · rfl
  · rw [if_pos ⟨by rw [hd]; rfl, hretry⟩]
    have hdir : s.dir = d := by rw [State.dir, hd, Option.getD_some]
    have hlen := q.entry.bytes_length
    refine ⟨fun hplace hword hapart => ?_, fun hplace => ?_⟩
    · have hfits := (writable_fits (l := s.link) (a := d.journalPlace s.journal.written) (n := 64) hplace).resolve_left (by decide)
      have hwordFits := (writable_fits (l := s.link) (a := d.engineWords + 256) (n := 8) hword).resolve_left (by decide)
      have hblock := linkBlock_whole (s := s) (a := s.dir.journalPlace s.journal.written) (bs := q.entry.bytes) (by rw [hlen, hdir]; exact hplace)
      rw [hdir] at hblock
      rw [appendHead_written hqueue (by rw [hdir]; exact hblock)]
      have hentry := memBytes_memWrite (m := s.link.mem) (a := d.journalPlace s.journal.written) (bs := q.entry.bytes) (by rw [hlen]; exact hfits)
      have hkept := fun x => memWrite_other (c := x) (a := d.journalPlace s.journal.written) q.entry.bytes s.link.mem
      rw [hlen] at hentry hkept
      generalize memWrite s.link.mem (d.journalPlace s.journal.written) q.entry.bytes = m at hentry hkept ⊢
      have hcounted := countAppend_counted (q := q) (rest := rest) (s := s.setMem m) (by
        rw [State.setMem_writable, State.setMem_dir, hdir]
        exact hword)
      have hmem := hcounted.mem
      have hnotices := hcounted.notices
      rw [State.setMem_dir, hdir] at hmem hnotices
      have hcount := memBytes_memWrite (m := m) (a := d.engineWords + 256) (bs := leBytes 8 (s.journal.written + 1))
        (by rw [leBytes_length]; exact hwordFits)
      have hcountKept := fun x => memWrite_other (c := x) (a := d.engineWords + 256) (leBytes 8 (s.journal.written + 1)) m
      rw [leBytes_length] at hcount hcountKept
      generalize countAppend q rest (s.setMem m) = t at hcounted hmem hnotices
      refine ⟨t, rfl, hcounted.journal, ?_, ?_, fun x hplaceOut hwordOut => ?_, hnotices, hcounted.settled, hcounted.unsettled, hcounted.store,
        (congrArg State.units hcounted.rest :), (congrArg State.locks hcounted.rest :), (congrArg State.lanes hcounted.rest :),
        (congrArg State.holds hcounted.rest :), (congrArg State.clock hcounted.rest :), (congrArg State.tables hcounted.rest :),
        (congrArg State.control hcounted.rest :), (congrArg State.pending hcounted.rest :)⟩
      · rw [hmem, ← hentry]
        exact memBytes_congr fun x h1 h2 => hcountKept x (by omega)
      · rw [hmem]
        exact hcount
      · rw [hmem]
        exact (hcountKept x hwordOut).trans (hkept x hplaceOut)
    · obtain ⟨m, hblock, hkept⟩ := linkBlock_failed (s := s) (a := d.journalPlace s.journal.written) (bs := q.entry.bytes)
        (by rw [hlen]; exact hplace)
      rw [appendHead_failed hqueue (by rw [hdir]; exact hblock)]
      exact ⟨_, rfl, rfl, rfl, fun x hx => hkept x (by rw [hlen]; exact hx)⟩

end Sys2Proof.Machine
end

section
/-! PROOFS. Answer writes (spec/08, R156, R159 to R162; spec/06, R123 steps 6 and 7; O59). -/

namespace Sys2Proof.Machine

/-! ### The answer half as it is written (R156, R174) -/

section
variable {bs v : List Byte} {i k m : Nat}

theorem patch_getElem? (h : i + v.length ≤ bs.length) (j : Nat) :
    (patch bs i v)[j]? = if i ≤ j ∧ j < i + v.length then v[j - i]? else bs[j]? := by
  have htake : (bs.take i).length = i := by
    rw [List.length_take]
    omega
  rw [patch, List.append_assoc, List.getElem?_append, htake]
  by_cases hlow : j < i
  · rw [if_pos hlow, if_neg (by omega), List.getElem?_take_of_lt hlow]
  · rw [if_neg hlow, List.getElem?_append]
    by_cases hin : j - i < v.length
    · rw [if_pos hin, if_pos (by omega)]
    · rw [if_neg hin, if_neg (by omega), List.getElem?_drop]
      congr 1
      omega

theorem patch_length (h : i + v.length ≤ bs.length) : (patch bs i v).length = bs.length := by
  simp only [patch, List.length_append, List.length_take, List.length_drop]
  omega

theorem patch_slice_same (h : i + v.length ≤ bs.length) : ((patch bs i v).drop i).take v.length = v := by
  refine List.ext_getElem? fun j => ?_
  rw [List.getElem?_take]
  split
  · rw [List.getElem?_drop, patch_getElem? h, if_pos (by omega)]
    congr 1
    omega
  · next hj => rw [List.getElem?_eq_none (by omega)]

theorem patch_slice_other (h : i + v.length ≤ bs.length) (hapart : k + m ≤ i ∨ i + v.length ≤ k) :
    ((patch bs i v).drop k).take m = (bs.drop k).take m := by
  refine List.ext_getElem? fun j => ?_
  rw [List.getElem?_take, List.getElem?_take]
  split
  · rw [List.getElem?_drop, patch_getElem? h, if_neg (by omega), List.getElem?_drop]
  · rfl

end

/-- The half with its stamp. -/
def stampedHalf (embed : BitVec 8) (now : Reading) (half : List Byte) : List Byte :=
  if stampChosen embed then patch half 32 (padTo 8 now.bytes) else half

theorem padTo_reading (r : Reading) : padTo 8 r.bytes = leBytes 2 r.day ++ leBytes 2 r.minute ++ leBytes 1 r.second ++ zeroBytes 3 := by
  rw [padTo, r.bytes_length]
  rfl

theorem padTo_reading_length (r : Reading) : (padTo 8 r.bytes).length = 8 := padTo_length (by rw [r.bytes_length]; decide)

section
variable {embed : BitVec 8} {now : Reading} {half : List Byte} (h : half.length = 64)

include h

theorem stampedHalf_length : (stampedHalf embed now half).length = 64 := by
  unfold stampedHalf
  split
  · rw [patch_length (by rw [padTo_reading_length]; omega), h]
  · exact h

theorem stampedHalf_flags : fieldAt (stampedHalf embed now half) 2 2 = fieldAt half 2 2 := by
  unfold stampedHalf
  split
  · rw [fieldAt, patch_slice_other (by rw [padTo_reading_length]; omega) (.inl (by decide)), fieldAt]
  · rfl

theorem stampedHalf_stamp (hchosen : embed.getLsbD 0 = true) : ((stampedHalf embed now half).drop 32).take 8 = padTo 8 now.bytes := by
  have hslice := patch_slice_same (bs := half) (i := 32) (v := padTo 8 now.bytes) (by rw [padTo_reading_length]; omega)
  rw [padTo_reading_length] at hslice
  rw [stampedHalf, if_pos (by exact hchosen)]
  exact hslice

theorem sealHalf_length (late : Bool) : (sealHalf embed now late half).length = 64 := by
  change (if late = true then patch (stampedHalf embed now half) 2 (leBytes 2 _) else stampedHalf embed now half).length = 64
  split
  · rw [patch_length (by rw [leBytes_length, stampedHalf_length h]; decide), stampedHalf_length h]
  · exact stampedHalf_length h

theorem sealHalf_stamp (late : Bool) (hchosen : embed.getLsbD 0 = true) :
    ((sealHalf embed now late half).drop 32).take 8 = leBytes 2 now.day ++ leBytes 2 now.minute ++ leBytes 1 now.second ++ zeroBytes 3 := by
  rw [← padTo_reading, ← stampedHalf_stamp (now := now) h hchosen]
  change ((if late = true then patch (stampedHalf embed now half) 2 (leBytes 2 _) else stampedHalf embed now half).drop 32).take 8 = _
  split
  · exact patch_slice_other (by rw [leBytes_length, stampedHalf_length h]; decide) (.inr (by rw [leBytes_length]; decide))
  · rfl

theorem sealHalf_late : fieldAt (sealHalf embed now true half) 2 2 = fieldAt half 2 2 ||| 0x20 := by
  have hlt : fieldAt half 2 2 ||| 0x20 < 256 ^ 2 := Nat.or_lt_two_pow (n := 16) (fieldAt_lt half 2 2) (by decide)
  have hslice := patch_slice_same (bs := stampedHalf embed now half) (i := 2) (v := leBytes 2 (fieldAt (stampedHalf embed now half) 2 2 ||| 0x20))
    (by rw [leBytes_length, stampedHalf_length h]; decide)
  rw [leBytes_length, stampedHalf_flags h] at hslice
  change fieldAt (patch (stampedHalf embed now half) 2 (leBytes 2 (fieldAt (stampedHalf embed now half) 2 2 ||| 0x20))) 2 2 = _
  rw [stampedHalf_flags h, fieldAt, hslice, leNat_leBytes hlt]

omit h in
theorem sealHalf_plain (hchosen : embed.getLsbD 0 = false) : sealHalf embed now false half = half := by
  change stampedHalf embed now half = half
  rw [stampedHalf, stampChosen, hchosen, if_neg Bool.false_ne_true]

end

/-! ### Which answer is written (R159) -/

section
variable {n : Nat} {a : HandedAnswer} {pre rest : List HandedAnswer}

theorem oldestAnswer_none (h : ∀ b ∈ pre, b.lane ≠ n) : oldestAnswer n pre = none := by
  induction pre with
  | nil => rfl
  | cons b pre ih =>
    rw [oldestAnswer, if_neg (h b List.mem_cons_self), ih fun c hc => h c (List.mem_cons_of_mem _ hc)]
    rfl

theorem oldestAnswer_first (hpre : ∀ b ∈ pre, b.lane ≠ n) (ha : a.lane = n) : oldestAnswer n (pre ++ a :: rest) = some (a, pre ++ rest) := by
  induction pre with
  | nil => exact if_pos ha
  | cons b pre ih =>
    rw [List.cons_append, oldestAnswer, if_neg (hpre b List.mem_cons_self), ih fun c hc => hpre c (List.mem_cons_of_mem _ hc)]
    rfl

end

/-! ### The end of the answered work (R123 steps 6 and 7) -/

section
variable {a : HandedAnswer} {s t u : State}

/-- How units, locks and room stand once the work of an answer has ended, with no one waiting. -/
def WorkEnded (a : HandedAnswer) (s t : State) : Prop :=
  (a.worker = none → t.units = s.units ∧ t.locks = s.locks ∧ t.journal = s.journal) ∧
  (∀ w k, a.worker = some w → s.worker w = some k →
    t.worker w = none ∧ (∀ v, v ≠ w → t.worker v = s.worker v) ∧ k.place ∉ t.units.places ∧
    t.journal = { s.journal with reserved := s.journal.reserved - k.room } ∧ t.locks.card = s.locks.card ∧
    (∀ i, k.tillLock = some i → t.lockHeld (.till i) = false ∧ ∀ j, j ≠ i → t.lockHeld (.till j) = s.lockHeld (.till j)))

theorem WorkEnded.of_same (h : WorkEnded a u t) (hunits : u.units = s.units) (hlocks : u.locks = s.locks) (hjournal : u.journal = s.journal) :
    WorkEnded a s t := by
  have hworker : ∀ v, u.worker v = s.worker v := fun v => by rw [State.worker, State.worker, hunits]
  have hheld : ∀ j, u.lockHeld (.till j) = s.lockHeld (.till j) := fun j => by
    rw [State.lockHeld, State.lockHeld, State.bank, State.bank, hlocks]
  unfold WorkEnded at *
  simp only [hunits, hlocks, hjournal, hworker, hheld] at h
  exact h

/-- With no waiter the release of a till lock clears its entry. -/
theorem releaseTill_cleared (h : s.units.waiting = []) (l : Option Nat) :
    ∃ b, releaseTill l s = { s with locks := { s.locks with till := b } } ∧
      ∀ i, l = some i → (releaseTill l s).lockHeld (.till i) = false ∧ ∀ j, j ≠ i → (releaseTill l s).lockHeld (.till j) = s.lockHeld (.till j) := by
  cases l with
  | none => exact ⟨s.locks.till, rfl, fun i hi => by cases hi⟩
  | some i =>
    have hcleared := releaseLock_cleared (l := .till i) (s := s) (by simp [h]) (by simp [h])
    rw [filter_not_row] at hcleared
    refine ⟨_, hcleared, fun j hj => ?_⟩
    obtain rfl : i = j := Option.some.inj hj
    have hbank : (releaseTill (some i) s).bank (.till i) = s.locks.till.filter (fun l => decide (l.row ≠ i)) := congrArg (fun u : State => u.locks.till) hcleared
    refine ⟨?_, fun j hj => ?_⟩
    · rw [State.lockHeld, hbank, List.any_eq_false]
      intro l hl
      have hrow := of_decide_eq_true (List.mem_filter.mp hl).2
      exact ne_true_of_eq_false (decide_eq_false hrow)
    · have hbank' : (releaseTill (some i) s).bank (.till j) = s.locks.till.filter (fun l => decide (l.row ≠ i)) := hbank
      rw [State.lockHeld, hbank', State.lockHeld, List.any_filter]
      refine congrArg s.locks.till.any (funext fun l => ?_)
      by_cases hl : l.row = j
      · simp [LockName.row, hl, hj]
      · simp [LockName.row, hl]

theorem finishWork_ended {w : Nat} {k : Work} (hwaiting : s.units.waiting = []) (hroom : s.units.roomWaiters = []) :
    { finishWork w k s with units := s.units, locks := s.locks, journal := s.journal } = s ∧
    (finishWork w k s).worker w = none ∧ (∀ v, v ≠ w → (finishWork w k s).worker v = s.worker v) ∧ k.place ∉ (finishWork w k s).units.places ∧
    (finishWork w k s).journal = { s.journal with reserved := s.journal.reserved - k.room } ∧ (finishWork w k s).locks.card = s.locks.card ∧
    (∀ i, k.tillLock = some i → (finishWork w k s).lockHeld (.till i) = false ∧
      ∀ j, j ≠ i → (finishWork w k s).lockHeld (.till j) = s.lockHeld (.till j)) := by
  obtain ⟨b, hreleased, hheld⟩ := releaseTill_cleared hwaiting k.tillLock
  unfold finishWork
  rw [hreleased] at hheld ⊢
  rw [returnRoom_unwaited (s := returnPlace k.place (({ s with locks := { s.locks with till := b } } : State).setWorker w none)) hroom]
  refine ⟨rfl, State.worker_setWorker_same _ w none, fun v hv => State.worker_setWorker_other _ none hv, fun hin => ?_, rfl, rfl, hheld⟩
  have hin : k.place ∈ s.units.places.filter (fun q => !decide (q = k.place)) := hin
  simp at hin

theorem finishAnswer_ended (a : HandedAnswer) (hwaiting : s.units.waiting = []) (hroom : s.units.roomWaiters = []) :
    WorkEnded a s (finishAnswer a s) ∧ { finishAnswer a s with units := s.units, locks := s.locks, journal := s.journal } = s := by
  unfold finishAnswer
  split
  · next hnone => exact ⟨⟨fun _ => ⟨rfl, rfl, rfl⟩, fun w k hw => by simp [hnone] at hw⟩, rfl⟩
  · next w hw =>
    split
    · next hfree =>
      refine ⟨⟨fun h => by simp [hw] at h, fun v k hv hk => ?_⟩, rfl⟩
      obtain rfl : w = v := Option.some.inj (hw.symm.trans hv)
      simp [hfree] at hk
    · next k hk =>
      obtain ⟨hrest, hended⟩ := finishWork_ended (w := w) (k := k) hwaiting hroom
      refine ⟨⟨fun h => by simp [hw] at h, fun v k' hv hk' => ?_⟩, hrest⟩
      obtain rfl : w = v := Option.some.inj (hw.symm.trans hv)
      obtain rfl : k = k' := Option.some.inj (hk.symm.trans hk')
      exact hended

/-! ### Trail status and notice accounting (R142, R161) -/

theorem settleTrail_settled (a : HandedAnswer) (v : TrailStatus) (s : State) : TrailOnly s (settleTrail a v s) ∧
    ∀ j, a.trail = some j → ((settleTrail a v s).trailStatusAt j).answer = v ∧ ((settleTrail a v s).trailCell j).entry.answerStatus = v := by
  unfold settleTrail
  split
  · next hnone => exact ⟨.refl s, fun j hj => by simp [hnone] at hj⟩
  · next i hi =>
    refine ⟨setAnswerStatus_only .., fun j hj => ?_⟩
    obtain rfl : i = j := Option.some.inj (hi.symm.trans hj)
    rw [trailStatusAt_setAnswerStatus, trailCell_setAnswerStatus, if_pos rfl, if_pos rfl]
    exact ⟨rfl, rfl⟩

/-- A lane's pending answers and hold timer after one more answer (R161). -/
def LaneState.gathered (l : LaneState) (e : LaneEntry) : LaneState :=
  { l with
    pendingAnswers := if e.threshold ≤ l.pendingAnswers + 1 then 0 else l.pendingAnswers + 1
    holdTimer := if e.threshold ≤ l.pendingAnswers + 1 then none else if l.pendingAnswers + 1 = 1 then some e.holdTime else l.holdTimer }

/-- What the notice accounting of an answer leaves. -/
structure AnswerGathered (n : Nat) (e : LaneEntry) (s t : State) : Prop where
  lane : t.laneState n = (s.laneState n).gathered e
  otherLanes : ∀ m, m ≠ n → t.laneState m = s.laneState m
  notices : t.notices = { s.notices with
    raised := if e.threshold ≤ (s.laneState n).pendingAnswers + 1 then s.notices.raised.add .answers else s.notices.raised }
  link : { t.link with msiSent := s.link.msiSent } = s.link
  rest : { t with lanes := s.lanes, notices := s.notices, link := s.link } = s

theorem gatherAnswer_gathered (n : Nat) (e : LaneEntry) (s : State) : AnswerGathered n e s (gatherAnswer n e s) := by
  have hset : ∀ l, (s.setLaneState n l).laneState n = l := State.laneState_setLaneState_same s n
  have hother : ∀ l m, m ≠ n → (s.setLaneState n l).laneState m = s.laneState m := fun l m => State.laneState_setLaneState_other s l
  unfold gatherAnswer
  dsimp only
  split
  · next hfull =>
    obtain ⟨k, hraise, -⟩ := raiseCause_only .answers (s.setLaneState n { s.laneState n with pendingAnswers := 0, holdTimer := none })
    rw [hraise]
    refine ⟨?_, hother _, ?_, rfl, rfl⟩
    · rw [LaneState.gathered, if_pos hfull, if_pos hfull]
      exact hset _
    · rw [if_pos hfull]
      rfl
  · next hopen =>
    split
    · next hfirst =>
      refine ⟨?_, hother _, ?_, rfl, rfl⟩
      · rw [LaneState.gathered, if_neg hopen, if_neg hopen, if_pos hfirst]
        exact hset _
      · rw [if_neg hopen]
        rfl
    · next hlater =>
      refine ⟨?_, hother _, ?_, rfl, rfl⟩
      · rw [LaneState.gathered, if_neg hopen, if_neg hopen, if_neg hlater]
        exact hset _
      · rw [if_neg hopen]
        rfl

end

end Sys2Proof.Machine
end

section
/-! PROOFS. The answer write as a whole (spec/08, R159, R162; O59). -/

namespace Sys2Proof.Machine

section
variable {a : HandedAnswer} {s u : State}

/-- An answer written whole: its half and its state, and nothing else of memory. -/
structure AnswerInMemory (a : HandedAnswer) (s : State) (m : List Host.Cell) : Prop where
  half : memBytes m (a.entry.base + a.slot * 128 + 64) 64 = sealHalf a.entry.embed s.clock.reading (lateMark a s) a.half
  state : Memory.read m (a.entry.base + a.slot * 128) = slotAnswered
  others : ∀ x, x ≠ a.entry.base + a.slot * 128 → (x < a.entry.base + a.slot * 128 + 64 ∨ a.entry.base + a.slot * 128 + 128 ≤ x) →
    Memory.read m x = Memory.read s.link.mem x

theorem writeAnswer_eq {m : List Host.Cell} {b : Bool}
    (h : linkBlock s (a.entry.slotAddr a.slot + 64) (sealHalf a.entry.embed s.clock.reading (lateMark a s) a.half) = (s.setMem m, b)) :
    writeAnswer a s = if b then linkPut (s.setMem m) (a.entry.slotAddr a.slot) [slotAnswered] else (s.setMem m, false) := by
  rw [writeAnswer, h]
  cases b <;> rfl

theorem memWrite_byte {m : List Host.Cell} {c : Nat} {b : Byte} (h : c + 1 ≤ Config.hostAddresses) : Memory.read (memWrite m c [b]) c = b :=
  memWrite_same [b] m c 0 Nat.one_pos h

theorem writeAnswer_written (hlen : a.half.length = 64) (hhalf : s.link.writable (a.entry.base + a.slot * 128 + 64) 64)
    (hstate : s.link.writable (a.entry.base + a.slot * 128) 1) : ∃ m, writeAnswer a s = (s.setMem m, true) ∧ AnswerInMemory a s m := by
  have hsealed := sealHalf_length (embed := a.entry.embed) (now := s.clock.reading) hlen (lateMark a s)
  have hfits := (writable_fits (l := s.link) (a := a.entry.base + a.slot * 128 + 64) (n := 64) hhalf).resolve_left (by decide)
  have hstateFits := (writable_fits (l := s.link) (a := a.entry.base + a.slot * 128) (n := 1) hstate).resolve_left (by decide)
  have hblock := linkBlock_whole (s := s) (a := a.entry.slotAddr a.slot + 64)
    (bs := sealHalf a.entry.embed s.clock.reading (lateMark a s) a.half) (by rw [hsealed]; exact hhalf)
  have hwritten := writeAnswer_eq hblock
  generalize hsealed' : sealHalf a.entry.embed s.clock.reading (lateMark a s) a.half = bs at hsealed hwritten
  have hput : ∀ m, linkPut (s.setMem m) (a.entry.slotAddr a.slot) [slotAnswered] =
      (s.setMem (memWrite m (a.entry.base + a.slot * 128) [slotAnswered]), true) := fun m => linkPut_done fun i hi => hstate i hi
  rw [if_pos rfl, hput] at hwritten
  refine ⟨_, hwritten, ?_, ?_, fun x hx hout => ?_⟩
  · have hbytes := memBytes_memWrite (m := s.link.mem) (a := a.entry.base + a.slot * 128 + 64) (bs := bs) (by rw [hsealed]; exact hfits)
    rw [hsealed] at hbytes
    refine Eq.trans ?_ (hbytes.trans hsealed'.symm)
    exact memBytes_congr fun x h1 h2 => memWrite_other _ _ (by simp only [List.length_cons, List.length_nil]; omega)
  · exact memWrite_byte hstateFits
  · exact (memWrite_other _ _ (by simp only [List.length_cons, List.length_nil]; omega)).trans (memWrite_other _ _ (by rw [hsealed]; exact hout))

theorem writeAnswer_failed (hlen : a.half.length = 64)
    (h : ¬ s.link.writable (a.entry.base + a.slot * 128 + 64) 64 ∨ ¬ s.link.writable (a.entry.base + a.slot * 128) 1) :
    ∃ m, writeAnswer a s = (s.setMem m, false) := by
  have hsealed := sealHalf_length (embed := a.entry.embed) (now := s.clock.reading) hlen (lateMark a s)
  by_cases hhalf : s.link.writable (a.entry.base + a.slot * 128 + 64) 64
  · have hstate := h.resolve_left (not_not.mpr hhalf)
    have hfails : s.link.writeFailsAt (a.entry.base + a.slot * 128 + 0) = true := by
      by_contra hok
      exact hstate fun i hi => by
        obtain rfl : i = 0 := by omega
        simpa using hok
    have hblock := linkBlock_whole (s := s) (a := a.entry.slotAddr a.slot + 64)
      (bs := sealHalf a.entry.embed s.clock.reading (lateMark a s) a.half) (by rw [hsealed]; exact hhalf)
    have hput : ∀ m, linkPut (s.setMem m) (a.entry.slotAddr a.slot) [slotAnswered] = (s.setMem m, false) :=
      fun m => linkPut_failed (i := 0) (by decide) hfails
    exact ⟨_, (writeAnswer_eq hblock).trans ((if_pos rfl).trans (hput _))⟩
  · obtain ⟨m, hblock, -⟩ := linkBlock_failed (s := s) (a := a.entry.slotAddr a.slot + 64)
      (bs := sealHalf a.entry.embed s.clock.reading (lateMark a s) a.half) (by rw [hsealed]; exact hhalf)
    exact ⟨m, writeAnswer_eq hblock⟩

/-- The tally and its word (R159). -/
theorem raiseTally_eq {n : Nat} (h : s.link.writable (s.dir.engineWords + 4 * n) 4) :
    raiseTally n s = (s.setLaneState n { s.laneState n with tally := (s.laneState n).tally + 1 }).setMem
      (memWrite s.link.mem (s.dir.engineWords + 4 * n) (leBytes 4 ((s.laneState n).tally + 1).toNat)) :=
  congrArg Prod.fst (linkPut_done (s := s.setLaneState n { s.laneState n with tally := (s.laneState n).tally + 1 })
    (bs := leBytes 4 ((s.laneState n).tally + 1).toNat) (a := s.dir.engineWords + 4 * n) fun i hi => h i (by rwa [leBytes_length] at hi))

/-- The withdraw mark read again finds an answer late (R156). -/
theorem lateMark_iff (a : HandedAnswer) (s : State) : lateMark a s = true ↔
    a.worker.isSome ∧ ∃ m, linkRead s (a.entry.base + a.slot * 128 + 1) 1 = some [m] ∧ m ≠ 0 := by
  unfold lateMark
  rw [Bool.and_eq_true]
  refine and_congr_right fun _ => ?_
  change (match linkRead s (a.entry.base + a.slot * 128 + 1) 1 with | some [m] => !decide (m = 0) | _ => false) = true ↔ _
  split
  · next m hm => simp [hm]
  · next hne => exact ⟨fun h => by simp at h, fun ⟨m, hm, _⟩ => absurd hm (hne m)⟩

/-! ### The state in which the answer is written -/

/-- The answer taken off the list and its TILL cause raised (R102, log 22). -/
def State.answering (s : State) (a : HandedAnswer) (others : List HandedAnswer) : State :=
  if a.tillCause then raiseCause .till (s.setNotices { s.notices with answers := others })
  else s.setNotices { s.notices with answers := others }

/-- What it changes. -/
structure Answering (a : HandedAnswer) (others : List HandedAnswer) (s u : State) : Prop where
  notices : u.notices = { s.notices with
    answers := others, raised := if a.tillCause then s.notices.raised.add .till else s.notices.raised }
  link : { u.link with msiSent := s.link.msiSent } = s.link
  rest : { u with notices := s.notices, link := s.link } = s

theorem answering_made (a : HandedAnswer) (others : List HandedAnswer) (s : State) : Answering a others s (s.answering a others) := by
  obtain ⟨n, h⟩ := raiseCause_if a.tillCause .till (s.setNotices { s.notices with answers := others })
  have h : s.answering a others = _ := h
  rw [h]
  exact ⟨rfl, rfl, rfl⟩

theorem handleAnswer_written {others : List HandedAnswer} (h : writeAnswer a (s.answering a others) = (u, true)) :
    handleAnswer a (s.setNotices { s.notices with answers := others }) =
      finishAnswer a (gatherAnswer a.lane a.entry (settleTrail a .done (raiseTally a.lane u))) := by
  have h' : writeAnswer a (if a.tillCause then raiseCause .till (s.setNotices { s.notices with answers := others })
      else s.setNotices { s.notices with answers := others }) = (u, true) := h
  simp only [handleAnswer, h']

theorem handleAnswer_failed {others : List HandedAnswer} (h : writeAnswer a (s.answering a others) = (u, false)) :
    handleAnswer a (s.setNotices { s.notices with answers := others }) = finishAnswer a (settleTrail a .abandoned u) := by
  have h' : writeAnswer a (if a.tillCause then raiseCause .till (s.setNotices { s.notices with answers := others })
      else s.setNotices { s.notices with answers := others }) = (u, false) := h
  simp only [handleAnswer, h']

end

/-! ### The two outcomes -/

section
variable {a : HandedAnswer} {others : List HandedAnswer} {n : Nat} {s : State}

/-- A counted answer. -/
structure AnswerCounted (a : HandedAnswer) (others : List HandedAnswer) (s : State) (m : List Host.Cell) (t : State) : Prop where
  mem : t.link.mem = memWrite m (s.dir.engineWords + 4 * a.lane) (leBytes 4 ((s.laneState a.lane).tally + 1).toNat)
  lane : t.laneState a.lane = ({ s.laneState a.lane with tally := (s.laneState a.lane).tally + 1 } : LaneState).gathered a.entry
  otherLanes : ∀ k, k ≠ a.lane → t.laneState k = s.laneState k
  notices : t.notices = { s.notices with
    answers := others
    raised := if a.entry.threshold ≤ (s.laneState a.lane).pendingAnswers + 1
      then (if a.tillCause then s.notices.raised.add .till else s.notices.raised).add .answers
      else if a.tillCause then s.notices.raised.add .till else s.notices.raised }
  trail : ∀ j, a.trail = some j → (t.trailStatusAt j).answer = .done ∧ (t.trailCell j).entry.answerStatus = .done
  ended : WorkEnded a s t
  store : { t.store with trail := s.store.trail, trailStatus := s.store.trailStatus } = s.store
  rest : { t with link := s.link, lanes := s.lanes, notices := s.notices, store := s.store, units := s.units, locks := s.locks, journal := s.journal } = s

theorem countedAnswer {m : List Host.Cell} {u : State} (hwaiting : s.units.waiting = []) (hroom : s.units.roomWaiters = [])
    (hu : Answering a others s u) (hword : s.link.writable (s.dir.engineWords + 4 * a.lane) 4) :
    AnswerCounted a others s m
      (finishAnswer a (gatherAnswer a.lane a.entry (settleTrail a .done (raiseTally a.lane (u.setMem m))))) := by
  have hlanes : u.lanes = s.lanes := (congrArg State.lanes hu.rest :)
  have hcontrol : u.control = s.control := (congrArg State.control hu.rest :)
  have hstore : u.store = s.store := (congrArg State.store hu.rest :)
  have hdir : u.dir = s.dir := by rw [State.dir, State.dir, hcontrol]
  have hlane : ∀ k, u.laneState k = s.laneState k := fun k => by rw [State.laneState, State.laneState, hlanes]
  have hfails : u.link.writeFailsAt = s.link.writeFailsAt := (congrArg Link.writeFailsAt hu.link :)
  have hw : u.link.writable (u.dir.engineWords + 4 * a.lane) 4 := by
    rw [hdir]
    exact fun i hi => by rw [hfails]; exact hword i hi
  have htally := raiseTally_eq (s := u.setMem m) (n := a.lane) hw
  have htally : raiseTally a.lane (u.setMem m) = (u.setLaneState a.lane { u.laneState a.lane with tally := (u.laneState a.lane).tally + 1 }).setMem
      (memWrite m (u.dir.engineWords + 4 * a.lane) (leBytes 4 ((u.laneState a.lane).tally + 1).toNat)) := htally
  rw [htally, hlane, hdir]
  generalize hm' : memWrite m (s.dir.engineWords + 4 * a.lane) (leBytes 4 ((s.laneState a.lane).tally + 1).toNat) = m'
  generalize hv : (u.setLaneState a.lane { s.laneState a.lane with tally := (s.laneState a.lane).tally + 1 }).setMem m' = v
  have hvlane : v.laneState a.lane = { s.laneState a.lane with tally := (s.laneState a.lane).tally + 1 } := by
    rw [← hv]
    exact State.laneState_setLaneState_same ..
  have hvother : ∀ k, k ≠ a.lane → v.laneState k = s.laneState k := fun k hk => by
    rw [← hv]
    exact (State.laneState_setLaneState_other u _ hk).trans (hlane k)
  have hvmem : v.link.mem = m' := by
    rw [← hv]
    rfl
  have hvnotices : v.notices = u.notices := by
    rw [← hv]
    rfl
  have hvstore : v.store = s.store := by
    rw [← hv]
    exact hstore
  have hvrest : { v with link := s.link, lanes := s.lanes, notices := s.notices } = s := by
    rw [← hv]
    exact (congrArg (fun x : State => { x with lanes := s.lanes }) hu.rest :)
  clear hv
  obtain ⟨htrail, hsettled⟩ := settleTrail_settled a .done v
  generalize settleTrail a .done v = x at htrail hsettled ⊢
  have hxlanes : x.lanes = v.lanes := (congrArg State.lanes htrail :)
  have hxlane : ∀ k, x.laneState k = v.laneState k := fun k => by rw [State.laneState, State.laneState, hxlanes]
  have hxnotices : x.notices = v.notices := (congrArg State.notices htrail :)
  have hxlink : x.link = v.link := (congrArg State.link htrail :)
  have hxstore : { x.store with trail := s.store.trail, trailStatus := s.store.trailStatus } = s.store :=
    (congrArg (fun y : State => { y.store with trail := s.store.trail, trailStatus := s.store.trailStatus }) htrail :).trans (by rw [hvstore]; rfl)
  have hxrest : { x with link := s.link, lanes := s.lanes, notices := s.notices, store := s.store } = s :=
    (congrArg (fun y : State => { y with link := s.link, lanes := s.lanes, notices := s.notices, store := s.store }) htrail :).trans
      (congrArg (fun y : State => { y with store := s.store }) hvrest :)
  have hgathered := gatherAnswer_gathered a.lane a.entry x
  generalize gatherAnswer a.lane a.entry x = y at hgathered ⊢
  have hystore : y.store = x.store := (congrArg State.store hgathered.rest :)
  have hyrest : { y with link := s.link, lanes := s.lanes, notices := s.notices, store := s.store } = s :=
    (congrArg (fun z : State => { z with link := s.link, lanes := s.lanes, notices := s.notices, store := s.store }) hgathered.rest :).trans hxrest
  have hyunits : y.units = s.units := (congrArg State.units hyrest :)
  obtain ⟨hended, hfinished⟩ := finishAnswer_ended (s := y) a (by rw [hyunits, hwaiting]) (by rw [hyunits, hroom])
  generalize finishAnswer a y = t at hended hfinished ⊢
  have htlanes : t.lanes = y.lanes := (congrArg State.lanes hfinished :)
  have htlane : ∀ k, t.laneState k = y.laneState k := fun k => by rw [State.laneState, State.laneState, htlanes]
  have htstore : t.store = y.store := (congrArg State.store hfinished :)
  have htnotices : t.notices = y.notices := (congrArg State.notices hfinished :)
  have htlink : t.link = y.link := (congrArg State.link hfinished :)
  refine ⟨?_, ?_, fun k hk => ?_, ?_, fun j hj => ?_,
    hended.of_same hyunits (congrArg State.locks hyrest :) (congrArg State.journal hyrest :), ?_, ?_⟩
  · have h : y.link.mem = x.link.mem := (congrArg Link.mem hgathered.link :)
    rw [htlink, h, hxlink, hvmem, hm']
  · rw [htlane, hgathered.lane, hxlane, hvlane]
  · rw [htlane, hgathered.otherLanes k hk, hxlane, hvother k hk]
  · rw [htnotices, hgathered.notices, hxlane, hvlane, hxnotices, hvnotices, hu.notices]
  · rw [State.trailStatusAt, State.trailCell, htstore, hystore]
    exact hsettled j hj
  · rw [htstore, hystore, hxstore]
  · exact (congrArg (fun z : State => { z with
      link := s.link, lanes := s.lanes, notices := s.notices, store := s.store, units := s.units, locks := s.locks,
      journal := s.journal }) hfinished :).trans
      (congrArg (fun z : State => { z with units := s.units, locks := s.locks, journal := s.journal }) hyrest :)

/-- An answer given up (R162). -/
structure AnswerGivenUp (a : HandedAnswer) (others : List HandedAnswer) (s t : State) : Prop where
  lanes : t.lanes = s.lanes
  notices : t.notices = { s.notices with
    answers := others, raised := if a.tillCause then s.notices.raised.add .till else s.notices.raised }
  trail : ∀ j, a.trail = some j → (t.trailStatusAt j).answer = .abandoned ∧ (t.trailCell j).entry.answerStatus = .abandoned
  ended : WorkEnded a s t

theorem givenUpAnswer {m : List Host.Cell} {u : State} (hwaiting : s.units.waiting = []) (hroom : s.units.roomWaiters = [])
    (hu : Answering a others s u) : AnswerGivenUp a others s (finishAnswer a (settleTrail a .abandoned (u.setMem m))) := by
  obtain ⟨htrail, hsettled⟩ := settleTrail_settled a .abandoned (u.setMem m)
  generalize settleTrail a .abandoned (u.setMem m) = x at htrail hsettled ⊢
  have hxunits : x.units = s.units := (congrArg State.units htrail :).trans (congrArg State.units hu.rest :)
  have hxlocks : x.locks = s.locks := (congrArg State.locks htrail :).trans (congrArg State.locks hu.rest :)
  have hxjournal : x.journal = s.journal := (congrArg State.journal htrail :).trans (congrArg State.journal hu.rest :)
  have hxlanes : x.lanes = s.lanes := (congrArg State.lanes htrail :).trans (congrArg State.lanes hu.rest :)
  have hxnotices : x.notices = u.notices := (congrArg State.notices htrail :)
  obtain ⟨hended, hfinished⟩ := finishAnswer_ended (s := x) a (by rw [hxunits, hwaiting]) (by rw [hxunits, hroom])
  generalize finishAnswer a x = t at hended hfinished ⊢
  have htstore : t.store = x.store := (congrArg State.store hfinished :)
  refine ⟨(congrArg State.lanes hfinished :).trans hxlanes, ?_, fun j hj => ?_, hended.of_same hxunits hxlocks hxjournal⟩
  · exact (congrArg State.notices hfinished :).trans (hxnotices.trans hu.notices)
  · rw [State.trailStatusAt, State.trailCell, htstore]
    exact hsettled j hj

end

theorem exec_answerWrite {n : Nat} {e : Outside} {s₀ s : State} (hs : s₀.outside e = s) :
    exec (.answerWrite n e) s₀ = .next (writeNextAnswer n s) := by
  rw [← hs]
  rfl

/-- Settles O59: the answer's writes, its count and its work's end in turn. -/
theorem answerWriteCountsAndFreesTheWorker : Obligations.AnswerWriteCountsAndFreesTheWorker := by
  unfold Obligations.AnswerWriteCountsAndFreesTheWorker
  intro n e s₀ s a pre rest hs
  rw [exec_answerWrite hs]
  refine ⟨fun hnone => ?_, fun hanswers hpre hlane hlen hwaiting hroom => ?_⟩
  · rw [writeNextAnswer, oldestAnswer_none hnone]
  · have hnext : writeNextAnswer n s = handleAnswer a (s.setNotices { s.notices with answers := pre ++ rest }) := by
      rw [writeNextAnswer, hanswers, oldestAnswer_first hpre hlane]
    rw [hnext]
    have hmade := answering_made a (pre ++ rest) s
    have hclock : (s.answering a (pre ++ rest)).clock = s.clock := (congrArg State.clock hmade.rest :)
    have hmem : (s.answering a (pre ++ rest)).link.mem = s.link.mem := (congrArg Link.mem hmade.link :)
    have hfails : (s.answering a (pre ++ rest)).link.writeFailsAt = s.link.writeFailsAt := (congrArg Link.writeFailsAt hmade.link :)
    have hreads : (s.answering a (pre ++ rest)).link.readFailsAt = s.link.readFailsAt := (congrArg Link.readFailsAt hmade.link :)
    have hwritable : ∀ c k, (s.answering a (pre ++ rest)).link.writable c k ↔ s.link.writable c k := fun c k => by
      rw [Link.writable, Link.writable, hfails]
    have hlate : lateMark a (s.answering a (pre ++ rest)) = true ↔
        a.worker.isSome ∧ ∃ m, linkRead s (a.entry.base + a.slot * 128 + 1) 1 = some [m] ∧ m ≠ 0 := by
      rw [lateMark_iff, linkRead, linkRead, hmem, hreads]
    subst hlane
    refine ⟨fun hstate hhalf hword hapart => ?_, fun hfail => ?_⟩
    · obtain ⟨m, hwrite, hin⟩ := writeAnswer_written (s := s.answering a (pre ++ rest)) hlen ((hwritable _ _).mpr hhalf) ((hwritable _ _).mpr hstate)
      have hcounted := countedAnswer (m := m) hwaiting hroom hmade hword
      have hwordFits := (writable_fits (l := s.link) (a := s.dir.engineWords + 4 * a.lane) (n := 4) hword).resolve_left (by decide)
      rw [handleAnswer_written hwrite]
      generalize finishAnswer a _ = t at hcounted ⊢
      have hwordBytes := memBytes_memWrite (m := m) (a := s.dir.engineWords + 4 * a.lane) (bs := leBytes 4 ((s.laneState a.lane).tally + 1).toNat)
        (by rw [leBytes_length]; exact hwordFits)
      have hkept := fun x => memWrite_other (c := x) (a := s.dir.engineWords + 4 * a.lane) (leBytes 4 ((s.laneState a.lane).tally + 1).toNat) m
      rw [leBytes_length] at hwordBytes hkept
      have hhalfIn := hin.half
      rw [hclock] at hhalfIn
      have htmem := hcounted.mem
      refine ⟨t, sealHalf a.entry.embed s.clock.reading (lateMark a (s.answering a (pre ++ rest))) a.half, rfl, ?_, fun hnot hchosen => ?_, fun hchosen => ?_, fun hl => ?_, ?_, ?_, fun x hx hout hoff => ?_, hcounted.lane,
        hcounted.otherLanes, hcounted.notices, hcounted.trail, hcounted.ended, (congrArg State.clock hcounted.rest :),
        (congrArg State.tables hcounted.rest :), (congrArg State.holds hcounted.rest :), (congrArg State.control hcounted.rest :),
        (congrArg State.pending hcounted.rest :), hcounted.store⟩
      · rw [htmem, ← hhalfIn]
        exact memBytes_congr fun x h1 h2 => hkept x (by omega)
      · rw [Bool.eq_false_iff.mpr (fun h => hnot (hlate.mp h))]
        exact sealHalf_plain hchosen
      · exact sealHalf_stamp hlen _ hchosen
      · rw [hlate.mpr hl]
        exact sealHalf_late hlen
      · rw [htmem]
        exact (hkept _ (by omega)).trans hin.state
      · rw [htmem]
        exact hwordBytes
      · rw [htmem]
        exact (hkept x hoff).trans ((hin.others x hx hout).trans (by rw [hmem]))
    · obtain ⟨m, hwrite⟩ := writeAnswer_failed (s := s.answering a (pre ++ rest)) hlen
        (hfail.imp (fun h hw => h ((hwritable _ _).mp hw)) (fun h hw => h ((hwritable _ _).mp hw)))
      have hgiven := givenUpAnswer (m := m) hwaiting hroom hmade
      rw [handleAnswer_failed hwrite]
      exact ⟨_, rfl, hgiven.lanes, hgiven.notices, hgiven.trail, hgiven.ended⟩

end Sys2Proof.Machine
end

section
/-! PROOFS. The LINK_LOST fault (spec/07, R137, R138; O57). -/

namespace Sys2Proof.Machine

/-! ### What the fault leaves -/

theorem TrailStatus.settled_ne_pending (v : TrailStatus) : v.settled ≠ .pending := by
  cases v <;> decide

/-- The state after the fault, with the messages sent and the trail it comes to. -/
def State.linkFault (s : State) (n : List (BitVec 64 × Word32)) (trail : List (Nat × TrailCell)) (status : List (Nat × StatusPair)) : State :=
  { s with
    control := { s.control with engine := .faulted, fault := .linkLost }
    notices := { s.notices with raised := (s.notices.raised.add .store).add .engine, answers := [] }
    units := {}
    locks := {}
    holds := { s.holds with hand := [] }
    journal := { s.journal with queue := [], reserved := 0, next := none, retry := false }
    lanes := { lane := mapLanes LaneState.atLinkLost s.lanes.lane, lastServed := none }
    store := { s.store with header := { header := { s.header with damaged := true } }, trail := trail, trailStatus := status }
    link := { s.link with msiSent := n } }

theorem linkLost_eq (s : State) : ∃ n trail status, linkLost s = s.linkFault n trail status ∧
    ∀ j, j < 32 → (Sparse.get ({} : StatusPair) status j).journal ≠ .pending ∧ (Sparse.get ({} : StatusPair) status j).answer ≠ .pending := by
  obtain ⟨n, hstore, -⟩ := raiseCause_only .store (s.putHeader { s.header with damaged := true })
  unfold linkLost
  dsimp only
  rw [hstore]
  generalize hb : (dropJournal (dropWork _)).setLanes _ = b
  have hsettled := abandonPending_settled b
  generalize abandonPending b = c at hsettled ⊢
  have honly := hsettled.only
  unfold TrailOnly at honly
  obtain ⟨m, hengine, -⟩ := raiseCause_only .engine (c.setControl { c.control with engine := .faulted, fault := .linkLost })
  refine ⟨m, c.store.trail, c.store.trailStatus, ?_, fun j hj => ?_⟩
  · rw [hengine, honly, ← hb]
    rfl
  · have hat := hsettled.onChip j
    rw [if_pos hj] at hat
    have hat : Sparse.get ({} : StatusPair) c.store.trailStatus j = _ := hat
    rw [hat]
    exact ⟨TrailStatus.settled_ne_pending _, TrailStatus.settled_ne_pending _⟩

/-- Nothing that the fault keeps has moved from one state to another; hand list, answers and journal queue apart, which it clears. -/
structure FaultAlike (s m : State) : Prop where
  control : m.control = s.control
  partition : m.header.partition = s.header.partition
  notices : m.notices = s.notices
  holds : { m.holds with hand := [] } = { s.holds with hand := [] }
  journal : { m.journal with next := none } = { s.journal with next := none }
  lanes : m.lanes = s.lanes
  links : m.store.links = s.store.links
  overflow : m.store.overflow = s.store.overflow
  clock : m.clock = s.clock
  tables : m.tables = s.tables
  pending : m.pending = s.pending
  link : { m.link with mem := s.link.mem } = s.link

theorem FaultAlike.refl (s : State) : FaultAlike s s := ⟨rfl, rfl, rfl, rfl, rfl, rfl, rfl, rfl, rfl, rfl, rfl, rfl⟩

theorem linkLost_lost {s m : State} (h : FaultAlike s m) : LinkLost s (linkLost m) := by
  obtain ⟨n, trail, status, heq, hsettled⟩ := linkLost_eq m
  rw [heq]
  refine ⟨?_, ⟨rfl, h.partition⟩, ?_, rfl, rfl, h.holds, ?_, fun hcanonical j => ?_, rfl, hsettled, h.links, h.overflow, h.clock, h.tables, h.pending, ?_⟩
  · change { m.control with engine := .faulted, fault := .linkLost } = _
    rw [h.control]
  · change { m.notices with raised := (m.notices.raised.add .store).add .engine, answers := [] } = _
    rw [h.notices]
  · exact congrArg (fun j : Journal => { j with queue := [], reserved := 0, retry := false }) h.journal
  · obtain ⟨-, hlanes, -⟩ := s.canonical_iff.mp hcanonical
    change Sparse.get {} (mapLanes LaneState.atLinkLost m.lanes.lane) j = (s.laneState j).atLinkLost
    rw [h.lanes]
    exact get_mapLanes (f := LaneState.atLinkLost) rfl hlanes j
  · exact (congrArg (fun l : Link => { l with msiSent := s.link.msiSent }) h.link :)

/-- Of store and memory the fault changes the header's mark and the trail's statuses. -/
theorem linkLost_store (m : State) : { (linkLost m).store with header := m.store.header, trail := m.store.trail, trailStatus := m.store.trailStatus } =
    m.store ∧ (linkLost m).link.mem = m.link.mem := by
  obtain ⟨n, trail, status, heq, -⟩ := linkLost_eq m
  rw [heq]
  exact ⟨rfl, rfl⟩

/-! ### A commit whose first chain operation finds the lost link word -/

/-- A state with other hand-list entries. -/
def State.withHand (s : State) (hand : List HandEntry) : State := s.setHolds { s.holds with hand := hand }

theorem unlinkRow_lost {i : Nat} {s : State} (h : s.linkIsLost i) : unlinkRow i s = (s, false) := by
  obtain ⟨hone, htwo⟩ := h
  simp only [unlinkRow, readLink, hone, htwo]

theorem moveHold_lost {o : HoldOp} {s : State} (h : s.linkIsLost o.row) : ∃ hand, moveHold o s = (s.withHand hand, false) := by
  cases o with
  | openRow i r =>
    have hlost : (dropHand .claim i s).linkIsLost i := h
    exact ⟨_, by
      rw [moveHold, unlinkRow_lost hlost]
      rfl⟩
  | renewRow i r => exact ⟨s.holds.hand, by
      rw [moveHold, unlinkRow_lost (i := i) h]
      rfl⟩
  | freeRow i r u => exact ⟨s.holds.hand, by
      rw [moveHold, unlinkRow_lost (i := i) h]
      rfl⟩
  | refile i => exact ⟨s.holds.hand, by
      rw [moveHold, unlinkRow_lost (i := i) h]
      rfl⟩
  | requeue i => exact ⟨s.holds.hand, by
      rw [moveHold, unlinkRow_lost (i := i) h]
      rfl⟩

theorem moveHolds_lost {o : HoldOp} {os : List HoldOp} {s : State} (h : s.linkIsLost o.row) :
    ∃ hand, moveHolds (o :: os) s = (s.withHand hand, false) := by
  obtain ⟨hand, hmove⟩ := moveHold_lost h
  exact ⟨hand, by rw [moveHolds, hmove]⟩

/-- The commit is the row writes and the fault. -/
theorem commitNow_lost {w : Nat} {k : Work} {p : Plan} {s : State} {o : HoldOp} {os : List HoldOp} (hops : p.holdOps = o :: os)
    (haction : p.action = .nothing) (hlost : s.linkIsLost o.row) :
    ∃ hand, commitNow w k p s =
      linkLost ((beforeChains k (sealPlan k p s.clock.reading (s.journal.next.getD 1)) s).withHand hand) := by
  have hnothing : commitAction p s = (s, p) := by simp only [commitAction, haction]
  have hlinks := (beforeChains_made k (sealPlan k p s.clock.reading (s.journal.next.getD 1)) s).links
  rw [commitNow_eq w k p s hnothing]
  dsimp only
  generalize beforeChains k (sealPlan k p s.clock.reading (s.journal.next.getD 1)) s = b at hlinks ⊢
  have hlost' : b.linkIsLost o.row := by
    rw [State.linkIsLost, State.linkWord, hlinks]
    exact hlost
  obtain ⟨hand, hmoves⟩ := moveHolds_lost (os := os) hlost'
  rw [hops, hmoves]
  exact ⟨hand, if_neg Bool.false_ne_true⟩

theorem BeforeChains.faultAlike {k : Work} {x : Sealed} {s b : State} (h : BeforeChains k x s b) (hand : List HandEntry) :
    FaultAlike s (b.withHand hand) := by
  obtain ⟨v, hwritten, hcards, htills, hholds, hheader, hquarantine, hlink, hcontrol⟩ := h.rows
  have hpartition : b.header.partition = s.header.partition := by
    rw [hwritten.partition, State.header, hheader]
    rfl
  refine ⟨(congrArg State.control h.rest :), hpartition, (congrArg State.notices h.rest :), ?_, ?_, (congrArg State.lanes h.rest :), h.links,
    (congrArg Store.overflow h.store :), (congrArg State.clock h.rest :), (congrArg State.tables h.rest :), (congrArg State.pending h.rest :),
    (congrArg State.link h.rest :)⟩
  · change { b.holds with hand := [] } = _
    rw [h.holds]
  · change { b.journal with next := none } = _
    rw [h.journal]

/-- The content that a commit writes of a row is that of its one operation on it. -/
theorem findSome_contentOf {os : List HoldOp} {o : HoldOp} {i : Nat} {h : HoldRow} (hrows : (os.map HoldOp.row).Nodup) (ho : o ∈ os)
    (hc : o.contentOf i = some h) : os.findSome? (HoldOp.contentOf i) = some h := by
  induction os with
  | nil => cases ho
  | cons q os ih =>
    rw [List.map_cons, List.nodup_cons] at hrows
    rw [List.findSome?_cons]
    rcases List.mem_cons.mp ho with rfl | ho
    · rw [hc]
    · have hnone : q.contentOf i = none := by
        by_contra hne
        obtain ⟨h', hq⟩ := Option.ne_none_iff_exists'.mp hne
        exact hrows.1 (List.mem_map.mpr ⟨o, ho, (HoldOp.contentOf_row hc).trans (HoldOp.contentOf_row hq).symm⟩)
      rw [hnone]
      exact ih hrows.2 ho

/-- An operation that writes a row gives its content. -/
theorem contentOf_self {q : HoldOp} {i : Nat} {h : HoldRow} (hq : q = .openRow i h ∨ q = .renewRow i h ∨ ∃ b, q = .freeRow i h b) :
    q.contentOf i = some h := by
  rcases hq with rfl | rfl | ⟨b, rfl⟩ <;> exact if_pos rfl

/-- A plan that frees no row for an office and names none takes none out of the quarantine list. -/
theorem unlists_none {p : Plan} (hleaves : p.leaves = []) (h : ∀ i h, .freeRow i h true ∉ p.holdOps) (q : Listed) : p.unlists q = false := by
  have hops : ∀ o ∈ p.holdOps, o.unlists q.index = false := fun o ho => by
    cases o with
    | freeRow j r u =>
      cases u with
      | true => exact absurd ho (h j r)
      | false => rfl
    | openRow j r => rfl
    | renewRow j r => rfl
    | refile j => rfl
    | requeue j => rfl
  rw [Plan.unlists, hleaves, List.any_eq_false.mpr fun o ho => by simp [hops o ho]]
  simp

/-- A row freed for an office leaves the list. -/
theorem unlists_freed {p : Plan} {i : Nat} {h : HoldRow} (ho : .freeRow i h true ∈ p.holdOps) {q : Listed} (hkind : q.kind = .hold)
    (hindex : q.index = i) : p.unlists q = true := by
  have hany : p.holdOps.any (HoldOp.unlists q.index) = true := List.any_eq_true.mpr ⟨_, ho, by simp [HoldOp.unlists, hindex]⟩
  rw [Plan.unlists, hany, decide_eq_true hkind, Bool.and_true, Bool.or_true]

/-! ### A search that finds the lost link word -/

/-- What a search changes of the store: links, error states of hold rows and the quarantine list. -/
def SearchOnly (s t : State) : Prop :=
  { t.store with holds := s.store.holds, links := s.store.links, quarantine := s.store.quarantine, overflow := s.store.overflow } = s.store

theorem SearchOnly.trans {s t u : State} (h : SearchOnly s t) (g : SearchOnly t u) : SearchOnly s u := by
  unfold SearchOnly at *
  exact (congrArg (fun st : Store => { st with
    holds := s.store.holds, links := s.store.links, quarantine := s.store.quarantine, overflow := s.store.overflow }) g :).trans h

theorem HoldUnread.searchOnly {i : Nat} {s t : State} (h : HoldUnread i s t) : SearchOnly s t ∧ t.store.holds = s.store.holds := by
  obtain ⟨-, rfl⟩ | ⟨-, -, rfl⟩ := h
  · exact ⟨rfl, rfl⟩
  · obtain ⟨m, n, r, q, o, hjoin, -⟩ := quarantineJoin_only .hold i s
    rw [hjoin]
    exact ⟨rfl, rfl⟩

theorem LinkRead.searchOnly {i : Nat} {n : Option Nat} {s t : State} (h : LinkRead i n s t) : SearchOnly s t ∧ t.store.holds = s.store.holds := by
  obtain ⟨-, ⟨-, rfl⟩ | ⟨-, rfl⟩ | ⟨-, -, rfl⟩⟩ := h <;> exact ⟨rfl, rfl⟩

theorem ClaimPassed.searchOnly {i : Nat} {s t : State} (h : ClaimPassed i s t) : SearchOnly s t ∧ t.store.holds = s.store.holds := by
  obtain ⟨-, rfl⟩ | ⟨-, h⟩ := h
  · exact ⟨rfl, rfl⟩
  · exact h.searchOnly

theorem DuePassed.searchOnly {i : Nat} {s t : State} (h : DuePassed i s t) : SearchOnly s t := by
  obtain ⟨-, rfl⟩ | ⟨-, h | ⟨r, ⟨-, -, ⟨-, rfl⟩ | ⟨-, rfl⟩⟩, -⟩⟩ := h
  · exact rfl
  · exact h.searchOnly.1
  · exact rfl
  · exact rfl

/-- Rows passed over one by one. -/
theorem RowsPassed.searchOnly {passed : Nat → State → State → Prop} (hpassed : ∀ i s t, passed i s t → SearchOnly s t) {c d : Option Nat}
    {js : List Nat} {s t : State} (h : RowsPassed passed c js d s t) : SearchOnly s t := by
  induction h with
  | here => rfl
  | on i n js c s u v t hrow hlink _ ih => exact (hpassed i s u hrow).trans (hlink.searchOnly.1.trans ih)

theorem RowsPassed.holds {passed : Nat → State → State → Prop} (hpassed : ∀ i s t, passed i s t → t.store.holds = s.store.holds)
    {c d : Option Nat} {js : List Nat} {s t : State} (h : RowsPassed passed c js d s t) : t.store.holds = s.store.holds := by
  induction h with
  | here => rfl
  | on i n js c s u v t hrow hlink _ ih => exact ih.trans (hlink.searchOnly.2.trans (hpassed i s u hrow))

theorem stepAlong_lost {i : Nat} {s : State} (h : s.linkIsLost i) : stepAlong s i = (s, none) := by
  obtain ⟨hone, htwo⟩ := h
  simp only [stepAlong, readLink, hone, htwo]

/-- A claim search ends at a row it passes over whose link word is lost (R79, R138). -/
theorem claimSearch_lost {n i : Nat} {c : Option Nat} {js : List Nat} {s v x : State} (hp : RowsPassed ClaimPassed c js (some i) s v)
    (hn : js.length < n) (hrow : ClaimPassed i v x) (hlost : x.linkIsLost i) : claimSearch n c s = (x, .lost) := by
  obtain ⟨m, hm⟩ := Nat.exists_eq_succ_of_ne_zero (Nat.sub_ne_zero_of_lt hn)
  have hread : (if v.isListed .hold i || v.isClaimed i then (v, none) else readHold v i) = (x, none) := by
    obtain ⟨hclaimed, rfl⟩ | ⟨hclaimed, hunread⟩ := hrow
    · rw [hclaimed, Bool.or_true, if_pos rfl]
    · rw [hclaimed, Bool.or_false]
      split
      · next hlisted => rw [← readHold_holdUnread hunread, readHold, if_pos hlisted]
      · exact readHold_holdUnread hunread
  rw [claimSearch_passed hp n hn.le, hm, claimSearch]
  simp only [hread, stepAlong_lost hlost]

/-- A handout search ends at a row it passes over whose link word is lost (R87, R138). -/
theorem dueSearch_lost {n i : Nat} {c : Option Nat} {js : List Nat} {s v x : State} (hp : RowsPassed DuePassed c js (some i) s v)
    (hn : js.length < n) (hrow : DuePassed i v x) (hlost : x.linkIsLost i) : dueSearch n c s = (x, .lost) := by
  obtain ⟨m, hm⟩ := Nat.exists_eq_succ_of_ne_zero (Nat.sub_ne_zero_of_lt hn)
  have hread : ∃ r, (if v.inHand i || v.isListed .hold i then (v, none) else readHold v i) = (x, r) ∧
      r.filter (fun h => !x.isListed .card h.card) = none := by
    obtain ⟨hhand, rfl⟩ | ⟨hhand, hunread | ⟨h, hread, hcard⟩⟩ := hrow
    · exact ⟨none, by rw [hhand, Bool.true_or, if_pos rfl], rfl⟩
    · refine ⟨none, ?_, rfl⟩
      rw [hhand, Bool.false_or]
      split
      · next hlisted => rw [← readHold_holdUnread hunread, readHold, if_pos hlisted]
      · exact readHold_holdUnread hunread
    · have hlisted : x.isListed .card h.card = true := by
        obtain ⟨-, -, ⟨-, rfl⟩ | ⟨-, rfl⟩⟩ := hread
        · exact hcard
        · exact hcard
      refine ⟨some h, ?_, by simp [hlisted]⟩
      rw [hhand, Bool.false_or, hread.1, if_neg Bool.false_ne_true]
      exact readHold_holdRead hread
  obtain ⟨r, hread, hnone⟩ := hread
  rw [dueSearch_passed hp n hn.le, hm, dueSearch]
  simp only [hread, hnone, stepAlong_lost hlost]

/-- Settles O57: the first part by the row writes of a commit, the two searches by `claimSearch_lost` and `dueSearch_lost`. -/
theorem lostLinkWordFaultsTheEngine : Obligations.LostLinkWordFaultsTheEngine := by
  unfold Obligations.LostLinkWordFaultsTheEngine
  refine ⟨fun w k p s o os hops hleaves haction hlost => ?_,
    fun w i j js e s₀ s v x k t sel row hs hready hvelocity hfunds hlimit hpassed hlen hrow hlost => ?_,
    fun w i p js e s₀ s v x hs hw hfree hrun hready hfirst hplace hroom hpassed hlen hrow hlost => ?_⟩
  · obtain ⟨hand, hcommit⟩ := commitNow_lost (w := w) (k := k) hops haction hlost
    rw [hcommit]
    have hmade := beforeChains_made k (sealPlan k p s.clock.reading (s.journal.next.getD 1)) s
    have hplan : (sealPlan k p s.clock.reading (s.journal.next.getD 1)).plan = p := rfl
    generalize sealPlan k p s.clock.reading (s.journal.next.getD 1) = x at hmade hplan ⊢
    generalize beforeChains k x s = b at hmade ⊢
    obtain ⟨hstore, hmem⟩ := linkLost_store (b.withHand hand)
    have hfault := linkLost_lost (hmade.faultAlike hand)
    generalize linkLost (b.withHand hand) = t at hstore hmem hfault ⊢
    obtain ⟨v, hwritten, hcards, htills, hholds, hheader, hquarantine, hlink, hcontrol⟩ := hmade.rows
    have htcards : t.store.cards = b.store.cards := (congrArg Store.cards hstore :)
    have httills : t.store.tills = b.store.tills := (congrArg Store.tills hstore :)
    have htholds : t.store.holds = b.store.holds := (congrArg Store.holds hstore :)
    have htquarantine : t.store.quarantine = b.store.quarantine := (congrArg Store.quarantine hstore :)
    have hserial : t.store.trailSerial = b.store.trailSerial := (congrArg Store.trailSerial hstore :)
    refine ⟨hfault, fun hrows q hq i h hwrites => ?_, fun i h hfreed => ?_, fun hnone => ⟨?_, ?_⟩, fun i hi hw => ?_, fun i r hi hr => ?_, ?_⟩
    · rw [State.hold, htholds]
      refine (hwritten.holdRows (by rw [hplan]; exact hrows) i).trans ?_
      rw [hplan, findSome_contentOf hrows hq (contentOf_self hwrites)]
      rfl
    · rw [State.isListed, htquarantine, hwritten.quarantine, List.any_eq_false]
      intro q hq hlisted
      obtain ⟨hkind, hindex⟩ := Bool.and_eq_true_iff.mp hlisted
      have hkept := (List.mem_filter.mp hq).2
      rw [hplan, unlists_freed hfreed (of_decide_eq_true hkind) (of_decide_eq_true hindex)] at hkept
      cases hkept
    · rw [htquarantine, hwritten.quarantine, hquarantine, List.filter_eq_self]
      intro q _
      rw [hplan, unlists_none hleaves hnone]
      rfl
    · rw [hmem]
      have hsame := hwritten.link fun q _ => by rw [hplan, unlists_none hleaves hnone]
      exact congrArg Link.mem (hsame.trans hlink)
    · rw [State.card, htcards]
      exact hwritten.card i hi hw
    · rw [State.tillRow, httills]
      exact hwritten.till i r hi hr
    · rw [hserial]
      exact hmade.trailNext.1
  · have hvelocity' : ¬ velocityReached sel (workingRow .holdOpen k sel row s) = true := mt (velocityReached_iff sel _).mp hvelocity
    have hclaim : claimRow (s.bothLocked k i) = (x, .lost) :=
      claimRow_search (s := s.bothLocked k i) (Nat.ne_of_gt (Nat.zero_lt_of_lt hlen)) (claimSearch_lost hpassed hlen hrow hlost)
    have hstep : stepSixteen .holdOpen (k.tillServed t sel i s) (servedPlan .holdOpen k sel row s) (s.bothLocked k i) = (x, none) := by
      refine (if_neg hvelocity').trans ((if_neg (not_lt.mpr hfunds)).trans ((if_neg (not_le.mpr hlimit)).trans ?_))
      rw [hclaim]
    have honly := (hpassed.searchOnly fun _ _ _ h => h.searchOnly.1).trans hrow.searchOnly.1
    have hholds : x.store.holds = s.store.holds := hrow.searchOnly.2.trans (hpassed.holds fun _ _ _ h => h.searchOnly.2)
    have hexec : exec (.holdOpen w e) s₀ = .next (linkLost x) := by
      rw [exec_requestCommand (mk := Instr.holdOpen) (row := ofKind .holdOpen) (by simp [requestCommands]), hs,
        till_request_reaches_sixteen hready.posted.row_ofKind hready, runSixteen, hstep]
    obtain ⟨hstore, hmem⟩ := linkLost_store x
    have hfault := linkLost_lost (.refl x)
    generalize linkLost x = u at hexec hstore hmem hfault
    refine ⟨u, hexec, hfault, ?_, ?_, ?_, ?_, ?_, hmem⟩
    · exact (congrArg Store.cards hstore :).trans (congrArg Store.cards honly :)
    · exact (congrArg Store.tills hstore :).trans (congrArg Store.tills honly :)
    · exact (congrArg Store.holds hstore :).trans hholds
    · exact (congrArg Store.quarantine hstore :)
    · exact (congrArg Store.trailSerial hstore :).trans (congrArg Store.trailSerial honly :)
  · have hseek : seekRoom 1 s = (s, true) := seekRoom_found (.inl ⟨(State.roomFits_iff s 1).mpr hroom, rfl⟩)
    have hhandout : dueHandout w s = (x, .lost) := by
      rw [dueHandout, hplace]
      simp only [hseek, dueSearch_lost hpassed hlen hrow hlost]
    have honly := (hpassed.searchOnly fun _ _ _ h => h.searchOnly).trans hrow.searchOnly
    have hexec : exec (.workerDispatch w e) s₀ = .next (linkLost x) := by
      rw [exec_workerDispatch, hs, dispatchWorker_running hw hfree hrun hready, dispatchRunning, if_pos (dispatchRunning_handout hfirst), hhandout]
    obtain ⟨hstore, hmem⟩ := linkLost_store x
    have hfault := linkLost_lost (.refl x)
    generalize linkLost x = u at hexec hstore hmem hfault
    refine ⟨u, hexec, hfault, ?_, ?_, (congrArg Store.holds hstore :), (congrArg Store.quarantine hstore :), ?_, hmem⟩
    · exact (congrArg Store.cards hstore :).trans (congrArg Store.cards honly :)
    · exact (congrArg Store.tills hstore :).trans (congrArg Store.tills honly :)
    · exact (congrArg Store.trailSerial hstore :).trans (congrArg Store.trailSerial honly :)

end Sys2Proof.Machine
end

section
/-! PROOFS. What the commit point fixes (spec/06, R124; spec/09, R166, R168; spec/05, R99, R106; O53): the entries, their numbers and the rows. -/

namespace Sys2Proof.Machine

/-! ### Movement numbers (R168) -/

theorem nextMovement_eq {n M : Nat} (hM : Config.maxMovement = M) (hhigh : n ≤ M) : nextMovement n = n % M + 1 := by
  rw [nextMovement, hM]
  split
  · next h => rw [Nat.le_antisymm hhigh h, Nat.mod_self]
  · next h => rw [Nat.mod_eq_of_lt (not_le.mp h)]

/-- The number `j` places after number `n`, the numbers going round at `M`. -/
def numberAfter (M n j : Nat) : Nat := (n - 1 + j) % M + 1

theorem numberAfter_zero {M n : Nat} (hlow : 1 ≤ n) (hhigh : n ≤ M) : numberAfter M n 0 = n := by
  rw [numberAfter, Nat.add_zero, Nat.mod_eq_of_lt (by omega)]
  omega

theorem numberAfter_next {M n : Nat} (hlow : 1 ≤ n) (i : Nat) : numberAfter M (n % M + 1) i = numberAfter M n (i + 1) := by
  rw [numberAfter, numberAfter, Nat.add_sub_cancel, Nat.mod_add_mod, show n - 1 + (i + 1) = n + i by omega]

/-- The entry of a commit with its number and its prior number. -/
def EntryCommon.entry (c : EntryCommon) (e : JournalKind × List Nat) (n prior : Nat) : JournalEntry :=
  { number := n, prior := prior, kind := e.1, programme := c.programme, stamp := c.stamp, source := c.source, till := c.till,
    cardRow := c.cardRow, balanceAfter := c.balanceAfter, heldAfter := c.heldAfter, words := e.2 }

theorem numberEntries_cons (c : EntryCommon) (e : JournalKind × List Nat) (l : List (JournalKind × List Nat)) (n prior : Nat) :
    numberEntries c (e :: l) n prior = c.entry e n prior :: numberEntries c l (nextMovement n) n := rfl

theorem numberEntries_content (c : EntryCommon) (l : List (JournalKind × List Nat)) (n prior : Nat) :
    (numberEntries c l n prior).map (fun y => (y.kind, y.words)) = l := by
  induction l generalizing n prior with
  | nil => rfl
  | cons e l ih =>
    rw [numberEntries_cons, List.map_cons, ih]
    rfl

theorem numberEntries_length (c : EntryCommon) (l : List (JournalKind × List Nat)) (n prior : Nat) : (numberEntries c l n prior).length = l.length := by
  have h := congrArg List.length (numberEntries_content c l n prior)
  rwa [List.length_map] at h

/-- The entries are numbered one after the other, going round, and chained by their prior numbers (R19, R168). -/
theorem numberEntries_get {M : Nat} (hM : Config.maxMovement = M) (c : EntryCommon) (l : List (JournalKind × List Nat)) {n prior : Nat}
    (hlow : 1 ≤ n) (hhigh : n ≤ M) (j : Nat) :
    (numberEntries c l n prior)[j]? = l[j]?.map fun e => c.entry e (numberAfter M n j) (if j = 0 then prior else numberAfter M n (j - 1)) := by
  induction l generalizing n prior j with
  | nil => rfl
  | cons e l ih =>
    rw [numberEntries_cons]
    cases j with
    | zero =>
      rw [numberAfter_zero hlow hhigh]
      rfl
    | succ j =>
      have hmod : n % M < M := Nat.mod_lt n (by omega)
      have hprior : (if j = 0 then n else numberAfter M (n % M + 1) (j - 1)) = numberAfter M n j := by
        cases j with
        | zero => rw [if_pos rfl, numberAfter_zero hlow hhigh]
        | succ j => rw [if_neg (Nat.succ_ne_zero j), numberAfter_next hlow, Nat.add_sub_cancel]
      rw [List.getElem?_cons_succ, List.getElem?_cons_succ, nextMovement_eq hM hhigh, ih (by omega) (by omega), numberAfter_next hlow, hprior,
        if_neg (Nat.succ_ne_zero j), Nat.add_sub_cancel]

/-- The number of the commit's last entry (R45). -/
theorem numberEntries_last {M : Nat} (hM : Config.maxMovement = M) (c : EntryCommon) (l : List (JournalKind × List Nat)) {n prior : Nat}
    (hlow : 1 ≤ n) (hhigh : n ≤ M) :
    (numberEntries c l n prior).getLast?.map (·.number) = if l = [] then none else some (numberAfter M n (l.length - 1)) := by
  rw [List.getLast?_eq_getElem?, numberEntries_length, numberEntries_get hM c l hlow hhigh, Option.map_map]
  by_cases h : l = []
  · rw [if_pos h, h]
    rfl
  · have hlt : l.length - 1 < l.length := Nat.sub_one_lt (mt List.eq_nil_of_length_eq_zero h)
    rw [if_neg h, List.getElem?_eq_getElem hlt]
    rfl

/-! ### The till row (R99, R106, R110) -/

section
variable {t : TillRow} {result : Result} {reason : Reason}

theorem scored_repeated : t.scored result reason true = t := if_pos rfl

theorem scored_noFault (h : reason.isCardFault = false) : t.scored .declined reason false = t := by
  simp [TillRow.scored, h]

theorem scored_fault (h : reason.isCardFault = true) : t.scored .declined reason false = t.addFault := by
  simp [TillRow.scored, h]

theorem scored_approval (h : result = .approved ∨ result = .partly) : t.scored result reason false = t.takeApproval := by
  rcases h with rfl | rfl <;> rfl

theorem addFault_good (h : t.barred = false) : t.addFault.score = min 255 (t.score + 8) ∧ t.addFault.barred = decide (255 < t.score + 8) := by
  unfold TillRow.addFault
  rw [h, if_neg Bool.false_ne_true]
  split
  · next hhigh => exact ⟨by simp only [TillRow.setScore]; omega, (decide_eq_true hhigh).symm⟩
  · next hlow => exact ⟨by simp only [TillRow.setScore]; omega, (decide_eq_false hlow).symm⟩

theorem addFault_barred (h : t.barred = true) : t.addFault = t := if_pos h

theorem takeApproval_good (h : t.barred = false) : t.takeApproval.score = t.score - 1 ∧ t.takeApproval.barred = false := by
  unfold TillRow.takeApproval
  rw [h, if_neg Bool.false_ne_true]
  exact ⟨rfl, rfl⟩

theorem takeApproval_barred (h : t.barred = true) : t.takeApproval = t := if_pos h

/-- A barred till's score stays. -/
theorem scored_barred (h : t.barred = true) (b : Bool) : t.scored result reason b = t := by
  cases b with
  | true => exact scored_repeated
  | false =>
    cases result with
    | approved => exact takeApproval_barred h
    | partly => exact takeApproval_barred h
    | declined =>
      cases hfault : reason.isCardFault with
      | true => rw [scored_fault hfault, addFault_barred h]
      | false => exact scored_noFault hfault
    | withdrawn => rfl

/-- Scoring changes score, barred mark and standing alone. -/
theorem scored_only (b : Bool) :
    { t.scored result reason b with score := t.score, barred := t.barred, standing := t.standing } = t := by
  have hfault : { t.addFault with score := t.score, barred := t.barred, standing := t.standing } = t := by
    unfold TillRow.addFault
    split
    · rfl
    · split <;> rfl
  have happroval : { t.takeApproval with score := t.score, barred := t.barred, standing := t.standing } = t := by
    unfold TillRow.takeApproval
    split <;> rfl
  cases b with
  | true => rw [scored_repeated]
  | false =>
    cases result with
    | approved => exact happroval
    | partly => exact happroval
    | declined =>
      cases hcard : reason.isCardFault with
      | true => rw [scored_fault hcard, hfault]
      | false => rw [scored_noFault hcard]
    | withdrawn => rfl

end

section
variable {r : Req} {k : RequestKind} {p : Plan} {row movement : Option Nat} {l : List RecentEntry}

theorem addRecent_last (e : RecentEntry) (l : List RecentEntry) : (addRecent e l).getLast? = some e := by
  unfold addRecent
  split <;> exact List.getLast?_concat

theorem mem_addRecent {e x : RecentEntry} (h : x ∈ addRecent e l) : x ∈ l ∨ x = e := by
  unfold addRecent at h
  split at h
  · simpa using h
  · rcases List.mem_append.mp h with h | h
    · exact .inl (List.mem_of_mem_drop h)
    · exact .inr (List.mem_singleton.mp h)

theorem commitRecent_kept (hadds : p.adds = false) (hreversed : p.reversedSeq = none) (hahead : p.ahead = none) :
    commitRecent r k p row movement l = l := by
  simp only [commitRecent, hadds, hreversed, hahead, Bool.false_eq_true, if_false]

theorem commitRecent_last (hadds : p.adds = true) : (commitRecent r k p row movement l).getLast? = some (ownEntry r k p row movement) := by
  simp only [commitRecent, hadds, if_true]
  exact addRecent_last ..

/-- The reversed target stands REVERSED in the list (R65, R110). -/
theorem commitRecent_reversed {q : Nat} (hadds : p.adds = true) (hreversed : p.reversedSeq = some q) (hahead : p.ahead = none) {y : RecentEntry}
    (hy : y ∈ commitRecent r k p row movement l) (hq : y.seq = q) (hne : q ≠ r.seq) : y.state = .reversed := by
  simp only [commitRecent, hadds, hreversed, hahead, if_true] at hy
  rcases mem_addRecent hy with hy | rfl
  · obtain ⟨z, -, rfl⟩ := List.mem_map.mp hy
    by_cases hz : z.seq = q
    · simp [hz]
    · simp only [if_neg hz] at hq
      exact absurd hq hz
  · exact absurd hq.symm hne

end

end Sys2Proof.Machine
end

section
/-! PROOFS. The answer half as the commit point fixes it (spec/11, 11.3; spec/08, R160; O53). -/

namespace Sys2Proof.Machine

/-! ### The parts of an answer half -/

theorem leNat_leBytes_mod (n v : Nat) : leNat (leBytes n v) = v % 256 ^ n := by
  induction n generalizing v with
  | zero => rw [Nat.pow_zero, Nat.mod_one]; rfl
  | succ n ih => rw [leBytes, leNat, ih, BitVec.toNat_ofNat, Nat.pow_succ' (m := 256), Nat.mod_mul]

/-- A part of a block, read as a figure. -/
theorem fieldAt_part {segs : List (List Byte)} {ws : List Nat} {k i n : Nat} {x : List Byte} (hws : segs.map List.length = ws)
    (hk : segs[k]? = some x) (hi : (ws.take k).sum = i) (hn : x.length = n) : fieldAt segs.flatten i n = leNat x := by
  subst hn
  rw [fieldAt, flatten_slice hws hk hi]

/-- The parts of an answer half (11.3). -/
def Answer.parts (embed : BitVec 8) (a : Answer) : List (List Byte) :=
  [leBytes 1 a.result.code, leBytes 1 a.reason.code, leBytes 2 a.flags.bits, leBytes 4 a.approved, optBytes 4 a.available, optBytes 4 a.held,
   leBytes 4 a.bonus, optBytes 4 (a.ref.map (·.index)), leBytes 1 ((a.ref.map (·.gen)).getD 0), zeroBytes 3, (trailer embed a.items).1,
   (trailer embed a.items).2]

theorem Answer.bytes_eq (embed : BitVec 8) (a : Answer) : a.bytes embed = (a.parts embed).flatten := by
  simp only [Answer.bytes, Answer.parts, List.flatten_cons, List.flatten_nil, List.append_nil, List.append_assoc]

/-! ### Trailers (R160) -/

/-- Every item has 8 bytes. -/
theorem Items.value_length {t : Items} {k : ItemKind} {v : List Byte} (h : t.value k = some v) : v.length = 8 := by
  cases k with
  | serviceStamp =>
    obtain rfl : zeroBytes 8 = v := Option.some.inj h
    rfl
  | movementNumber =>
    obtain ⟨x, -, rfl⟩ := Option.map_eq_some_iff.mp h
    exact padTo_length (by simp)
  | programmeLabel =>
    obtain ⟨x, -, rfl⟩ := Option.map_eq_some_iff.mp h
    exact padTo_length (by simp)
  | standing =>
    obtain ⟨x, -, rfl⟩ := Option.map_eq_some_iff.mp h
    exact padTo_length (by simp)
  | triesLeft =>
    obtain ⟨x, -, rfl⟩ := Option.map_eq_some_iff.mp h
    exact padTo_length (by simp)
  | holdRef =>
    obtain ⟨x, -, rfl⟩ := Option.map_eq_some_iff.mp h
    exact leBytes_length 8 _
  | lotSummary =>
    obtain ⟨x, -, rfl⟩ := Option.map_eq_some_iff.mp h
    exact padTo_length (by simp)

/-- The bytes of a place of the trailer. -/
def Items.place (t : Items) (k : ItemKind) : List Byte := (t.value k).getD (zeroBytes 8)

theorem Items.place_length (t : Items) (k : ItemKind) : (t.place k).length = 8 := by
  unfold Items.place
  cases h : t.value k with
  | none => rfl
  | some v => exact Items.value_length h

/-- The items that a trailer has place for. -/
def placedItems (embed : BitVec 8) : List ItemKind := (chosenItems embed).take 4

theorem placedItems_length (embed : BitVec 8) : (placedItems embed).length ≤ 4 := by
  rw [placedItems, List.length_take]
  omega

theorem trailer_eq (embed : BitVec 8) (t : Items) : trailer embed t =
    ((placedItems embed).map t.mapByte ++ List.replicate (4 - (placedItems embed).length) 0x80,
     (placedItems embed).flatMap t.place ++ zeroBytes (8 * (4 - (placedItems embed).length))) := rfl

theorem trailer_map_length (embed : BitVec 8) (t : Items) : (trailer embed t).1.length = 4 := by
  have h := placedItems_length embed
  rw [trailer_eq, List.length_append, List.length_map, List.length_replicate]
  omega

theorem trailer_places_length (embed : BitVec 8) (t : Items) : (trailer embed t).2.length = 32 := by
  have h := placedItems_length embed
  rw [trailer_eq, List.length_append, zeroBytes_length, flatMap_length _ t.place_length]
  omega

theorem Answer.parts_widths (embed : BitVec 8) (a : Answer) : (a.parts embed).map List.length = [1, 1, 2, 4, 4, 4, 4, 4, 1, 3, 4, 32] := by
  simp only [Answer.parts, List.map_cons, List.map_nil, leBytes_length, optBytes_length, zeroBytes_length, trailer_map_length, trailer_places_length]

theorem Answer.bytes_length (embed : BitVec 8) (a : Answer) : (a.bytes embed).length = 64 := by
  rw [Answer.bytes_eq, List.length_flatten, Answer.parts_widths]
  rfl

/-- A chosen item that has a place: its map byte and its value. -/
theorem trailer_chosen {embed : BitVec 8} {t : Items} {q : Nat} {k : ItemKind} (h : (placedItems embed)[q]? = some k) :
    ((trailer embed t).1.drop q).take 1 = [t.mapByte k] ∧ ((trailer embed t).2.drop (8 * q)).take 8 = t.place k := by
  have hlt := (List.getElem?_eq_some_iff.mp h).1
  rw [trailer_eq]
  refine ⟨?_, flatMap_slice _ t.place_length h⟩
  rw [List.take_one, List.head?_drop, List.getElem?_append_left (by rw [List.length_map]; exact hlt), List.getElem?_map, h]
  rfl

/-- A place behind the chosen items is padding. -/
theorem trailer_padding {embed : BitVec 8} {t : Items} {q : Nat} (hq : q < 4) (h : (placedItems embed)[q]? = none) :
    ((trailer embed t).1.drop q).take 1 = [0x80] ∧ ((trailer embed t).2.drop (8 * q)).take 8 = zeroBytes 8 := by
  have hle := List.getElem?_eq_none_iff.mp h
  rw [trailer_eq]
  refine ⟨?_, ?_⟩
  · rw [List.take_one, List.head?_drop, List.getElem?_append_right (by rw [List.length_map]; exact hle), List.length_map,
      List.getElem?_replicate, if_pos (by omega)]
    rfl
  · have hlen : ((placedItems embed).flatMap t.place).length ≤ 8 * q := by
      rw [flatMap_length _ t.place_length]
      omega
    rw [List.drop_append, List.drop_eq_nil_of_le hlen, List.nil_append, flatMap_length _ t.place_length, zeroBytes, List.drop_replicate,
      List.take_replicate, Nat.min_eq_left (by omega)]
    rfl

/-! ### The order of the items -/

/-- The item of bit `n` of an embed set (11.2). -/
def itemAt : Nat → ItemKind
  | 0 => .serviceStamp | 1 => .movementNumber | 2 => .programmeLabel | 3 => .standing | 4 => .triesLeft | 5 => .holdRef | _ => .lotSummary

theorem itemAt_code {n : Nat} (h : n < 7) : (itemAt n).code = n + 1 := by
  interval_cases n <;> rfl

theorem chosenItems_eq (embed : BitVec 8) : chosenItems embed = ((List.range 7).filter (fun n => embed.getLsbD n)).map itemAt := by
  have horder : itemOrder = (List.range 7).map itemAt := rfl
  rw [chosenItems, horder, List.filter_map]
  refine congrArg (List.map itemAt) (List.filter_congr fun n hn => ?_)
  rw [Function.comp_apply, itemAt_code (List.mem_range.mp hn), Nat.add_sub_cancel]

theorem placedItems_get {embed : BitVec 8} {q : Nat} (hq : q < 4) :
    (placedItems embed)[q]? = ((List.range 7).filter (fun n => embed.getLsbD n))[q]?.map itemAt := by
  rw [placedItems, List.getElem?_take_of_lt hq, chosenItems_eq, List.getElem?_map]

/-- The map byte of an item (11.3). -/
theorem leNat_mapByte {t : Items} {n : Nat} (h : n < 7) : leNat [t.mapByte (itemAt n)] = n + 1 + (if t.value (itemAt n) = none then 128 else 0) := by
  rw [leNat, leNat, Nat.mul_zero, Nat.add_zero, Items.mapByte, itemAt_code h, BitVec.toNat_ofNat]
  cases t.value (itemAt n) with
  | none =>
    rw [Option.isSome_none, if_neg Bool.false_ne_true, if_pos rfl]
    omega
  | some v =>
    rw [Option.isSome_some, if_pos rfl, if_neg (by simp)]
    omega

/-! ### Figures, flags and items of an answer -/

section
variable (embed : BitVec 8) (a : Answer)

theorem answer_result : fieldAt (a.bytes embed) 0 1 = a.result.code := by
  rw [Answer.bytes_eq]
  exact fieldAt_flatten (a.parts_widths embed) (k := 0) rfl rfl (by cases a.result <;> decide)

theorem answer_reason : fieldAt (a.bytes embed) 1 1 = a.reason.code := by
  rw [Answer.bytes_eq]
  exact fieldAt_flatten (a.parts_widths embed) (k := 1) rfl rfl (by cases a.reason <;> decide)

theorem AnswerFlags.bits_lt (f : AnswerFlags) : f.bits < 64 := by
  have h : ∀ b n, bitAt b n ≤ 2 ^ n := fun b n => by cases b <;> simp [bitAt]
  have h0 := h f.isRepeat 0
  have h1 := h f.bonusWithheld 1
  have h2 := h f.bonusClamped 2
  have h3 := h f.cardLockedNow 3
  have h4 := h f.tillWatched 4
  have h5 := h f.withdrawLate 5
  unfold AnswerFlags.bits
  omega

theorem answer_flags : fieldAt (a.bytes embed) 2 2 = a.flags.bits := by
  rw [Answer.bytes_eq]
  exact fieldAt_flatten (a.parts_widths embed) (k := 2) rfl rfl (a.flags.bits_lt.trans (by decide))

theorem answer_approved : fieldAt (a.bytes embed) 4 4 = a.approved % 2 ^ 32 := by
  rw [Answer.bytes_eq]
  exact (fieldAt_part (a.parts_widths embed) (k := 3) rfl rfl (leBytes_length 4 _)).trans (leNat_leBytes_mod ..)

theorem answer_available : fieldAt (a.bytes embed) 8 4 = leNat (optBytes 4 a.available) := by
  rw [Answer.bytes_eq]
  exact fieldAt_part (a.parts_widths embed) (k := 4) rfl rfl (optBytes_length 4 _)

theorem answer_held : fieldAt (a.bytes embed) 12 4 = leNat (optBytes 4 a.held) := by
  rw [Answer.bytes_eq]
  exact fieldAt_part (a.parts_widths embed) (k := 5) rfl rfl (optBytes_length 4 _)

theorem answer_bonus : fieldAt (a.bytes embed) 16 4 = a.bonus % 2 ^ 32 := by
  rw [Answer.bytes_eq]
  exact (fieldAt_part (a.parts_widths embed) (k := 6) rfl rfl (leBytes_length 4 _)).trans (leNat_leBytes_mod ..)

theorem answer_refIndex : fieldAt (a.bytes embed) 20 4 = leNat (optBytes 4 (a.ref.map (·.index))) := by
  rw [Answer.bytes_eq]
  exact fieldAt_part (a.parts_widths embed) (k := 7) rfl rfl (optBytes_length 4 _)

theorem answer_refGen : fieldAt (a.bytes embed) 24 1 = (a.ref.map (·.gen)).getD 0 % 256 := by
  rw [Answer.bytes_eq]
  exact (fieldAt_part (a.parts_widths embed) (k := 8) rfl rfl (leBytes_length 1 _)).trans (leNat_leBytes_mod ..)

/-- The kind map and the places of a half. -/
theorem answer_trailer {q : Nat} (hq : q < 4) :
    ((a.bytes embed).drop (28 + q)).take 1 = ((trailer embed a.items).1.drop q).take 1 ∧
      ((a.bytes embed).drop (32 + 8 * q)).take 8 = ((trailer embed a.items).2.drop (8 * q)).take 8 := by
  have hmap := flatten_slice (a.parts_widths embed) (k := 10) (i := 28) (x := (trailer embed a.items).1) rfl rfl
  have hplaces := flatten_slice (a.parts_widths embed) (k := 11) (i := 32) (x := (trailer embed a.items).2) rfl rfl
  rw [trailer_map_length] at hmap
  rw [trailer_places_length] at hplaces
  rw [Answer.bytes_eq]
  refine ⟨?_, ?_⟩
  · rw [← slice_slice _ (n := 4) (by omega), hmap]
  · rw [← slice_slice _ (n := 32) (by omega), hplaces]

/-- What a trailer place holds (R160). -/
theorem answer_item {q : Nat} (hq : q < 4) :
    (∀ n, ((List.range 7).filter (fun n => embed.getLsbD n))[q]? = some n →
      fieldAt (a.bytes embed) (28 + q) 1 = n + 1 + (if a.items.value (itemAt n) = none then 128 else 0) ∧
      ((a.bytes embed).drop (32 + 8 * q)).take 8 = (a.items.value (itemAt n)).getD (zeroBytes 8)) ∧
    (((List.range 7).filter (fun n => embed.getLsbD n))[q]? = none →
      fieldAt (a.bytes embed) (28 + q) 1 = 128 ∧ ((a.bytes embed).drop (32 + 8 * q)).take 8 = zeroBytes 8) := by
  obtain ⟨hmap, hplace⟩ := answer_trailer embed a hq
  have hget := placedItems_get (embed := embed) hq
  refine ⟨fun n hn => ?_, fun hnone => ?_⟩
  · rw [hn] at hget
    obtain ⟨hbyte, hvalue⟩ := trailer_chosen (t := a.items) hget
    have hlt : n < 7 := List.mem_range.mp (List.mem_filter.mp (List.mem_of_getElem? hn)).1
    rw [fieldAt, hmap, hplace, hbyte, hvalue]
    exact ⟨leNat_mapByte hlt, rfl⟩
  · rw [hnone] at hget
    obtain ⟨hbyte, hvalue⟩ := trailer_padding (t := a.items) hq hget
    rw [fieldAt, hmap, hplace, hbyte, hvalue]
    exact ⟨rfl, rfl⟩

end

/-- The flag bits one by one (11.1). -/
theorem AnswerFlags.bits_testBit (f : AnswerFlags) :
    f.bits.testBit 0 = f.isRepeat ∧ f.bits.testBit 1 = f.bonusWithheld ∧ f.bits.testBit 2 = f.bonusClamped ∧
      f.bits.testBit 3 = f.cardLockedNow ∧ f.bits.testBit 4 = f.tillWatched ∧ f.bits.testBit 5 = f.withdrawLate ∧
      ∀ b, 6 ≤ b → f.bits.testBit b = false := by
  have hsix : ∀ r w c l t d : Bool, (let n := bitAt r 0 + bitAt w 1 + bitAt c 2 + bitAt l 3 + bitAt t 4 + bitAt d 5
      n.testBit 0 = r ∧ n.testBit 1 = w ∧ n.testBit 2 = c ∧ n.testBit 3 = l ∧ n.testBit 4 = t ∧ n.testBit 5 = d) := by decide
  obtain ⟨h0, h1, h2, h3, h4, h5⟩ := hsix f.isRepeat f.bonusWithheld f.bonusClamped f.cardLockedNow f.tillWatched f.withdrawLate
  refine ⟨h0, h1, h2, h3, h4, h5, fun b hb => Nat.testBit_lt_two_pow (f.bits_lt.trans_le ?_)⟩
  calc 64 = 2 ^ 6 := rfl
    _ ≤ 2 ^ b := Nat.pow_le_pow_right (by decide) hb

end Sys2Proof.Machine
end

section
/-! PROOFS. What the commit point fixes, as a whole (spec/06, R124; O53). -/

namespace Sys2Proof.Machine

/-- A dated lot that has not lapsed. -/
def Lot.dated (today : Nat) (l : Lot) : Bool := match l.expiry with | some d => decide (today ≤ d) | none => false

/-- The lot summary names the first unlapsed dated lot (R8). -/
theorem lotSummary_eq (today : Nat) (ls : List Lot) :
    lotSummary today ls = (ls.find? (Lot.dated today)).map (fun l => (l.expiry.getD 0, l.amount)) := by
  have htest : (fun l : Lot => decide ((!l.lapsed today) = true ∧ l.isBonus = true)) = Lot.dated today := funext fun l => by
    unfold Lot.dated Lot.lapsed Lot.isBonus
    cases l.expiry <;> simp
  rw [lotSummary, unlapsed, List.find?_filter, htest]
  cases hfind : ls.find? (Lot.dated today) with
  | none => rfl
  | some l =>
    have hdated := List.find?_some hfind
    cases hexpiry : l.expiry with
    | none => simp [Lot.dated, hexpiry] at hdated
    | some d => simp [hexpiry]

/-- A card row with its last movement number, where a commit gives one (R19). -/
def CardRow.withMovement (c : CardRow) : Option Nat → CardRow
  | none => c
  | some m => { c with lastMovement := m }

/-- The STATUS entry of a plan (R45). -/
def statusEntries : Option (CardState × CardState) → List (JournalKind × List Nat)
  | none => []
  | some st => [(.status, [st.1.code, st.2.code])]

section
variable (k : Work) (p : Plan) (stamp : Reading) (n : Nat)

/-- What the entries of a commit share (R166). -/
def commonOf : EntryCommon :=
  { stamp := stamp, programme := (p.card.getD {}).programme, source := k.source, till := entryTill k p, cardRow := k.cardLock.getD 0,
    balanceAfter := balance p.today (p.card.getD {}).lots, heldAfter := (p.card.getD {}).held }

theorem sealPlan_entries : (sealPlan k p stamp n).entries = numberEntries (commonOf k p stamp) p.entries n (p.card.getD {}).lastMovement := rfl

/-- The movement number that a commit gives its answer, its card and its recent-list entry. -/
def sealedMovement : Option Nat := (sealPlan k p stamp n).entries.getLast?.map (·.number)

theorem sealPlan_card : (sealPlan k p stamp n).card =
    p.card.map (fun c => c.withMovement (sealedMovement k p stamp n)) := by
  refine congrArg (fun f => Option.map f p.card) (funext fun c => ?_)
  unfold sealedMovement
  rw [sealPlan_entries]
  unfold commonOf
  generalize Option.map _ _ = m
  cases m <;> rfl

theorem sealPlan_till : (sealPlan k p stamp n).till = commitTill k p (sealedMovement k p stamp n) := rfl

/-- The till row an answer speaks of (R101). -/
def answerTill : Option TillRow := if k.till.isSome then (sealPlan k p stamp n).till else none

/-- The answer of a sealed plan. -/
def sealedAnswer : Answer := commitAnswer k p (sealedMovement k p stamp n) (answerTill k p stamp n)

theorem sealPlan_half (h : k.isRequest = true) : (sealPlan k p stamp n).half = (sealedAnswer k p stamp n).bytes k.embed := if_pos h

/-- Each item of the answer has the value the statement gives it. -/
theorem sealedAnswer_item {m : Nat} (h : m < 7) :
    (sealedAnswer k p stamp n).items.value (itemAt m) = answerItem k p (sealPlan k p stamp n) m := by
  have hpad : ∀ bs : List Byte, padTo 8 bs = bs ++ zeroBytes (8 - bs.length) := fun _ => rfl
  interval_cases m
  · rfl
  · change Option.map _ (match p.repeated with | some e => e.movement | none => sealedMovement k p stamp n) = _
    cases hrepeated : p.repeated <;> simp [answerItem, hrepeated, hpad, sealedMovement]
  · change Option.map _ (Option.map _ k.selection) = _
    cases hselection : k.selection <;> simp [answerItem, hselection, hpad]
  · change Option.map _ (Option.map _ (answerTill k p stamp n)) = Option.map _ (answerTill k p stamp n)
    cases answerTill k p stamp n <;> simp [hpad]
  · change Option.map _ (match (if p.seen then p.card else none), k.selection with
      | some c, some sel => if c.code.isSome then some (sel.programme.triesLimit - c.tries) else none
      | _, _ => none) = _
    unfold answerItem
    cases (if p.seen then p.card else none) with
    | none => rfl
    | some c =>
      cases k.selection with
      | none => rfl
      | some sel => cases hcode : c.code <;> simp [hcode, hpad]
  · rfl
  · change Option.map _ (Option.bind (if p.seen then p.card else none) (fun c => lotSummary p.today c.lots)) = _
    change _ = Option.bind (if p.seen then p.card else none) (fun c => (c.lots.find? (Lot.dated p.today)).map _)
    cases (if p.seen then p.card else none) with
    | none => rfl
    | some c =>
      rw [Option.bind_some, Option.bind_some, lotSummary_eq, Option.map_map]
      refine Option.map_congr fun l _ => ?_
      simp [hpad]

theorem sealedAnswer_available : (sealedAnswer k p stamp n).available = (if p.seen then p.card else none).map (available p.today) := rfl

theorem sealedAnswer_held : (sealedAnswer k p stamp n).held = (if p.seen then p.card else none).map (·.held) := rfl

/-- TILL_WATCHED goes by the standing after the commit (R43, R101). -/
theorem sealedAnswer_watched :
    (sealedAnswer k p stamp n).flags.tillWatched = (answerTill k p stamp n).any (fun r => decide (r.standing = .watched)) := by
  change (match answerTill k p stamp n with | some (r : TillRow) => decide (r.standing = Standing.watched) | none => false) = _
  cases answerTill k p stamp n <;> rfl

/-- A figure that is absent. -/
theorem leNat_absent : leNat (optBytes 4 none) = 2 ^ 32 - 1 := by decide

theorem Plan.entries_eq : p.entries = (if p.lapsed = 0 then [] else [(.lapse, [p.lapsed])]) ++ statusEntries p.status ++ p.own := by
  unfold Plan.entries
  cases p.status <;> rfl

theorem sealedMovement_eq {M : Nat} (hM : Config.maxMovement = M) (hlow : 1 ≤ n) (hhigh : n ≤ M) :
    sealedMovement k p stamp n = if p.entries = [] then none else some (numberAfter M n (p.entries.length - 1)) :=
  numberEntries_last hM _ _ hlow hhigh

end

/-- What the commit of a till request leaves of its till row. -/
theorem commitTill_some {k : Work} {p : Plan} {movement : Option Nat} {t : TillRow} {kd : RequestKind} (ht : k.till = some t)
    (hkind : k.kind? = some kd) :
    commitTill k p movement = some { t.scored p.result p.reason p.repeated.isSome with
      recent := commitRecent k.req kd p k.rowIndex movement (t.scored p.result p.reason p.repeated.isSome).recent } := by
  simp only [commitTill, ht, hkind]

/-- Settles O53: the entries by `numberEntries_get`, the till row by what scoring and the recent list do, the half by its parts. -/
theorem commitPointFixesEntriesRowsAndAnswer : Obligations.CommitPointFixesEntriesRowsAndAnswer := by
  unfold Obligations.CommitPointFixesEntriesRowsAndAnswer
  intro k p stamp n hlow hhigh x c number kinds
  have hM : Config.maxMovement = 2 ^ 48 - 1 := rfl
  have hkinds : p.entries = kinds := by
    unfold kinds
    rw [p.entries_eq]
    cases p.status <;> rfl
  have hentries : x.entries = numberEntries (commonOf k p stamp) kinds n c.lastMovement := by rw [← hkinds]; rfl
  have hmovement : sealedMovement k p stamp n = if kinds = [] then none else some (number (kinds.length - 1)) := by
    rw [← hkinds]
    exact sealedMovement_eq k p stamp n hM hlow hhigh
  refine ⟨?_, fun j y hy => ?_, ?_, fun hnone => ?_, fun t kd ht hkind => ?_, fun hreq => ?_⟩
  · rw [hentries, numberEntries_content]
  · rw [hentries, numberEntries_get hM _ _ hlow hhigh] at hy
    obtain ⟨e, -, rfl⟩ := Option.map_eq_some_iff.mp hy
    exact ⟨rfl, rfl, rfl, rfl, rfl, rfl, rfl, rfl⟩
  · rw [show x.card = _ from sealPlan_card k p stamp n, hmovement]
    refine congrArg (fun f => Option.map f p.card) (funext fun c => ?_)
    by_cases hnone : kinds = []
    · rw [if_pos hnone, if_pos hnone, CardRow.withMovement]
    · rw [if_neg hnone, if_neg hnone, CardRow.withMovement]
  · rw [show x.till = _ from sealPlan_till k p stamp n]
    simp only [commitTill, hnone]
  · have hrow : x.till = _ := (sealPlan_till k p stamp n).trans (commitTill_some ht hkind)
    have honly := scored_only (t := t) (result := p.result) (reason := p.reason) p.repeated.isSome
    have hrecent : (t.scored p.result p.reason p.repeated.isSome).recent = t.recent := (congrArg TillRow.recent honly :)
    refine ⟨_, hrow, (congrArg TillRow.storeNo honly :), (congrArg TillRow.tillNo honly :), (congrArg TillRow.registered honly :),
      (congrArg TillRow.lastMinute honly :), fun hsame => ?_, fun hrepeated hdeclined hfault hgood => ?_, fun hrepeated happroved hgood => ?_,
      fun _ hbarred => ?_, fun hadds hreversed hahead => ?_, fun hadds => ?_, fun q hadds hreversed hahead y hy hq hne => ?_⟩
    · rcases hsame with hrepeated | ⟨hdeclined, hfault⟩
      · rw [hrepeated, scored_repeated]
        exact ⟨rfl, rfl⟩
      · have hkept : t.scored p.result p.reason p.repeated.isSome = t := by
          rw [hdeclined]
          cases p.repeated.isSome with
          | true => exact scored_repeated
          | false => exact scored_noFault hfault
        rw [hkept]
        exact ⟨rfl, rfl⟩
    · rw [hrepeated, hdeclined, Option.isSome_none, scored_fault hfault]
      exact addFault_good hgood
    · rw [hrepeated, Option.isSome_none, scored_approval happroved]
      exact takeApproval_good hgood
    · rw [scored_barred hbarred]
      exact ⟨rfl, hbarred⟩
    · exact (commitRecent_kept hadds hreversed hahead).trans hrecent
    · exact ⟨_, commitRecent_last hadds, rfl, rfl, rfl, rfl, rfl, rfl, rfl, rfl, rfl, rfl, hmovement⟩
    · exact commitRecent_reversed hadds hreversed hahead hy hq hne
  · rw [show x.half = _ from sealPlan_half k p stamp n hreq]
    refine ⟨Answer.bytes_length .., answer_result .., answer_reason .., answer_approved .., answer_bonus .., fun hseen hcard => ?_, fun hunseen => ?_,
      fun r hr => ?_, fun hnone => ?_, fun b => ?_, fun q hq => ?_⟩
    · obtain ⟨row, hrow⟩ := Option.ne_none_iff_exists'.mp hcard
      have hc : c = row := by
        change p.card.getD {} = row
        rw [hrow, Option.getD_some]
      have hfigures : (if p.seen then p.card else none) = some row := by rw [hseen, if_pos rfl, hrow]
      rw [answer_available, answer_held, sealedAnswer_available, sealedAnswer_held, hfigures, hc]
      exact ⟨leNat_leBytes_mod 4 _, leNat_leBytes_mod 4 _⟩
    · have hfigures : (if p.seen then p.card else none) = none := by
        rcases hunseen with hseen | hcard
        · rw [hseen, if_neg Bool.false_ne_true]
        · rw [hcard, ite_self]
      rw [answer_available, answer_held, sealedAnswer_available, sealedAnswer_held, hfigures]
      exact ⟨leNat_absent, leNat_absent⟩
    · rw [answer_refIndex, answer_refGen, show (sealedAnswer k p stamp n).ref = some r from hr]
      exact ⟨leNat_leBytes_mod 4 _, rfl⟩
    · rw [answer_refIndex, show (sealedAnswer k p stamp n).ref = none from hnone]
      exact leNat_absent
    · obtain ⟨h0, h1, h2, h3, h4, h5, hrest⟩ := (sealedAnswer k p stamp n).flags.bits_testBit
      rw [answer_flags]
      match b with
      | 0 => exact h0
      | 1 => exact h1
      | 2 => exact h2
      | 3 => exact h3
      | 4 => exact h4.trans (sealedAnswer_watched k p stamp n)
      | 5 => exact h5
      | b + 6 => exact hrest (b + 6) (by omega)
    · obtain ⟨hitem, hpadding⟩ := answer_item k.embed (sealedAnswer k p stamp n) hq
      refine ⟨fun m hm => ?_, hpadding⟩
      have hlt : m < 7 := List.mem_range.mp (List.mem_filter.mp (List.mem_of_getElem? hm)).1
      have hvalue : (sealedAnswer k p stamp n).items.value (itemAt m) = answerItem k p x m := sealedAnswer_item k p stamp n hlt
      rw [← hvalue]
      exact hitem m hm

end Sys2Proof.Machine
end

section
/-! PROOFS. The rebuild of the hold chains (spec/07, R138): what the placing of one row leaves, and of all of them (O13). -/

namespace Sys2Proof.Machine

/-! ### The read of a row's content -/

theorem CauseSet.add_add (c : CauseSet) (x : Cause) : (c.add x).add x = c.add x := by
  cases x <;> rfl

/-- What the read of hold row `i` leaves (R132 to R136). -/
structure RowRead (i : Nat) (s t : State) : Prop where
  contents : ∀ j, (t.hold j).val = (s.hold j).val
  others : ∀ j, j ≠ i → t.hold j = s.hold j ∧ t.isListed .hold j = s.isListed .hold j
  kept : ∀ q ∈ s.store.quarantine, q ∈ t.store.quarantine
  overflow : s.store.overflow = true → t.store.overflow = true
  listed : (s.hold i).ecc.outcome = .uncorrectable → t.isListed .hold i = true ∨ t.store.overflow = true
  readable : s.isListed .hold i = true ∨ (s.hold i).ecc.outcome ≠ .uncorrectable →
    t.store.quarantine = s.store.quarantine ∧ t.store.overflow = s.store.overflow ∧ t.notices = s.notices ∧ t.link = s.link
  raised : t.notices = s.notices ∨ t.notices = { s.notices with raised := s.notices.raised.add .store }
  memory : ∀ y, (∀ a, s.control.engineWords = some a → y < a + 264 ∨ a + 268 ≤ y) → Memory.read t.link.mem y = Memory.read s.link.mem y
  link : { t.link with mem := s.link.mem, msiSent := s.link.msiSent } = s.link
  store : { t.store with holds := s.store.holds, quarantine := s.store.quarantine, overflow := s.store.overflow } = s.store
  rest : { t with store := s.store, notices := s.notices, link := s.link } = s

theorem RowRead.refl {i : Nat} {s : State} (h : s.isListed .hold i = true ∨ (s.hold i).ecc.outcome ≠ .uncorrectable) : RowRead i s s :=
  ⟨fun _ => rfl, fun _ _ => ⟨rfl, rfl⟩, fun _ hq => hq, id, fun hlost => .inl (h.resolve_right (not_not.mpr hlost)), fun _ => ⟨rfl, rfl, rfl, rfl⟩,
    .inl rfl, fun _ _ => rfl, rfl, rfl, rfl⟩

/-- An unreadable row joins the list where there is room, and else raises the overflow flag (R135). -/
theorem quarantineJoin_rowRead {i : Nat} {s : State} (hlisted : s.isListed .hold i = false) (hlost : (s.hold i).ecc.outcome = .uncorrectable) :
    RowRead i s (quarantineJoin .hold i s) := by
  have hnot : ¬ (s.isListed .hold i = true ∨ (s.hold i).ecc.outcome ≠ .uncorrectable) := by simp [hlisted, hlost]
  unfold quarantineJoin
  rw [hlisted, if_neg Bool.false_ne_true]
  split
  · generalize hq : s.store.quarantine ++ [{ kind := .hold, index := i, listedAt := if s.clock.set then some s.clock.now else none }] = q
    obtain ⟨n, hraise, -⟩ := raiseCause_only .store (s.setStore { s.store with quarantine := q })
    obtain ⟨m, hcount, -, hmem⟩ := writeQuarantineCount_only (raiseCause .store (s.setStore { s.store with quarantine := q }))
    rw [hraise] at hcount hmem
    rw [hraise, hcount]
    have hin : ∀ j, q.any (fun x => decide (x.kind = .hold) && decide (x.index = j)) = (s.isListed .hold j || decide (i = j)) := fun j => by
      rw [← hq, List.any_append]
      simp [State.isListed]
    refine ⟨fun _ => rfl, fun j hj => ⟨rfl, ?_⟩, fun x hx => ?_, id, fun _ => .inl ?_, fun h => absurd h hnot, .inr rfl, hmem, rfl, rfl, rfl⟩
    · exact (hin j).trans (by rw [decide_eq_false (Ne.symm hj), Bool.or_false])
    · change x ∈ q
      rw [← hq]
      exact List.mem_append_left _ hx
    · exact (hin i).trans (by rw [decide_eq_true rfl, Bool.or_true])
  · split
    · next hfull =>
      exact ⟨fun _ => rfl, fun _ _ => ⟨rfl, rfl⟩, fun _ hq => hq, id, fun _ => .inr hfull, fun _ => ⟨rfl, rfl, rfl, rfl⟩, .inl rfl, fun _ _ => rfl,
        rfl, rfl, rfl⟩
    · obtain ⟨n, hraise, -⟩ := raiseCause_only .store (s.setStore { s.store with overflow := true })
      rw [hraise]
      exact ⟨fun _ => rfl, fun _ _ => ⟨rfl, rfl⟩, fun _ hq => hq, fun _ => rfl, fun _ => .inr rfl, fun h => absurd h hnot, .inr rfl, fun _ _ => rfl,
        rfl, rfl, rfl⟩

/-- A row that reads corrected is written back (R133). -/
theorem putHold_rowRead {i : Nat} {s : State} (h : (s.hold i).ecc.outcome ≠ .uncorrectable) : RowRead i s (s.putHold i (s.hold i).val) := by
  have hother : ∀ j, j ≠ i → (s.putHold i (s.hold i).val).hold j = s.hold j := fun j hj => Sparse.get_set_other _ _ _ hj
  refine ⟨fun j => ?_, fun j hj => ⟨hother j hj, rfl⟩, fun _ hq => hq, id, fun hlost => absurd hlost h, fun _ => ⟨rfl, rfl, rfl, rfl⟩, .inl rfl,
    fun _ _ => rfl, rfl, rfl, rfl⟩
  by_cases hj : j = i
  · rw [hj]
    have hsame : (s.putHold i (s.hold i).val).hold i = { val := (s.hold i).val, ecc := .clean } := Sparse.get_set_same ..
    rw [hsame]
  · rw [hother j hj]

/-- A row is read unless it is listed or uncorrectable. -/
theorem readHold_rowRead (i : Nat) (s : State) : RowRead i s (readHold s i).1 ∧
    (readHold s i).2 = if s.isListed .hold i = true ∨ (s.hold i).ecc.outcome = .uncorrectable then none else some (s.hold i).val := by
  unfold readHold
  by_cases hlisted : s.isListed .hold i = true
  · rw [if_pos hlisted, if_pos (.inl hlisted)]
    exact ⟨.refl (.inl hlisted), rfl⟩
  · rw [if_neg hlisted]
    cases hecc : (s.hold i).ecc.outcome with
    | clean =>
      rw [if_neg (by simp [hlisted])]
      exact ⟨.refl (.inr (by simp [hecc])), rfl⟩
    | corrected =>
      rw [if_neg (by simp [hlisted])]
      exact ⟨putHold_rowRead (by simp [hecc]), rfl⟩
    | uncorrectable =>
      rw [if_pos (.inr rfl)]
      exact ⟨quarantineJoin_rowRead (by simpa using hlisted) hecc, rfl⟩

/-! ### The chain of a row -/

/-- The chain of the filing rule (R77). -/
def filedIn (p : Option Int) (d : Nat) : ChainId :=
  match p with | none => .due | some p => if p < (d : Int) then .bucket (d % 4096) else .due

theorem fileRow_chain (i d : Nat) (s : State) : fileRow i d s = appendRow (filedIn s.holds.sweep d) i s := by
  unfold fileRow filedIn
  cases s.holds.sweep with
  | none => rfl
  | some p =>
    dsimp only
    split <;> rfl

theorem rebuiltIn_free {s : State} {p : Option Int} {i : Nat}
    (h : s.isListed .hold i = true ∨ (s.hold i).ecc.outcome = .uncorrectable ∨ (s.hold i).val.isOpen = false) : s.rebuiltIn p i = .free := if_pos h

theorem rebuiltIn_open {s : State} {p : Option Int} {i : Nat}
    (h : ¬ (s.isListed .hold i = true ∨ (s.hold i).ecc.outcome = .uncorrectable ∨ (s.hold i).val.isOpen = false)) :
    s.rebuiltIn p i = filedIn p (s.hold i).val.deadline := by
  refine (if_neg h).trans ?_
  cases p <;> rfl

/-- The placing of a row is its read and an append to the chain the statement names (R77, R138). -/
theorem rebuildRow_eq (i : Nat) (s : State) : rebuildRow s i = appendRow (s.rebuiltIn s.holds.sweep i) i (readHold s i).1 := by
  obtain ⟨hread, hvalue⟩ := readHold_rowRead i s
  have hsweep : (readHold s i).1.holds.sweep = s.holds.sweep := (congrArg (fun t : State => t.holds.sweep) hread.rest :)
  unfold rebuildRow
  generalize readHold s i = a at hread hvalue hsweep
  obtain ⟨t, r⟩ := a
  dsimp only at hvalue hsweep ⊢
  by_cases hunread : s.isListed .hold i = true ∨ (s.hold i).ecc.outcome = .uncorrectable
  · rw [if_pos hunread] at hvalue
    rw [hvalue, rebuiltIn_free (hunread.elim .inl fun h => .inr (.inl h))]
  · rw [if_neg hunread] at hvalue
    rw [hvalue]
    dsimp only
    cases hopen : (s.hold i).val.isOpen with
    | false => rw [if_neg Bool.false_ne_true, rebuiltIn_free (.inr (.inr hopen))]
    | true => rw [if_pos rfl, rebuiltIn_open (by simpa [hopen] using hunread), fileRow_chain, hsweep]

/-! ### A chain's rows in order -/

/-- A chain holds rows in order, linked both ways (R78). -/
structure ChainHolds (l : List Nat) (c : ChainId) (t : State) : Prop where
  ends : t.chain c = { head := l.head?, tail := l.getLast?, count := l.length }
  links : ∀ j x, l[j]? = some x → nextTarget x (t.linkWord x).word = l[j + 1]? ∧
    prevTarget x (t.linkWord x).word = (if j = 0 then none else l[j - 1]?)

section
variable {l : List Nat} {c d : ChainId} {i : Nat} {t : State}

/-- A row appended to the chain that holds it. -/
theorem ChainHolds.append (h : ChainHolds l c t) (hnodup : l.Nodup) (hi : i ∉ l) : ChainHolds (l ++ [i]) c (appendRow c i t) := by
  have htail : (t.chain c).tail = l.getLast? := congrArg Chain.tail h.ends
  have hne : (t.chain c).tail ≠ some i := fun htail' => hi (List.mem_of_getLast? (htail.symm.trans htail'))
  refine ⟨?_, fun j x hx => ?_⟩
  · rw [appendRow_chain_same, h.ends]
    cases l with
    | nil => rfl
    | cons a l => simp [Chain.appended, List.getLast?_cons]
  · rw [appendRow_linkWord hne]
    by_cases hj : j < l.length
    · rw [List.getElem?_append_left hj] at hx
      have hxi : x ≠ i := fun hxi => hi (hxi ▸ List.mem_of_getElem? hx)
      obtain ⟨hnext, hprev⟩ := h.links j x hx
      rw [if_neg hxi]
      have hprev' : (if j = 0 then none else (l ++ [i])[j - 1]?) = (if j = 0 then none else l[j - 1]?) := by
        rw [List.getElem?_append_left (by omega)]
      rw [hprev']
      by_cases hlast : j + 1 = l.length
      · have hx' : l.getLast? = some x := by
          rw [List.getLast?_eq_getElem?, ← hlast, Nat.add_sub_cancel]
          exact hx
        rw [if_pos (htail.trans hx'), List.getElem?_append_right (by omega), hlast, Nat.sub_self]
        exact ⟨nextTarget_of_nextLink rfl, hprev⟩
      · have hx' : l.getLast? ≠ some x := fun hx' => by
          rw [List.getLast?_eq_getElem?] at hx'
          have hj' := (List.getElem?_inj hj hnodup).mp (hx.trans hx'.symm)
          omega
        rw [if_neg (by rw [htail]; exact hx'), List.getElem?_append_left (by omega)]
        exact ⟨hnext, hprev⟩
    · have hle : l.length ≤ j := not_lt.mp hj
      rw [List.getElem?_append_right hle] at hx
      have hj' : j = l.length := by
        have hlt := (List.getElem?_eq_some_iff.mp hx).1
        rw [List.length_singleton] at hlt
        omega
      subst hj'
      rw [Nat.sub_self] at hx
      obtain rfl : i = x := Option.some.inj hx
      rw [if_pos rfl, List.getElem?_eq_none (by simp), htail]
      refine ⟨rfl, (prevTarget_of_prevLink rfl).trans ?_⟩
      cases l with
      | nil => rfl
      | cons a l => rw [if_neg (by simp), List.getElem?_append_left (by simp), List.getLast?_eq_getElem?]

/-- A row appended to another chain. -/
theorem ChainHolds.other (h : ChainHolds l c t) (hcd : c ≠ d) (hi : i ∉ l) (htail : ∀ x, (t.chain d).tail = some x → x ∉ l ∧ x ≠ i) :
    ChainHolds l c (appendRow d i t) := by
  have hne : (t.chain d).tail ≠ some i := fun h => (htail i h).2 rfl
  refine ⟨(appendRow_chain_other i t hcd).trans h.ends, fun j x hx => ?_⟩
  have hmem := List.mem_of_getElem? hx
  rw [appendRow_linkWord hne, if_neg (ne_of_mem_of_not_mem hmem hi), if_neg (fun e => (htail x e).1 hmem)]
  exact h.links j x hx

/-- A chain and link words unchanged. -/
theorem ChainHolds.congr {u : State} (h : ChainHolds l c t) (hholds : u.holds = t.holds) (hlinks : u.store.links = t.store.links) :
    ChainHolds l c u := by
  have hchain : u.chain c = t.chain c := by cases c <;> simp only [State.chain, hholds]
  have hlink : ∀ x, u.linkWord x = t.linkWord x := fun x => by rw [State.linkWord, State.linkWord, hlinks]
  exact ⟨hchain.trans h.ends, fun j x hx => by rw [hlink]; exact h.links j x hx⟩

end

section
variable {s : State} {p : Option Int}

theorem mem_rebuiltRows {n x : Nat} {c : ChainId} : x ∈ s.rebuiltRows p n c ↔ x < n ∧ s.rebuiltIn p x = c := by
  simp [State.rebuiltRows]

theorem rebuiltRows_nodup (n : Nat) (c : ChainId) : (s.rebuiltRows p n c).Nodup := List.nodup_range.filter _

theorem rebuiltRows_succ (n : Nat) (c : ChainId) :
    s.rebuiltRows p (n + 1) c = s.rebuiltRows p n c ++ if s.rebuiltIn p n = c then [n] else [] := by
  rw [State.rebuiltRows, List.range_succ, List.filter_append]
  by_cases h : s.rebuiltIn p n = c <;> simp [State.rebuiltRows, h]

end

end Sys2Proof.Machine
end

section
/-! PROOFS. The rebuild of the hold chains as a whole (spec/07, R138; O13). -/

namespace Sys2Proof.Machine

/-- The rows 0 to `m` - 1 of `s` placed, and read for it. -/
structure RowsPlaced (m : Nat) (s t : State) : Prop where
  chains : ∀ c, ChainHolds (s.rebuiltRows s.holds.sweep m c) c t
  fresh : ∀ i, i < m → (t.linkWord i).one = .clean ∧ (t.linkWord i).two = .clean
  contents : ∀ i, (t.hold i).val = (s.hold i).val
  ahead : ∀ i, m ≤ i → t.hold i = s.hold i ∧ t.isListed .hold i = s.isListed .hold i
  sweep : t.holds.sweep = s.holds.sweep
  hand : t.holds.hand = s.holds.hand
  kept : ∀ q ∈ s.store.quarantine, q ∈ t.store.quarantine
  listed : ∀ i, i < m → (s.hold i).ecc.outcome = .uncorrectable → t.isListed .hold i = true ∨ t.store.overflow = true
  allRead : (∀ i, i < m → s.isListed .hold i = true ∨ (s.hold i).ecc.outcome ≠ .uncorrectable) →
    t.store.quarantine = s.store.quarantine ∧ t.store.overflow = s.store.overflow ∧ t.notices = s.notices ∧ t.link = s.link
  raised : t.notices = s.notices ∨ t.notices = { s.notices with raised := s.notices.raised.add .store }
  memory : ∀ y, (∀ a, s.control.engineWords = some a → y < a + 264 ∨ a + 268 ≤ y) → Memory.read t.link.mem y = Memory.read s.link.mem y
  link : { t.link with mem := s.link.mem, msiSent := s.link.msiSent } = s.link
  store : { t.store with
    holds := s.store.holds, links := s.store.links, quarantine := s.store.quarantine, overflow := s.store.overflow } = s.store
  rest : { t with store := s.store, holds := s.holds, notices := s.notices, link := s.link } = s

section
variable {m i : Nat} {s t u : State} {c : ChainId}

/-- A row that is in the list stays in it. -/
theorem RowRead.staysListed (h : RowRead i s t) {j : Nat} (hj : s.isListed .hold j = true) : t.isListed .hold j = true := by
  obtain ⟨q, hq, hrow⟩ := List.any_eq_true.mp hj
  exact List.any_eq_true.mpr ⟨q, h.kept q hq, hrow⟩

theorem rebuiltIn_congr {p : Option Int} (hhold : t.hold i = s.hold i) (hlisted : t.isListed .hold i = s.isListed .hold i) :
    t.rebuiltIn p i = s.rebuiltIn p i := by
  simp only [State.rebuiltIn, hhold, hlisted]

/-- The chains with one more row in the one that it belongs to. -/
theorem chains_succ (h : ∀ c, ChainHolds (s.rebuiltRows s.holds.sweep m c) c t) (c : ChainId) :
    ChainHolds (s.rebuiltRows s.holds.sweep (m + 1) c) c (appendRow (s.rebuiltIn s.holds.sweep m) m t) := by
  have hnew : ∀ d, m ∉ s.rebuiltRows s.holds.sweep m d := fun d hm => lt_irrefl m (mem_rebuiltRows.mp hm).1
  rw [rebuiltRows_succ]
  by_cases hc : s.rebuiltIn s.holds.sweep m = c
  · rw [if_pos hc, ← hc]
    exact (h _).append (rebuiltRows_nodup m _) (hnew _)
  · rw [if_neg hc, List.append_nil]
    refine (h c).other (Ne.symm hc) (hnew c) fun x hx => ?_
    have htail : (t.chain (s.rebuiltIn s.holds.sweep m)).tail = _ := congrArg Chain.tail (h _).ends
    have hmem := List.mem_of_getLast? (htail.symm.trans hx)
    obtain ⟨hlt, hin⟩ := mem_rebuiltRows.mp hmem
    exact ⟨fun hx => hc (hin.symm.trans (mem_rebuiltRows.mp hx).2), hlt.ne⟩

/-- An append freshens the link words that it writes and leaves the others. -/
theorem appendRow_fresh (hne : (t.chain c).tail ≠ some m) (h : ∀ i, i < m → (t.linkWord i).one = .clean ∧ (t.linkWord i).two = .clean) :
    ∀ i, i < m + 1 → ((appendRow c m t).linkWord i).one = .clean ∧ ((appendRow c m t).linkWord i).two = .clean := by
  intro i hi
  rw [appendRow_linkWord hne]
  split
  · exact ⟨rfl, rfl⟩
  · next hm =>
    split
    · exact ⟨rfl, rfl⟩
    · exact h i (by omega)

/-- One row more (R138). -/
theorem RowsPlaced.succ (h : RowsPlaced m s t) : RowsPlaced (m + 1) s (rebuildRow t m) := by
  obtain ⟨hhold, hlisted⟩ := h.ahead m le_rfl
  rw [rebuildRow_eq, h.sweep, rebuiltIn_congr hhold hlisted]
  have hread := (readHold_rowRead m t).1
  generalize (readHold t m).1 = u at hread
  have huholds : u.holds = t.holds := (congrArg State.holds hread.rest :)
  have hulinks : u.store.links = t.store.links := (congrArg Store.links hread.store :)
  have hulink : ∀ i, u.linkWord i = t.linkWord i := fun i => by rw [State.linkWord, State.linkWord, hulinks]
  have hchains : ∀ c, ChainHolds (s.rebuiltRows s.holds.sweep m c) c u := fun c => (h.chains c).congr huholds hulinks
  have hne : (u.chain (s.rebuiltIn s.holds.sweep m)).tail ≠ some m := fun htail => by
    have hends : (u.chain (s.rebuiltIn s.holds.sweep m)).tail = _ := congrArg Chain.tail (hchains _).ends
    exact lt_irrefl m (mem_rebuiltRows.mp (List.mem_of_getLast? (hends.symm.trans htail))).1
  have hnext := chains_succ hchains
  have hfresh := appendRow_fresh hne fun i hi => by rw [hulink]; exact h.fresh i hi
  obtain ⟨hsweep, hhand⟩ := appendRow_sweep_hand (s.rebuiltIn s.holds.sweep m) m u
  have honly := (appendRow_chainStep (s.rebuiltIn s.holds.sweep m) m).1 u
  have honly : ChainsOnly u (appendRow (s.rebuiltIn s.holds.sweep m) m u) := honly
  generalize appendRow (s.rebuiltIn s.holds.sweep m) m u = v at hnext hfresh hsweep hhand honly ⊢
  have hvhold : ∀ i, v.hold i = u.hold i := honly.hold
  have hvstore : v.store = { u.store with links := v.store.links } := (congrArg State.store honly :)
  have hvquarantine : v.store.quarantine = u.store.quarantine := (congrArg Store.quarantine hvstore :)
  have hvoverflow : v.store.overflow = u.store.overflow := (congrArg Store.overflow hvstore :)
  have hvlisted : ∀ i, v.isListed .hold i = u.isListed .hold i := fun i => by rw [State.isListed, State.isListed, hvquarantine]
  have hvnotices : v.notices = u.notices := (congrArg State.notices honly :)
  have hvlink : v.link = u.link := (congrArg State.link honly :)
  have htcontrol : t.control = s.control := (congrArg State.control h.rest :)
  refine ⟨hnext, hfresh, fun i => ?_, fun i hi => ⟨?_, ?_⟩, ?_, ?_, fun q hq => ?_, fun i hi hlost => ?_, fun hall => ?_, ?_, fun y hy => ?_, ?_, ?_, ?_⟩
  · rw [hvhold, hread.contents, h.contents]
  · rw [hvhold, (hread.others i (by omega)).1, (h.ahead i (by omega)).1]
  · rw [hvlisted, (hread.others i (by omega)).2, (h.ahead i (by omega)).2]
  · rw [hsweep, huholds, h.sweep]
  · rw [hhand, huholds, h.hand]
  · rw [hvquarantine]
    exact hread.kept q (h.kept q hq)
  · rw [hvlisted, hvoverflow]
    by_cases him : i = m
    · subst him
      exact hread.listed (by rw [hhold]; exact hlost)
    · exact (h.listed i (by omega) hlost).imp (fun hin => hread.staysListed hin) hread.overflow
  · obtain ⟨hq, ho, hn, hl⟩ := h.allRead fun i hi => hall i (by omega)
    obtain ⟨hq', ho', hn', hl'⟩ := hread.readable (by rw [hhold, hlisted]; exact hall m (by omega))
    exact ⟨hvquarantine.trans (hq'.trans hq), hvoverflow.trans (ho'.trans ho), hvnotices.trans (hn'.trans hn), hvlink.trans (hl'.trans hl)⟩
  · rw [hvnotices]
    rcases h.raised with ht | ht <;> rcases hread.raised with hu | hu <;> rw [hu, ht]
    · exact .inl rfl
    · exact .inr rfl
    · exact .inr rfl
    · exact .inr (by simp only [CauseSet.add_add])
  · rw [hvlink, hread.memory y (by rw [htcontrol]; exact hy), h.memory y hy]
  · rw [hvlink]
    exact (congrArg (fun l : Link => { l with mem := s.link.mem, msiSent := s.link.msiSent }) hread.link :).trans h.link
  · refine (congrArg (fun st : Store => { st with
      holds := s.store.holds, links := s.store.links, quarantine := s.store.quarantine, overflow := s.store.overflow }) hvstore :).trans ?_
    exact (congrArg (fun st : Store => { st with
      holds := s.store.holds, links := s.store.links, quarantine := s.store.quarantine, overflow := s.store.overflow }) hread.store :).trans h.store
  · refine (congrArg (fun w : State => { w with store := s.store, holds := s.holds, notices := s.notices, link := s.link }) honly :).trans ?_
    exact (congrArg (fun w : State => { w with store := s.store, holds := s.holds, notices := s.notices, link := s.link }) hread.rest :).trans h.rest

/-- The chains cleared. -/
theorem rowsPlaced_none (s : State) : RowsPlaced 0 s (s.setHolds { s.holds with free := {}, due := {}, buckets := [] }) := by
  refine ⟨fun c => ⟨?_, fun j x hx => by simp [State.rebuiltRows] at hx⟩, fun i hi => absurd hi (Nat.not_lt_zero i), fun _ => rfl,
    fun _ _ => ⟨rfl, rfl⟩, rfl, rfl, fun _ hq => hq, fun i hi => absurd hi (Nat.not_lt_zero i), fun _ => ⟨rfl, rfl, rfl, rfl⟩, .inl rfl, fun _ _ => rfl,
    rfl, rfl, rfl⟩
  cases c <;> rfl

theorem foldl_rebuildRow (m : Nat) (s : State) :
    RowsPlaced m s ((List.range m).foldl rebuildRow (s.setHolds { s.holds with free := {}, due := {}, buckets := [] })) := by
  induction m with
  | zero => exact rowsPlaced_none s
  | succ m ih =>
    rw [List.range_succ, List.foldl_append]
    exact ih.succ

/-- The rebuild places every row and clears the mark. -/
theorem rebuildChains_placed (s : State) : ∃ t, rebuildChains s = t.putHeader { s.header with damaged := false } ∧ RowsPlaced s.holdRows s t := by
  have hplaced := foldl_rebuildRow s.holdRows s
  have heq : rebuildChains s = ((List.range s.holdRows).foldl rebuildRow (s.setHolds { s.holds with free := {}, due := {}, buckets := [] })).putHeader
      { ((List.range s.holdRows).foldl rebuildRow (s.setHolds { s.holds with free := {}, due := {}, buckets := [] })).header with damaged := false } := rfl
  generalize (List.range s.holdRows).foldl rebuildRow (s.setHolds { s.holds with free := {}, due := {}, buckets := [] }) = t at hplaced heq
  have hheader : t.header = s.header := (congrArg (fun st : Store => st.header.header) hplaced.store :)
  rw [hheader] at heq
  exact ⟨t, heq, hplaced⟩

end

end Sys2Proof.Machine
end

section
/-! PROOFS. Steps 1 to 4 of STARTING (spec/10, R176, R183, R184; spec/04, R85, R86; spec/07, R131, R138; O13). -/

namespace Sys2Proof.Machine

/-! ### The clock take (R176) -/

/-- The buckets' moves leave sweep, hand list and free chain. -/
theorem moveAllBuckets_holds (p : Int) (s : State) :
    { (moveAllBuckets p s).holds with due := s.holds.due, buckets := s.holds.buckets } = s.holds := by
  have hfirst : ∀ n, { (moveBuckets p n s).holds with due := s.holds.due, buckets := s.holds.buckets } = s.holds := fun n => by
    induction n with
    | zero => rfl
    | succ n ih =>
      rw [moveBuckets_succ]
      have hjoined := (concatBucket_joined (bucketOf (p + 1 + (n : Int))) (moveBuckets p n s)).holds
      exact (congrArg (fun h : HoldTable => { h with due := s.holds.due, buckets := s.holds.buckets }) hjoined :).trans ih
  rw [moveAllBuckets_eq]
  exact hfirst 4096

/-- A step goes forward and leaves the sweep 4096 minutes or more behind (R85). -/
def FarStep (d : Directory) (s : State) (now : Nat) (p : Int) : Prop :=
  d.clockTake = 1 ∧ s.clock.set = true ∧ s.holds.sweep = some p ∧ s.clock.now < now ∧ 4096 ≤ (now : Int) - p

/-- What the clock take leaves (R85, R86, R176). -/
structure ClockTaken (d : Directory) (s t : State) : Prop where
  clock : t.clock =
    if d.clockTake = 1 then { phase := 0, tick := 0, second := 0, minute := d.startMinute, day := d.startDay, set := true } else s.clock
  kept : d.clockTake ≠ 1 → t.holds.sweep = s.holds.sweep
  first : d.clockTake = 1 → s.clock.set = false → t.holds.sweep = some (t.clock.now : Int)
  step : d.clockTake = 1 → ∀ p : Int, s.clock.set = true → s.holds.sweep = some p → t.holds.sweep =
    some (if t.clock.now < s.clock.now then min p ((t.clock.now : Int) - 1)
      else if s.clock.now < t.clock.now ∧ 4096 ≤ (t.clock.now : Int) - p then (t.clock.now : Int) else p)
  holds : { t.holds with due := s.holds.due, buckets := s.holds.buckets, sweep := s.holds.sweep } = s.holds
  store : { t.store with links := s.store.links } = s.store
  chains : s.header.damaged = false → ∀ x, SameChains s x → ∃ u, ((∀ p, ¬ FarStep d s t.clock.now p) → u = x) ∧
    (∀ p, FarStep d s t.clock.now p → AllBucketsJoined p x u) ∧ t.holds.due = u.holds.due ∧ t.holds.buckets = u.holds.buckets ∧
    t.store.links = u.store.links
  rest : { t with clock := s.clock, holds := s.holds, store := s.store } = s

/-- No clock is taken. -/
theorem clockTaken_none {d : Directory} (s : State) (h : d.clockTake ≠ 1) : ClockTaken d s (clockTake d s) := by
  have htake : clockTake d s = s := if_neg h
  rw [htake]
  exact ⟨(if_neg h).symm, fun _ => rfl, fun h1 => absurd h1 h, fun h1 => absurd h1 h, rfl, rfl,
    fun _ x hx => ⟨x, fun _ => rfl, fun p hfar => absurd hfar.1 h, congrArg HoldTable.due hx.holds, congrArg HoldTable.buckets hx.holds, hx.links⟩, rfl⟩

/-- The clock is set for the first time. -/
theorem clockTaken_first {d : Directory} (s : State) (h : d.clockTake = 1) (hset : s.clock.set = false) : ClockTaken d s (clockTake d s) := by
  have htake : clockTake d s = startSweep (s.setClock { phase := 0, tick := 0, second := 0, minute := d.startMinute, day := d.startDay, set := true }) := by
    rw [clockTake, if_pos h, hset]
    rfl
  rw [htake]
  exact ⟨(if_pos h).symm, fun h1 => absurd h h1, fun _ _ => rfl, fun _ p hp => by simp [hset] at hp, rfl, rfl,
    fun _ x hx => ⟨x, fun _ => rfl, fun p hfar => by simp [FarStep, hset] at hfar, (congrArg HoldTable.due hx.holds :),
      (congrArg HoldTable.buckets hx.holds :), hx.links⟩, rfl⟩

theorem joined_of_sameLinks {q now : Int} {t u v x : State} (h : t = u.setSweep now) (hjoined : AllBucketsJoined q x v)
    (hsame : u.holds = v.holds ∧ u.store.links = v.store.links) :
    ∃ u, AllBucketsJoined q x u ∧ t.store.links = u.store.links ∧ t.holds = { u.holds with sweep := some now } := by
  subst h
  exact ⟨v, hjoined, hsame.2, congrArg (fun z : HoldTable => { z with sweep := some now }) hsame.1⟩

/-- A far step joins the buckets of any state with the same chains. -/
theorem joined_of_movedSame {q now : Int} {s t x : State} (h : t = (moveAllBuckets q s).setSweep now) (hx : SameChains s x) :
    ∃ u, AllBucketsJoined q x u ∧ t.store.links = u.store.links ∧ t.holds = { u.holds with sweep := some now } :=
  joined_of_sameLinks h (moveAllBuckets_joined q x) ((moveAllBuckets_chainStep q).2 s x hx)

/-- The clock takes a step, which the sweep follows. -/
theorem clockTaken_step {d : Directory} (s : State) (h : d.clockTake = 1) (hset : s.clock.set = true) : ClockTaken d s (clockTake d s) := by
  have htake : clockTake d s = followStep s.clock.now
      (s.setClock { phase := 0, tick := 0, second := 0, minute := d.startMinute, day := d.startDay, set := true }) := by
    rw [clockTake, if_pos h, hset]
    rfl
  rw [htake]
  generalize hc : ({ phase := 0, tick := 0, second := 0, minute := d.startMinute, day := d.startDay, set := true } : Clock) = c
  have hfollowed := followStep_followed s.clock.now (s.setClock c)
  have hnow : (s.setClock c).clock.now = c.now := rfl
  rw [hnow] at hfollowed
  generalize followStep s.clock.now (s.setClock c) = t at hfollowed ⊢
  have hclock : t.clock = c := (congrArg State.clock hfollowed.only :)
  have hstore : { t.store with links := s.store.links } = s.store := (congrArg (fun u : State => { u.store with links := s.store.links }) hfollowed.only :)
  have hstep : ∀ p : Int, s.holds.sweep = some p → t.holds.sweep =
      some (if c.now < s.clock.now then min p ((c.now : Int) - 1) else if s.clock.now < c.now ∧ 4096 ≤ (c.now : Int) - p then (c.now : Int) else p) := by
    intro p hp
    by_cases hback : c.now < s.clock.now
    · rw [if_pos hback, hfollowed.back p hp hback]
    · rw [if_neg hback]
      by_cases hfar : s.clock.now < c.now ∧ 4096 ≤ (c.now : Int) - p
      · rw [if_pos hfar, (hfollowed.far p hp hfar.1 hfar.2).1]
      · rw [if_neg hfar, hfollowed.stays p hp (by omega) (by omega)]
  have hfarStep : ∀ p, FarStep d s c.now p ↔ s.holds.sweep = some p ∧ s.clock.now < c.now ∧ 4096 ≤ (c.now : Int) - p := fun p =>
    ⟨fun ⟨_, _, hp, hlt, hge⟩ => ⟨hp, hlt, hge⟩, fun ⟨hp, hlt, hge⟩ => ⟨h, hset, hp, hlt, hge⟩⟩
  have hclockIf : t.clock = if d.clockTake = 1 then c else s.clock := by rw [if_pos h, hclock]
  by_cases hfar : ∃ p, FarStep d s c.now p
  · obtain ⟨p, hp⟩ := hfar
    obtain ⟨hsweep, hlt, hge⟩ := (hfarStep p).mp hp
    obtain ⟨-, hdamaged, hjoins⟩ := hfollowed.far p hsweep hlt hge
    have hsame : ∀ q, FarStep d s c.now q → q = p := fun q hq => Option.some.inj (((hfarStep q).mp hq).1.symm.trans hsweep)
    cases hmark : s.header.damaged with
    | true =>
      obtain ⟨hkeptStore, hkeptHolds⟩ := hdamaged hmark
      refine ⟨by rw [hc]; exact hclockIf, fun h1 => absurd h h1, fun _ hnot => by simp [hset] at hnot, fun _ q _ hq => by rw [hclock]; exact hstep q hq, ?_,
        hstore, fun hnot => by simp [hmark] at hnot, (congrArg (fun u : State => { u with clock := s.clock, holds := s.holds, store := s.store }) hfollowed.only :)⟩
      exact (congrArg (fun u : HoldTable => { u with due := s.holds.due, buckets := s.holds.buckets }) hkeptHolds :)
    | false =>
      have hmoved := hjoins hmark
      have hbuckets := moveAllBuckets_holds p (s.setClock c)
      refine ⟨by rw [hc]; exact hclockIf, fun h1 => absurd h h1, fun _ hnot => by simp [hset] at hnot, fun _ q _ hq => by rw [hclock]; exact hstep q hq, ?_,
        hstore, fun _ x hx => ?_,
        (congrArg (fun u : State => { u with clock := s.clock, holds := s.holds, store := s.store }) hfollowed.only :)⟩
      · generalize moveAllBuckets p (s.setClock c) = v at hmoved hbuckets
        rw [hmoved]
        exact (congrArg (fun u : HoldTable => { u with sweep := s.holds.sweep }) hbuckets :)
      · obtain ⟨u, hjoined, hlinks, hholds⟩ := joined_of_movedSame hmoved ⟨hx.holds, hx.links, hx.rows⟩
        refine ⟨u, fun hnone => ?_, fun q hq => ?_, ?_, ?_, hlinks⟩
        · rw [hclock] at hnone
          exact absurd hp (hnone p)
        · rw [hclock] at hq
          rw [hsame q hq]
          exact hjoined
        · rw [hholds]
        · rw [hholds]
  · have hnone : ∀ p, ¬ FarStep d s c.now p := fun p hp => hfar ⟨p, hp⟩
    obtain ⟨hkeptStore, hkeptHolds⟩ := hfollowed.chains fun q hq => hnone q ((hfarStep q).mpr hq)
    have hkeptHolds : { t.holds with sweep := s.holds.sweep } = s.holds := hkeptHolds
    refine ⟨by rw [hc]; exact hclockIf, fun h1 => absurd h h1, fun _ hnot => by simp [hset] at hnot, fun _ q _ hq => by rw [hclock]; exact hstep q hq, ?_,
      hstore, fun _ x hx => ⟨x, fun _ => rfl, fun p hp => absurd (hclock ▸ hp) (hnone p), ?_, ?_, ?_⟩,
      (congrArg (fun u : State => { u with clock := s.clock, holds := s.holds, store := s.store }) hfollowed.only :)⟩
    · exact (congrArg (fun u : HoldTable => { u with due := s.holds.due, buckets := s.holds.buckets }) hkeptHolds :)
    · exact (congrArg HoldTable.due hkeptHolds :).trans (congrArg HoldTable.due hx.holds)
    · exact (congrArg HoldTable.buckets hkeptHolds :).trans (congrArg HoldTable.buckets hx.holds)
    · exact (congrArg Store.links hkeptStore :).trans hx.links

theorem clockTake_taken (d : Directory) (s : State) : ClockTaken d s (clockTake d s) := by
  by_cases h : d.clockTake = 1
  · cases hset : s.clock.set with
    | false => exact clockTaken_first s h hset
    | true => exact clockTaken_step s h hset
  · exact clockTaken_none s h

/-! ### The record of the partition (R92, R131) -/

/-- What the record of the partition leaves, with `n` hold rows. -/
structure PartitionRecorded (d : Directory) (n : Nat) (s t : State) : Prop where
  header : t.header = { s.header with partition := some d.partition }
  headerOne : s.store.header.one = .clean → t.store.header.one = .clean
  same : s.header.partition ≠ none → t = s
  free : s.header.partition = none → t.holds = { s.holds with free := { head := some 0, tail := some (n - 1), count := n } }
  ends : s.header.partition = none → (t.linkWord 0).word = { (s.linkWord 0).word with prev := none } ∧
    (t.linkWord (n - 1)).word = { (s.linkWord (n - 1)).word with next := none }
  others : ∀ i, i ≠ 0 → i ≠ n - 1 → t.linkWord i = s.linkWord i
  kept : { t.holds with free := s.holds.free } = s.holds
  store : { t.store with links := s.store.links, header := s.store.header } = s.store
  rest : { t with holds := s.holds, store := s.store } = s

/-- The state with the partition and the free chain's ends recorded. -/
def State.freeRecorded (s : State) (d : Directory) (n : Nat) : State :=
  let t := joinPrev 0 none (joinNext (n - 1) none (s.putHeader { s.header with partition := some d.partition }))
  t.setHolds { t.holds with free := { head := some 0, tail := some (n - 1), count := n } }

/-- The partition is recorded once the free chain's two outer links are none. -/
theorem partitionRecorded_of {d : Directory} {n : Nat} {s z : State} (hnone : s.header.partition = none) (hn : n - 1 ≠ 0)
    (honly : ChainsOnly (s.putHeader { s.header with partition := some d.partition }) z) (hholds : z.holds = s.holds)
    (hlinks : ∀ i, z.linkWord i = if i = 0 then { word := { (s.linkWord 0).word with prev := none } }
      else if i = n - 1 then { word := { (s.linkWord (n - 1)).word with next := none } } else s.linkWord i) :
    PartitionRecorded d n s (z.setHolds { z.holds with free := { head := some 0, tail := some (n - 1), count := n } }) := by
  have hset : ∀ i, (z.setHolds { z.holds with free := { head := some 0, tail := some (n - 1), count := n } }).linkWord i = z.linkWord i := fun _ => rfl
  refine ⟨(congrArg State.header honly :), fun _ => (congrArg (fun u : State => u.store.header.one) honly :), fun h => absurd hnone h,
    fun _ => ?_, fun _ => ⟨?_, ?_⟩, fun i h0 h1 => ?_, ?_, ?_, ?_⟩
  · exact congrArg (fun h : HoldTable => { h with free := { head := some 0, tail := some (n - 1), count := n } }) hholds
  · rw [hset, hlinks, if_pos rfl]
  · rw [hset, hlinks, if_neg hn, if_pos rfl]
  · rw [hset, hlinks, if_neg h0, if_neg h1]
  · exact (congrArg (fun h : HoldTable => { h with free := s.holds.free }) hholds :)
  · exact (congrArg (fun u : State => { u.store with links := s.store.links, header := s.store.header }) honly :)
  · exact (congrArg (fun u : State => { u with holds := s.holds, store := s.store }) honly :)

theorem freeRecorded_recorded {d : Directory} {n : Nat} {s : State} (hnone : s.header.partition = none) (hn : n - 1 ≠ 0) :
    PartitionRecorded d n s (s.freeRecorded d n) := by
  refine partitionRecorded_of hnone hn (((joinNext_chainStep (n - 1) none).comp (joinPrev_chainStep 0 none)).1 _) rfl fun i => ?_
  have hput : ∀ j, (s.putHeader { s.header with partition := some d.partition }).linkWord j = s.linkWord j := fun _ => rfl
  rw [linkWord_joinPrev, linkWord_joinNext, linkWord_joinNext, if_neg (Ne.symm hn), hput, hput, hput]
  rfl

theorem recordPartition_recorded {d : Directory} {n : Nat} {s : State} (hn : Config.holdRows d.partition = n) (hpos : n - 1 ≠ 0)
    (h : s.header.partition = none ∨ s.header.partition = some d.partition) : PartitionRecorded d n s (recordPartition d s) := by
  rcases h with h | h
  · have heq : recordPartition d s = s.freeRecorded d n := by
      rw [recordPartition, h, ← hn]
      rfl
    rw [heq]
    exact freeRecorded_recorded h hpos
  · have heq : recordPartition d s = s := by rw [recordPartition, h]
    rw [heq]
    have hnot : s.header.partition ≠ none := by simp [h]
    exact ⟨by rw [← h], id, fun _ => rfl, fun h => absurd h hnot, fun h => absurd h hnot, fun _ _ _ => rfl, rfl, rfl, rfl⟩

/-! ### The examination of the programme records (R36) -/

/-- Each record loses its enabled flag where its range leaves the card region; nothing else moves. -/
theorem examineProgrammes_examined (s : State) :
    (∀ n, n < 16 → Sparse.get {} (examineProgrammes s).tables.programmes n = examineProgramme s.cardRows (Sparse.get {} s.tables.programmes n)) ∧
      (examineProgrammes s).tables.rules = s.tables.rules ∧ { examineProgrammes s with tables := s.tables } = s := by
  let examine (t : State) (n : Nat) : State := t.setTables { t.tables with
    programmes := Sparse.set {} t.tables.programmes n (examineProgramme t.cardRows (Sparse.get {} t.tables.programmes n)) }
  have hfirst : ∀ m, (let t := (List.range m).foldl examine s
      (∀ n, Sparse.get {} t.tables.programmes n =
        if n < m then examineProgramme s.cardRows (Sparse.get {} s.tables.programmes n) else Sparse.get {} s.tables.programmes n) ∧
      t.tables.rules = s.tables.rules ∧ { t with tables := s.tables } = s) := fun m => by
    induction m with
    | zero => exact ⟨fun n => (if_neg (Nat.not_lt_zero n)).symm, rfl, rfl⟩
    | succ m ih =>
      dsimp only at ih ⊢
      rw [List.range_succ, List.foldl_append]
      generalize (List.range m).foldl examine s = t at ih
      obtain ⟨hget, hrules, hrest⟩ := ih
      have hrows : t.cardRows = s.cardRows := (congrArg State.cardRows hrest :)
      refine ⟨fun n => ?_, hrules, hrest⟩
      change Sparse.get {} (Sparse.set {} t.tables.programmes m _) n = _
      by_cases hn : n = m
      · rw [hn, Sparse.get_set_same, hrows, hget, if_neg (lt_irrefl m), if_pos (Nat.lt_succ_self m)]
      · rw [Sparse.get_set_other _ _ _ hn, hget]
        by_cases hlt : n < m
        · rw [if_pos hlt, if_pos (by omega)]
        · rw [if_neg hlt, if_neg (by omega)]
  obtain ⟨hget, hrules, hrest⟩ := hfirst 16
  exact ⟨fun n hn => (hget n).trans (if_pos hn), hrules, hrest⟩

theorem examineProgramme_eq (rows : Nat) (p : Programme) :
    examineProgramme rows p = { p with enabled := p.enabled && decide (p.rowBase + p.rowCount ≤ rows) } := by
  unfold examineProgramme
  by_cases h : p.rowBase + p.rowCount ≤ rows
  · rw [if_neg fun h' => absurd h (not_le.mpr h'.2), decide_eq_true h, Bool.and_true]
  · rw [decide_eq_false h, Bool.and_false]
    split
    · rfl
    · next hnot =>
      cases he : p.enabled with
      | false => rw [← he]
      | true => exact absurd ⟨he, not_le.mp h⟩ hnot

end Sys2Proof.Machine
end

section
/-! PROOFS. A START whose directory passes every check (spec/10, R181, R183, R184; spec/07, R131, R138; O13). -/

namespace Sys2Proof.Machine

/-! ### The clock take and the record of the partition together -/

/-- What steps 1 and 2 leave of the state `s` that a START finds, with `n` hold rows. -/
structure StoreTaken (d : Directory) (n : Nat) (s t : State) : Prop where
  control : t.control = (s.directoryRead d).control
  clock : t.clock =
    if d.clockTake = 1 then { phase := 0, tick := 0, second := 0, minute := d.startMinute, day := d.startDay, set := true } else s.clock
  sweepKept : d.clockTake ≠ 1 → t.holds.sweep = s.holds.sweep
  sweepFirst : d.clockTake = 1 → s.clock.set = false → t.holds.sweep = some (t.clock.now : Int)
  sweepStep : d.clockTake = 1 → ∀ p : Int, s.clock.set = true → s.holds.sweep = some p → t.holds.sweep =
    some (if t.clock.now < s.clock.now then min p ((t.clock.now : Int) - 1)
      else if s.clock.now < t.clock.now ∧ 4096 ≤ (t.clock.now : Int) - p then (t.clock.now : Int) else p)
  header : t.header = { s.header with partition := some d.partition }
  headerOne : t.store.header.one = .clean
  free : s.header.partition = none → t.holds.free = { head := some 0, tail := some (n - 1), count := n } ∧
    (t.linkWord 0).word.prev = none ∧ (t.linkWord (n - 1)).word.next = none
  freeKept : s.header.partition = some d.partition → t.holds.free = s.holds.free
  chains : s.header.damaged = false → ∃ u, ((∀ p, ¬ FarStep d s t.clock.now p) → u = s) ∧
    (∀ p, FarStep d s t.clock.now p → AllBucketsJoined p s u) ∧ t.holds.due = u.holds.due ∧ t.holds.buckets = u.holds.buckets ∧
    (s.header.partition = some d.partition → t.store.links = u.store.links) ∧
    (s.header.partition = none →
      (∀ i, i ≠ 0 → i ≠ n - 1 → t.linkWord i = u.linkWord i) ∧
      (t.linkWord 0).word.next = (u.linkWord 0).word.next ∧ (t.linkWord (n - 1)).word.prev = (u.linkWord (n - 1)).word.prev)
  hand : t.holds.hand = s.holds.hand
  store : { t.store with links := s.store.links, header := s.store.header } = s.store
  rest : { t with control := s.control, clock := s.clock, holds := s.holds, store := s.store } = s

section
variable {d : Directory} {n : Nat} {s : State}

/-- Both steps made from the state in which the header has been read. -/
theorem storeTaken_of {x : StoredHeader} {v w : State} (hx : x.header = s.header) (hone : x.one = .clean)
    (htaken : ClockTaken d ((s.directoryRead d).setStore { s.store with header := x }) v) (hrecorded : PartitionRecorded d n v w) :
    StoreTaken d n s w := by
  have hvstore : { v.store with links := s.store.links } = { s.store with header := x } := htaken.store
  have hvheader : v.header = s.header := (congrArg (fun st : Store => st.header.header) hvstore :).trans hx
  have hvone : v.store.header.one = .clean := (congrArg (fun st : Store => st.header.one) hvstore :).trans hone
  have hvcontrol : v.control = (s.directoryRead d).control := (congrArg State.control htaken.rest :)
  have hwcontrol : w.control = v.control := (congrArg State.control hrecorded.rest :)
  have hwclock : w.clock = v.clock := (congrArg State.clock hrecorded.rest :)
  have hwsweep : w.holds.sweep = v.holds.sweep := (congrArg HoldTable.sweep hrecorded.kept :)
  have hwdue : w.holds.due = v.holds.due := (congrArg HoldTable.due hrecorded.kept :)
  have hwbuckets : w.holds.buckets = v.holds.buckets := (congrArg HoldTable.buckets hrecorded.kept :)
  have hvhand : v.holds.hand = s.holds.hand := (congrArg HoldTable.hand htaken.holds :)
  have hvfree : v.holds.free = s.holds.free := (congrArg HoldTable.free htaken.holds :)
  have hsame : s.header.partition = some d.partition → w = v := fun h => hrecorded.same (by rw [hvheader, h]; simp)
  have hread : SameChains ((s.directoryRead d).setStore { s.store with header := x }) s := by
    refine ⟨rfl, rfl, ?_⟩
    change (match x.header.partition with | none => 0 | some p => Config.holdRows p) = s.holdRows
    rw [hx]
    rfl
  have hmark : ((s.directoryRead d).setStore { s.store with header := x }).header.damaged = s.header.damaged := congrArg Header.damaged hx
  refine ⟨hwcontrol.trans hvcontrol, hwclock.trans htaken.clock, fun h => hwsweep.trans (htaken.kept h), fun h hset => ?_, fun h p hset hp => ?_, ?_,
    hrecorded.headerOne hvone, fun h => ?_, fun h => ?_, fun h => ?_, ?_, ?_, ?_⟩
  · rw [hwsweep, hwclock]
    exact htaken.first h hset
  · rw [hwsweep, hwclock]
    exact htaken.step h p hset hp
  · rw [hrecorded.header, hvheader]
  · have hnone : v.header.partition = none := by rw [hvheader, h]
    obtain ⟨hzero, hlast⟩ := hrecorded.ends hnone
    rw [hrecorded.free hnone, hzero, hlast]
    exact ⟨rfl, rfl, rfl⟩
  · rw [hsame h, hvfree]
  · obtain ⟨u, hnear, hfar, hdue, hbuckets, hlinks⟩ := htaken.chains (hmark.trans h) s hread
    rw [hwclock, hwdue, hwbuckets]
    refine ⟨u, hnear, hfar, hdue, hbuckets, fun hp => by rw [hsame hp, hlinks], fun hp => ?_⟩
    have hnone : v.header.partition = none := by rw [hvheader, hp]
    have hword : ∀ i, v.linkWord i = u.linkWord i := fun i => by rw [State.linkWord, State.linkWord, hlinks]
    obtain ⟨hzero, hlast⟩ := hrecorded.ends hnone
    refine ⟨fun i h0 h1 => (hrecorded.others i h0 h1).trans (hword i), ?_, ?_⟩
    · rw [hzero, hword]
    · rw [hlast, hword]
  · exact (congrArg HoldTable.hand hrecorded.kept :).trans hvhand
  · exact (congrArg (fun st : Store => { st with links := s.store.links, header := s.store.header }) hrecorded.store :).trans
      (congrArg (fun st : Store => { st with header := s.store.header }) hvstore :)
  · exact (congrArg (fun z : State => { z with control := s.control, clock := s.clock, holds := s.holds, store := s.store }) hrecorded.rest :).trans
      (congrArg (fun z : State => { z with control := s.control, clock := s.clock, holds := s.holds, store := s.store }) htaken.rest :)

/-! ### The rebuild (R138) -/

theorem rebuiltRows_congr {t : State} (p : Option Int) (c : ChainId) (hhold : ∀ i, t.hold i = s.hold i)
    (hlisted : ∀ i, t.isListed .hold i = s.isListed .hold i) : t.rebuiltRows p n c = s.rebuiltRows p n c :=
  List.filter_congr fun i _ => by rw [rebuiltIn_congr (hhold i) (hlisted i)]

/-- The rows placed from the state that steps 1 and 2 leave. -/
theorem StoreTaken.rebuilt {w r t : State} (h : StoreTaken d n s w) (hplaced : RowsPlaced n w r) (hholds : t.holds = r.holds)
    (hstore : t.store = { r.store with header := t.store.header }) (hnotices : t.notices = r.notices) (hlink : t.link = r.link)
    (hwords : t.control.engineWords = some d.engineWords) : ChainsRebuilt n s t := by
  have hrows : w.store.holds = s.store.holds := (congrArg Store.holds h.store :)
  have hquarantine : w.store.quarantine = s.store.quarantine := (congrArg Store.quarantine h.store :)
  have hoverflow : w.store.overflow = s.store.overflow := (congrArg Store.overflow h.store :)
  have hwnotices : w.notices = s.notices := (congrArg State.notices h.rest :)
  have hwlink : w.link = s.link := (congrArg State.link h.rest :)
  have hhold : ∀ i, w.hold i = s.hold i := fun i => by rw [State.hold, State.hold, hrows]
  have hlisted : ∀ i, w.isListed .hold i = s.isListed .hold i := fun i => by rw [State.isListed, State.isListed, hquarantine]
  have htlinks : t.store.links = r.store.links := (congrArg Store.links hstore :)
  have htrows : t.store.holds = r.store.holds := (congrArg Store.holds hstore :)
  have htquarantine : t.store.quarantine = r.store.quarantine := (congrArg Store.quarantine hstore :)
  have htoverflow : t.store.overflow = r.store.overflow := (congrArg Store.overflow hstore :)
  have htword : ∀ i, t.linkWord i = r.linkWord i := fun i => by rw [State.linkWord, State.linkWord, htlinks]
  have htlisted : ∀ i, t.isListed .hold i = r.isListed .hold i := fun i => by rw [State.isListed, State.isListed, htquarantine]
  refine ⟨fun c => ?_, fun i hi => ?_, fun i => ?_, ?_, fun q hq => ?_, fun i hi hlost => ?_, fun hall => ?_, ?_, fun y hy => ?_, ?_⟩
  · have hchain := (hplaced.chains c).congr hholds htlinks
    rw [hholds, hplaced.sweep, ← rebuiltRows_congr w.holds.sweep c hhold hlisted]
    exact ⟨hchain.ends, hchain.links⟩
  · rw [htword]
    exact hplaced.fresh i hi
  · have hcontents := hplaced.contents i
    rw [State.hold, htrows]
    rw [hhold] at hcontents
    exact hcontents
  · rw [hholds, hplaced.hand, h.hand]
  · rw [htquarantine]
    exact hplaced.kept q (by rw [hquarantine]; exact hq)
  · rw [htlisted, htoverflow]
    exact hplaced.listed i hi (by rw [hhold]; exact hlost)
  · rw [htquarantine, htoverflow, hnotices, hlink, ← hquarantine, ← hoverflow, ← hwnotices, ← hwlink]
    exact hplaced.allRead fun i hi => by rw [hlisted, hhold]; exact hall i hi
  · rw [hnotices, ← hwnotices]
    exact hplaced.raised
  · rw [hlink, ← hwlink]
    refine hplaced.memory y fun a ha => hy a ?_
    rw [hwords]
    rw [h.control] at ha
    exact ha
  · rw [hlink, ← hwlink]
    exact hplaced.link

/-- What step 3 leaves of the state `w` that steps 1 and 2 leave: the chains rebuilt where the mark is set, and nothing else. -/
structure ChainsReady (w t : State) : Prop where
  whole : w.header.damaged = false → t = w
  rebuilt : w.header.damaged = true → ∃ r, t = r.putHeader { w.header with damaged := false } ∧ RowsPlaced w.holdRows w r
  header : t.header = { w.header with damaged := false }
  headerOne : w.store.header.one = .clean → t.store.header.one = .clean
  sweep : t.holds.sweep = w.holds.sweep
  hand : t.holds.hand = w.holds.hand
  store : { t.store with
    header := w.store.header, holds := w.store.holds, links := w.store.links, quarantine := w.store.quarantine,
    overflow := w.store.overflow } = w.store
  rest : { t with store := w.store, holds := w.holds, notices := w.notices, link := w.link } = w

theorem chainsReady (w : State) : ChainsReady w (if w.header.damaged then rebuildChains w else w) := by
  cases hmark : w.header.damaged with
  | false =>
    rw [if_neg Bool.false_ne_true]
    exact ⟨fun _ => rfl, by simp [hmark], by rw [← hmark], id, rfl, rfl, rfl, rfl⟩
  | true =>
    obtain ⟨r, hrebuilt, hplaced⟩ := rebuildChains_placed w
    rw [if_pos rfl, hrebuilt]
    exact ⟨by simp [hmark], fun _ => ⟨r, rfl, hplaced⟩, rfl, fun _ => rfl, hplaced.sweep, hplaced.hand,
      (congrArg (fun st : Store => { st with header := w.store.header }) hplaced.store :), hplaced.rest⟩

/-- The state in which STARTING waits for the append queue to empty, step 3 having left `r`. -/
def State.checked (r : State) (d : Directory) : State :=
  (examineProgrammes r).setControl { (examineProgrammes r).control with starting := some d }

theorem checked_rest (r : State) : { r.checked d with tables := r.tables, control := r.control } = r :=
  (congrArg (fun z : State => { z with control := r.control }) (examineProgrammes_examined r).2.2 :)

theorem checked_control (r : State) : (r.checked d).control = { r.control with starting := some d } :=
  (congrArg (fun z : State => { z.control with starting := some d }) (examineProgrammes_examined r).2.2 :)

theorem checked_rules (r : State) : (r.checked d).tables.rules = r.tables.rules := (examineProgrammes_examined r).2.1

theorem checked_programme {r : State} {rows k : Nat} (hrows : r.cardRows = rows) (hk : k < 16) :
    Sparse.get {} (r.checked d).tables.programmes k =
      { Sparse.get {} r.tables.programmes k with
        enabled := (Sparse.get {} r.tables.programmes k).enabled &&
          decide ((Sparse.get {} r.tables.programmes k).rowBase + (Sparse.get {} r.tables.programmes k).rowCount ≤ rows) } := by
  rw [← hrows]
  exact ((examineProgrammes_examined r).1 k hk).trans (examineProgramme_eq _ _)

end

/-- The clock take leaves the header. -/
theorem ClockTaken.header {d : Directory} {s t : State} (h : ClockTaken d s t) : t.header = s.header :=
  (congrArg (fun st : Store => st.header.header) h.store :)

/-- Steps 1 to 4, from the state in which the header has been read. -/
theorem startingSteps_steps {d : Directory} {n : Nat} {s : State} {x : StoredHeader} (hx : x.header = s.header) (hone : x.one = .clean)
    (hn : Config.holdRows d.partition = n) (hpos : n - 1 ≠ 0) (hpart : s.header.partition = none ∨ s.header.partition = some d.partition) :
    ∃ w r, startingSteps d ((s.directoryRead d).setStore { s.store with header := x }) = r.checked d ∧ StoreTaken d n s w ∧ ChainsReady w r := by
  have htaken := clockTake_taken d ((s.directoryRead d).setStore { s.store with header := x })
  have hheader : (clockTake d ((s.directoryRead d).setStore { s.store with header := x })).header = s.header := htaken.header.trans hx
  exact ⟨_, _, rfl, storeTaken_of hx hone htaken (recordPartition_recorded hn hpos (by rw [hheader]; exact hpart)), chainsReady _⟩

/-- A partition has hold rows behind the first (R129). -/
theorem holdRows_pos {p : Nat} (h : p ≤ 15) : Config.holdRows p - 1 ≠ 0 := by
  unfold Config.holdRows
  omega

/-- Settles O13: the clock take and the record of the partition, the rebuild where the mark is set, and the examination of the programme records. -/
theorem startMakesTheStartingSteps : Obligations.StartMakesTheStartingSteps := by
  unfold Obligations.StartMakesTheStartingSteps
  intro e s₀ s h tb d hs hengine hreset hzero haligned hread hrev hlanes hd hle hcopy hpart hcheck
  obtain ⟨x, hcheckp, hx, hone⟩ := checkPartition_read (s := s.directoryRead d) hle hcopy
  have hok : readDirectory s s.anchor = .ok d := by
    rw [hd]
    exact readDirectory_ok hzero haligned hread hrev hlanes
  have hexec := start_begins hs hengine hreset
  rw [runStarting_passes hok (hcheckp.trans (congrArg (Prod.mk _) (decide_eq_true hpart))) hcheck] at hexec
  have hpos := holdRows_pos hle
  have hrows : ∀ v : State, v.header.partition = some d.partition → v.holdRows = Config.holdRows d.partition ∧ v.cardRows = Config.cardRows d.partition :=
    fun v hv => by rw [State.holdRows, State.cardRows, hv]; exact ⟨rfl, rfl⟩
  generalize hn : Config.holdRows d.partition = n at hpos hrows ⊢
  generalize Config.cardRows d.partition = cards at hrows ⊢
  obtain ⟨w, r, hsteps, htaken, hready⟩ := startingSteps_steps (s := s) hx hone hn hpos hpart
  have hsteps : startingSteps d ((s.directoryRead d).setStore { (s.directoryRead d).store with header := x }) = r.checked d := hsteps
  rw [hsteps] at hexec
  have hmark : w.header.damaged = s.header.damaged := (congrArg Header.damaged htaken.header :)
  have hwrows := (hrows w (congrArg Header.partition htaken.header)).1
  have hrcards := (hrows r ((congrArg Header.partition hready.header).trans (congrArg Header.partition htaken.header))).2
  have hprogramme := fun k hk => checked_programme (d := d) (k := k) hrcards hk
  have hrules := checked_rules (d := d) r
  have hcontrol := checked_control (d := d) r
  have hrest := checked_rest (d := d) r
  generalize r.checked d = t at hexec hprogramme hrules hcontrol hrest
  have hclock : t.clock = w.clock := (congrArg State.clock hrest :).trans (congrArg State.clock hready.rest :)
  have hholds : t.holds = r.holds := (congrArg State.holds hrest :)
  have hstore : t.store = r.store := (congrArg State.store hrest :)
  have htables : r.tables = s.tables := (congrArg State.tables hready.rest :).trans (congrArg State.tables htaken.rest :)
  have hrcontrol : r.control = (s.directoryRead d).control := (congrArg State.control hready.rest :).trans htaken.control
  have hsweep : t.holds.sweep = w.holds.sweep := by rw [hholds, hready.sweep]
  refine ⟨t, hexec, ?_, fun hzero => ⟨?_, ?_⟩, fun hone => ⟨?_, ?_, ?_⟩, ?_, ?_, fun hdamaged => ?_, fun hwhole => ?_, ?_, ?_, ?_, ?_, ?_, ?_, ?_, ?_, ?_,
    ?_, ?_, ?_⟩
  · rw [hcontrol, hrcontrol]
    rfl
  · rw [hclock, htaken.clock, if_neg (by omega)]
  · rw [hsweep, htaken.sweepKept (by omega)]
  · rw [hclock, htaken.clock, if_pos hone]
  · rw [hsweep, hclock]
    exact htaken.sweepFirst hone
  · rw [hsweep, hclock]
    exact htaken.sweepStep hone
  · rw [State.header, hstore]
    exact hready.header.trans (congrArg (fun y : Header => { y with damaged := false }) htaken.header)
  · rw [hstore]
    exact hready.headerOne htaken.headerOne
  · obtain ⟨v, hv, hplaced⟩ := hready.rebuilt (hmark.trans hdamaged)
    rw [hwrows] at hplaced
    rw [hv] at hrest hholds hstore
    refine htaken.rebuilt hplaced hholds ?_ (congrArg State.notices hrest :) (congrArg State.link hrest :) ?_
    · rw [hstore]
      rfl
    · rw [hcontrol, hrcontrol]
      rfl
  · have hr := hready.whole (hmark.trans hwhole)
    rw [hr] at hrest hholds hstore
    have hword : ∀ i, t.linkWord i = w.linkWord i := fun i => by rw [State.linkWord, State.linkWord, hstore]
    have hlink : t.link = s.link := (congrArg State.link hrest :).trans (congrArg State.link htaken.rest :)
    have hnotices : t.notices = s.notices := (congrArg State.notices hrest :).trans (congrArg State.notices htaken.rest :)
    have hwrows : w.store.holds = s.store.holds := (congrArg Store.holds htaken.store :)
    have hwquarantine : w.store.quarantine = s.store.quarantine := (congrArg Store.quarantine htaken.store :)
    simp only [hword, hholds, hstore, hclock]
    exact ⟨htaken.free, htaken.freeKept, htaken.chains hwhole, hwrows, hwquarantine, hlink, hnotices⟩
  · rw [← htables]
    exact hprogramme
  · rw [hrules, htables]
  · rw [hstore]
    exact (congrArg Store.cards hready.store :).trans (congrArg Store.cards htaken.store :)
  · rw [hstore]
    exact (congrArg Store.tills hready.store :).trans (congrArg Store.tills htaken.store :)
  · rw [hstore]
    exact (congrArg Store.trail hready.store :).trans (congrArg Store.trail htaken.store :)
  · rw [hstore]
    exact (congrArg Store.trailStatus hready.store :).trans (congrArg Store.trailStatus htaken.store :)
  · exact (congrArg State.lanes hrest :).trans ((congrArg State.lanes hready.rest :).trans (congrArg State.lanes htaken.rest :))
  · exact (congrArg State.units hrest :).trans ((congrArg State.units hready.rest :).trans (congrArg State.units htaken.rest :))
  · exact (congrArg State.locks hrest :).trans ((congrArg State.locks hready.rest :).trans (congrArg State.locks htaken.rest :))
  · exact (congrArg State.journal hrest :).trans ((congrArg State.journal hready.rest :).trans (congrArg State.journal htaken.rest :))
  · rw [hholds, hready.hand, htaken.hand]
  · exact (congrArg State.pending hrest :).trans ((congrArg State.pending hready.rest :).trans (congrArg State.pending htaken.rest :))

end Sys2Proof.Machine
end
